-- ==== Sys2Proof/Word.lean ====
section
/-! DEFINITION. The word types of the block (00_scope.md, R3) and the names of its numbered parts. -/

namespace Sys2Proof

/-- One byte. -/
abbrev Byte := BitVec 8
/-- A control-port word (R7). -/
abbrev Word := BitVec 32
/-- A 64-bit word: a scalar register (R254), a sync word (R213). -/
abbrev Word64 := BitVec 64
/-- A physical room, 0-31 (R10). -/
abbrev RoomId := Fin 32
/-- A host context, 0-31 (R280). -/
abbrev Ctx := Fin 32
/-- A job slot, 0-7 (R286). -/
abbrev SlotId := Fin 8
/-- A physical barrier channel, 0-7 (R205). -/
abbrev ChanId := Fin 8
/-- The port that a control access comes in by: the control port, with a host context, or the debug port, which acts as context 0
(R370). -/
inductive CtlPort where
  | control (c : Ctx)
  | debug
  deriving DecidableEq, Repr
/-- A control read's port and byte enables (R370). -/
structure ReadPort where
  port : CtlPort
  be : BitVec 4
  deriving DecidableEq, Repr
/-- An access of one word of a 64-bit register: which word, and the value of a write (R8). -/
structure HalfAccess where
  high : Bool
  write : Option Word
  deriving DecidableEq, Repr
/-- What completes in a room: the instruction that a unit queue's unit executes, or the drain beside the Floor's array (R77, R259). -/
inductive UnitEnd where
  | queue (q : Fin 5)
  | drain
  deriving DecidableEq, Repr
/-- The host context of an access (R280, R370). -/
def CtlPort.ctx : CtlPort → Ctx
  | .control c => c
  | .debug => 0
/-- Bytes the host has made visible in DRAM before a control write (R281): the key of the byte, which is its host context times 2^64
and its 48-bit virtual address (R188), and the value. -/
abbrev HostBytes := List (Nat × Byte)

end Sys2Proof
end

