-- ==== Sys2Proof/Syntax.lean ====
section
/-! DEFINITION. The commands of the block: one constructor of `Instr` per row of spec/opcode_table.json, and before
it the raw fields of a Figraorn instruction word (11_instruction_set.md, R261), which the Steward rows carry. -/

namespace Sys2Proof

/-- Format R of R261, every bit of [47:0]. -/
structure FmtR where
  rd : BitVec 7
  rs1 : BitVec 7
  rs2 : BitVec 7
  rsv : BitVec 27
  deriving DecidableEq, Repr

/-- Format I of R261. -/
structure FmtI where
  rd : BitVec 7
  rs1 : BitVec 7
  hi : Bool
  rsv : Bool
  imm : BitVec 32
  deriving DecidableEq, Repr

/-- The two forms of an arithmetic instruction (R262). -/
inductive FmtRI where
  | r (f : FmtR)
  | i (f : FmtI)
  deriving DecidableEq, Repr

/-- Format M of R261. -/
structure FmtM where
  rt : BitVec 7
  base : BitVec 4
  width : BitVec 3
  rsv : BitVec 2
  off : BitVec 32
  deriving DecidableEq, Repr

/-- Format B of R261. -/
structure FmtB where
  rs : BitVec 7
  rsv : BitVec 9
  off : BitVec 32
  deriving DecidableEq, Repr

/-- Format U of R261. -/
structure FmtU where
  ra : BitVec 4
  rb : BitVec 4
  rc : BitVec 4
  waitQ : BitVec 3
  k : BitVec 4
  post : Bool
  pen : Bool
  pred : BitVec 3
  imm : BitVec 24
  deriving DecidableEq, Repr

/-- A Figraorn instruction as its major and minor opcode name it (R262, R270). Rows of the table that differ only in
immediate bits (gated or not, the chunk phase, set or add, cancel, the barrier form) are one constructor here. -/
inductive Fis where
  | add (f : FmtRI) | sub (f : FmtRI) | and (f : FmtRI) | or (f : FmtRI) | xor (f : FmtRI)
  | shl (f : FmtRI) | shr (f : FmtRI) | mul (f : FmtRI)
  | li (f : FmtI) | ld (f : FmtM) | st (f : FmtM)
  | br (f : FmtB) | bz (f : FmtB) | bnz (f : FmtB) | loop (f : FmtB) | call (f : FmtB) | ret (f : FmtB)
  | nop (u : FmtU) | halt (u : FmtU) | trace (u : FmtU) | fault (u : FmtU)
  | flLoad (u : FmtU) | flRun (u : FmtU) | flThin (u : FmtU) | flDrain (u : FmtU) | flMode (u : FmtU)
  | scStep (u : FmtU) | scChunk (u : FmtU) | scFold (u : FmtU) | scExport (u : FmtU) | scImport (u : FmtU)
  | scFir (u : FmtU) | scEma (u : FmtU) | scModal (u : FmtU)
  | lmEval (u : FmtU) | lmSincos (u : FmtU) | lmStat (u : FmtU) | lmRed (u : FmtU) | lmSwap (u : FmtU)
  | paAttend (u : FmtU) | paPageset (u : FmtU)
  | dwLaunch (u : FmtU) | dwWait (u : FmtU) | dwSwap (u : FmtU) | dwPut (u : FmtU) | dwAdd (u : FmtU)
  | dwMcast (u : FmtU)
  | syArrive (u : FmtU) | sySignal (u : FmtU) | syAdd (u : FmtU) | syWatch (u : FmtU) | syWait (u : FmtU)
  | syFence (u : FmtU)
  deriving DecidableEq, Repr

/-- What start-up meets outside the model (R304, R305, R309): whether the serial NOR answers with a part that R309
accepts, what its SFDP reports, and which self-tests pass. -/
structure BootFacts where
  partOk : Bool
  sectors : Nat
  tSusUs : BitVec 16
  eraseTypMs : BitVec 16
  eraseMaxMs : BitVec 16
  tRsUs : BitVec 16
  roomsPass : BitVec 32
  hubPass : Bool
  deriving DecidableEq, Repr

/-- The values of one room in one room cycle of the events of R348 that no state of the block gives, by event code; a code that is
not listed is 0. -/
abbrev CycleEvents := List (Nat × Nat)

/-- The stores of R179, by their code. -/
abbrev StoreCode := Fin 9

/-- The commands. One constructor per row of spec/opcode_table.json, in the table's order. -/
inductive Instr where
  -- The Steward's scalar, branch and system instructions (R262-R264, R270)
  | add (r : RoomId) (f : FmtRI)
  | sub (r : RoomId) (f : FmtRI)
  | and (r : RoomId) (f : FmtRI)
  | or (r : RoomId) (f : FmtRI)
  | xor (r : RoomId) (f : FmtRI)
  | shl (r : RoomId) (f : FmtRI)
  | shr (r : RoomId) (f : FmtRI)
  | mul (r : RoomId) (f : FmtRI)
  | li (r : RoomId) (f : FmtI)
  | ld (r : RoomId) (f : FmtM)
  | st (r : RoomId) (f : FmtM)
  | br (r : RoomId) (f : FmtB)
  | bz (r : RoomId) (f : FmtB)
  | bnz (r : RoomId) (f : FmtB)
  | loop (r : RoomId) (f : FmtB)
  | call (r : RoomId) (f : FmtB)
  | ret (r : RoomId) (f : FmtB)
  | nop (r : RoomId) (u : FmtU)
  | halt (r : RoomId) (u : FmtU)
  | trace (r : RoomId) (u : FmtU)
  | fault (r : RoomId) (u : FmtU)
  -- The Floor
  | flLoad (r : RoomId) (u : FmtU)
  | flRun (r : RoomId) (u : FmtU)
  | flThin (r : RoomId) (u : FmtU)
  | flDrain (r : RoomId) (u : FmtU)
  | flMode (r : RoomId) (u : FmtU)
  | floorIdle (r : RoomId)
  -- The Stair
  | scStep (r : RoomId) (u : FmtU)
  | scStepGated (r : RoomId) (u : FmtU)
  | scChunkPrep (r : RoomId) (u : FmtU)
  | scChunkCarry (r : RoomId) (u : FmtU)
  | scChunkState (r : RoomId) (u : FmtU)
  | scFold (r : RoomId) (u : FmtU)
  | scExport (r : RoomId) (u : FmtU)
  | scImport (r : RoomId) (u : FmtU)
  | scFir (r : RoomId) (u : FmtU)
  | scEma (r : RoomId) (u : FmtU)
  | scModal (r : RoomId) (u : FmtU)
  -- The Lamp
  | lmEval (r : RoomId) (u : FmtU)
  | lmSincos (r : RoomId) (u : FmtU)
  | lmStat (r : RoomId) (u : FmtU)
  | lmRed (r : RoomId) (u : FmtU)
  | lmSwap (r : RoomId) (u : FmtU)
  -- The Parlour
  | paAttend (r : RoomId) (u : FmtU)
  | paPagesetAdvance (r : RoomId) (u : FmtU)
  | paPagesetNarrow (r : RoomId) (u : FmtU)
  -- The Dumbwaiter
  | dwLaunch (r : RoomId) (u : FmtU)
  /-- The room whose Dumbwaiter queue has a launch at its head (R194). -/
  | dwLaunchStart (r : RoomId)
  | dwLaunchComplete (r : RoomId) (ch : Fin 4)
  | dwWait (r : RoomId) (u : FmtU)
  | dwSwap (r : RoomId) (u : FmtU)
  | dwPut (r : RoomId) (u : FmtU)
  | dwAdd (r : RoomId) (u : FmtU)
  | dwMcast (r : RoomId) (u : FmtU)
  /-- A free read or write tag of a port (R189). -/
  | tagGrant (port : Fin 4) (write : Bool) (tag : BitVec 8)
  /-- The place in the list of remote operations in flight (R196, R197). -/
  | remoteWriteApply (n : Nat)
  | remoteAddApply (n : Nat)
  | readReturnService (n : Nat)
  | remoteAck (n : Nat)
  /-- The next packet of a multicast, to the attached receivers or by replay to one detached room (R200). -/
  | mcastSend (n : Nat) (replay : Option RoomId)
  | mcastDetach (n : Nat) (r : RoomId)
  | pantryRelease (n : Nat)
  /-- The room's step time, in units of 16 Hall cycles, reaches a launch's deadline (R192). -/
  | scheduleBreach (r : RoomId) (ch : Fin 4) (now : Nat)
  /-- A store (of room `r`, for the room stores) and the index of its corrected word (R178). -/
  | eccRewrite (r : RoomId) (store : StoreCode) (word : Nat)
  /-- Patrol of a room, or of the hub (R180). -/
  | patrolScrub (who : Option RoomId)
  -- The Landing
  | syArrive (r : RoomId) (u : FmtU)
  | barrierRelease (ch : ChanId)
  | stepWatchdog (ch : ChanId)
  | checkpointCommit (j : SlotId)
  | sySignal (r : RoomId) (u : FmtU)
  | syAdd (r : RoomId) (u : FmtU)
  | sySet (r : RoomId) (u : FmtU)
  | syWatch (r : RoomId) (u : FmtU)
  | syWatchCancel (r : RoomId) (u : FmtU)
  | syWait (r : RoomId) (u : FmtU)
  | syWaitBarrier (r : RoomId) (u : FmtU)
  | syFence (r : RoomId) (u : FmtU)
  /-- The place in the list of sync operations in flight (R214). -/
  | syncOpApply (n : Nat)
  | wakeArrival (r : RoomId) (slot : Fin 16)
  | instructionComplete (r : RoomId) (e : UnitEnd)
  | landBarPorch (c : Ctx) (v : Word)
  | landHSignal (c : Ctx) (v : Word)
  | landHAdd (c : Ctx) (v : Word)
  | landHSet (c : Ctx) (v : Word)
  | landHBind (c : Ctx) (v : Word)
  | landHUnbind (c : Ctx) (v : Word)
  | landHWslotArm (c : Ctx) (slot : Fin 64) (v : Word)
  | landHWslotCancel (c : Ctx) (slot : Fin 64) (v : Word)
  | landHStatusRead (c : Ctx)
  -- Threshold
  | open_ (c : Ctx)
  | close (c : Ctx) (index : BitVec 12)
  | park (c : Ctx) (index : BitVec 12)
  | unpark (c : Ctx) (index : BitVec 12)
  | restore (c : Ctx)
  | thrCmdInvalidOp (c : Ctx) (v : Word)
  | thrFeed (c : Ctx) (v : Word) (host : HostBytes)
  | thrFence (c : Ctx) (v : Word)
  | thrUnfence (c : Ctx) (v : Word)
  | thrLedgerSel (c : Ctx) (v : Word)
  | thrClassPendingRead (c : Ctx) (cls : Fin 4)
  /-- `gray` is the sample of `tb_gray` that the command takes (R372), here and below. -/
  | thresholdTick (gray : Word64)
  | windowDue (index : BitVec 12) (gray : Word64)
  | stateMoveCopy (j : SlotId)
  | readmitSelftestDone (r : RoomId) (pass : Bool)
  | readmitLoadDone (r : RoomId)
  | spillPrefetch (j : SlotId) (page : Nat)
  -- The Porch
  | doorbell (c : Ctx) (q : Fin 16) (v : Word) (host : HostBytes)
  | submit
  | end_
  | abort
  | preempt
  | resume
  | jobLoaded (j : SlotId)
  /-- The count of faults that reached the Porch together with the first one (R290). -/
  | jobFault (j : SlotId) (tied : Nat)
  | restartResume (j : SlotId)
  /-- The measured restart interval in µs (R293). -/
  | restartComplete (j : SlotId) (us : BitVec 16)
  | porchQCfgWrite (c : Ctx) (q : Fin 16) (v : Word)
  | porchQCheadWrite (c : Ctx) (q : Fin 16) (v : Word)
  | porchCtxReset (c : Ctx) (v : Word)
  | porchWarmReset (c : Ctx) (v : Word) (facts : BootFacts)
  | porchIrqStatusWrite (c : Ctx) (vec : Fin 8) (v : Word)
  | porchJobStatusRead (c : Ctx) (j : SlotId)
  | porchJobRestartUsRead (c : Ctx) (j : SlotId)
  | porchFlogCfgRead (c : Ctx)
  -- The Cellar
  | eraseSlot (c : Ctx)
  | writeSlot (c : Ctx) (host : HostBytes)
  | swap (c : Ctx)
  | writeCal (c : Ctx) (host : HostBytes)
  | mount (c : Ctx)
  | list (c : Ctx)
  | recall (c : Ctx)
  | release (c : Ctx)
  | readRaw (c : Ctx)
  | eraseResume
  /-- The erase's duration in µs and whether the part reported success (R315, R333). -/
  | eraseComplete (us : Word) (ok : Bool)
  /-- Whether the part reported success (R333). -/
  | flashProgramComplete (ok : Bool)
  | reclaim
  | retentionScrub
  | cellarPatrol
  | wallclockTick
  | celHealthSel (c : Ctx) (v : Word)
  -- The Chimney
  /-- The stretched edges of one droop, one or two (R341). -/
  | droopStretch (r : RoomId) (edges : Fin 3)
  /-- The readings of the timing-margin monitors and the room cycles of the microsecond with their event values
  (R341, R348), by room. -/
  | roomLoopTick (margins : List (RoomId × BitVec 8)) (cycles : List (RoomId × List CycleEvents))
  | railSettle (g : Fin 4)
  /-- The events of the period by room, in the order of R342, and the energy of leakage and of the hub in pJ. -/
  | budgetTick (events : List (RoomId × List Nat)) (otherPj : Nat)
  | skinTick
  | skinStale
  | chimSkinWrite (c : Ctx) (v : Word)
  | biasTick
  | pacingTick
  | floorFence
  /-- The sensor's raw reading in 1/16 °C (R346). -/
  | sensorRead (r : RoomId) (raw : Int)
  | thermalFence (r : RoomId)
  | chimneyRelease (r : RoomId)
  | roomIdleRetain (r : RoomId)
  | roomWake (r : RoomId)
  | chimRoomCtlOff (c : Ctx) (r : RoomId) (v : Word)
  | chimRoomStatRead (c : Ctx) (r : RoomId)
  -- The Window and the Study
  | winClear (c : Ctx) (r : RoomId) (v : Word)
  | winSampCtlWrite (c : Ctx) (r : RoomId) (v : Word)
  | winSampStatusRead (c : Ctx) (r : RoomId)
  | meterWindowEnd
  | snapshotPeriod (gray : Word64)
  | winSnap (c : Ctx) (v : Word) (gray : Word64)
  | winDumpStatusRead (c : Ctx)
  | studySnap (c : Ctx) (v : Word) (gray : Word64)
  | studyHalt (c : Ctx) (r : RoomId) (v : Word)
  | studyStep (c : Ctx) (r : RoomId)
  /-- A read, or a write of a value, of the low or the high word of the selected register (R8, R358). -/
  | studyRegData (c : Ctx) (a : HalfAccess)
  | studySyncGo (c : Ctx) (v : Word)
  | traceOverflowRecord
  | studyTraceCtlRead (c : Ctx)
  -- Registers with behaviour of their own
  | flCtlWrite (c : Ctx) (r : RoomId) (v : Word)
  | flCreditWrite (c : Ctx) (r : RoomId) (v : Word)
  | flCreditRead (c : Ctx) (r : RoomId)
  | roomExcClear (c : Ctx) (r : RoomId) (v : Word)
  | roomExcInfoRead (c : Ctx) (r : RoomId)
  | roomExcCountRead (c : Ctx) (r : RoomId)
  /-- A read at a control-window offset, of a low word or any other: port, offset, byte enables (R7, R8, R370). -/
  | lowWordRead (p : ReadPort) (off : BitVec 24)
  | dwTagsRead (c : Ctx) (r : RoomId)
  | dwRttMaxRead (c : Ctx) (r : RoomId)
  | roomEccCorrRead (c : Ctx) (r : RoomId)
  | hallPantryEccCorrRead (c : Ctx)
  | hallPortRttMaxRead (c : Ctx) (k : Fin 4)
  | hallPortProtoRead (c : Ctx) (k : Fin 4)
  /-- An access at an offset of a retained room's slice: a read, or a write of a value (R16). -/
  | roomRetainAccess (c : Ctx) (r : RoomId) (off : BitVec 18) (write : Option Word)
  /-- A control write: port, offset, byte enables, value (R4, R7, R370). -/
  | registerWrite (p : CtlPort) (off : BitVec 24) (be : BitVec 4) (v : Word)
  -- The memory ports and the pins
  /-- A read data beat (R363), and for beat 3 the round trip measured in Hall cycles (R368). -/
  | readDataBeat (port : Fin 4) (tag : BitVec 8) (beat : BitVec 2) (data : BitVec 256) (resp : BitVec 2) (rtt : Nat)
  | writeResponse (port : Fin 4) (tag : BitVec 7) (resp : BitVec 2) (rtt : Nat)
  /-- Channel 0 read request, 1 write request, 2 write data (R364). -/
  | creditReturn (port : Fin 4) (chan : Fin 3)
  | coldReset
  | coldResetRelease (facts : BootFacts)
  | warmReset (facts : BootFacts)
  | drainTimeout (port : Fin 4)
  | aonReset
  | isoEnable
  | isoDisable
  | railLoss
  deriving DecidableEq, Repr

end Sys2Proof
end

