-- ==== Sys2Proof/Decode.lean ====
section
/-! DEFINITION. The instruction words of the Steward (11_instruction_set.md, R261, R262, R270) and the host's question of
the opcode table. The table gives no row any bits: a command is not a word. A Steward instruction is one in the step
program, so its word is decoded here for the Study's single step (R357) and written here for the unit capture of R291. -/

namespace Sys2Proof

/-- The command that a word of the table spells: none, since the opcode table gives no row any bits. -/
def decodeTableWord (_nbits _w : Nat) : Option Instr := none

/-- [47:0] of format R. -/
def FmtR.bits (f : FmtR) : BitVec 48 := f.rd ++ f.rs1 ++ f.rs2 ++ f.rsv
/-- [47:0] of format I. -/
def FmtI.bits (f : FmtI) : BitVec 48 := f.rd ++ f.rs1 ++ BitVec.ofBool f.hi ++ BitVec.ofBool f.rsv ++ f.imm
/-- [47:0] of format M. -/
def FmtM.bits (f : FmtM) : BitVec 48 := f.rt ++ f.base ++ f.width ++ f.rsv ++ f.off
/-- [47:0] of format B. -/
def FmtB.bits (f : FmtB) : BitVec 48 := f.rs ++ f.rsv ++ f.off
/-- [47:0] of format U. -/
def FmtU.bits (f : FmtU) : BitVec 48 :=
  f.ra ++ f.rb ++ f.rc ++ f.waitQ ++ f.k ++ BitVec.ofBool f.post ++ BitVec.ofBool f.pen ++ f.pred ++ f.imm

/-- The fields of format R. -/
def FmtR.ofBits (b : BitVec 48) : FmtR :=
  ⟨b.extractLsb' 41 7, b.extractLsb' 34 7, b.extractLsb' 27 7, b.extractLsb' 0 27⟩
/-- The fields of format I. -/
def FmtI.ofBits (b : BitVec 48) : FmtI :=
  ⟨b.extractLsb' 41 7, b.extractLsb' 34 7, b.getLsbD 33, b.getLsbD 32, b.extractLsb' 0 32⟩
/-- The fields of format M. -/
def FmtM.ofBits (b : BitVec 48) : FmtM :=
  ⟨b.extractLsb' 41 7, b.extractLsb' 37 4, b.extractLsb' 34 3, b.extractLsb' 32 2, b.extractLsb' 0 32⟩
/-- The fields of format B. -/
def FmtB.ofBits (b : BitVec 48) : FmtB := ⟨b.extractLsb' 41 7, b.extractLsb' 32 9, b.extractLsb' 0 32⟩
/-- The fields of format U. -/
def FmtU.ofBits (b : BitVec 48) : FmtU :=
  ⟨b.extractLsb' 44 4, b.extractLsb' 40 4, b.extractLsb' 36 4, b.extractLsb' 33 3, b.extractLsb' 29 4,
   b.getLsbD 28, b.getLsbD 27, b.extractLsb' 24 3, b.extractLsb' 0 24⟩

/-- An instruction word: the major opcode in [63:56], the minor in [55:48] and the format's fields (R261). -/
def fisWord (major minor : Nat) (body : BitVec 48) : Word64 := BitVec.ofNat 8 major ++ BitVec.ofNat 8 minor ++ body

/-- The word of an arithmetic instruction in either form (R262). -/
def riWord (minor : Nat) : FmtRI → Word64
  | .r f => fisWord 0x01 minor f.bits
  | .i f => fisWord 0x02 minor f.bits

/-- The word of an instruction (R261, R262, R270). -/
def encodeFis : Fis → Word64
  | .add f => riWord 0 f
  | .sub f => riWord 1 f
  | .and f => riWord 2 f
  | .or f => riWord 3 f
  | .xor f => riWord 4 f
  | .shl f => riWord 5 f
  | .shr f => riWord 6 f
  | .mul f => riWord 7 f
  | .li f => fisWord 0x02 0x08 f.bits
  | .ld f => fisWord 0x03 0x00 f.bits
  | .st f => fisWord 0x03 0x01 f.bits
  | .br f => fisWord 0x04 0 f.bits
  | .bz f => fisWord 0x04 1 f.bits
  | .bnz f => fisWord 0x04 2 f.bits
  | .loop f => fisWord 0x04 3 f.bits
  | .call f => fisWord 0x04 4 f.bits
  | .ret f => fisWord 0x04 5 f.bits
  | .nop u => fisWord 0x00 0 u.bits
  | .halt u => fisWord 0x00 1 u.bits
  | .trace u => fisWord 0x00 2 u.bits
  | .fault u => fisWord 0x00 3 u.bits
  | .flLoad u => fisWord 0x10 0 u.bits
  | .flRun u => fisWord 0x10 1 u.bits
  | .flThin u => fisWord 0x10 2 u.bits
  | .flDrain u => fisWord 0x10 3 u.bits
  | .flMode u => fisWord 0x10 4 u.bits
  | .scStep u => fisWord 0x11 0 u.bits
  | .scChunk u => fisWord 0x11 1 u.bits
  | .scFold u => fisWord 0x11 2 u.bits
  | .scExport u => fisWord 0x11 3 u.bits
  | .scImport u => fisWord 0x11 4 u.bits
  | .scFir u => fisWord 0x11 5 u.bits
  | .scEma u => fisWord 0x11 6 u.bits
  | .scModal u => fisWord 0x11 7 u.bits
  | .lmEval u => fisWord 0x12 0 u.bits
  | .lmSincos u => fisWord 0x12 1 u.bits
  | .lmStat u => fisWord 0x12 2 u.bits
  | .lmRed u => fisWord 0x12 3 u.bits
  | .lmSwap u => fisWord 0x12 4 u.bits
  | .paAttend u => fisWord 0x13 0 u.bits
  | .paPageset u => fisWord 0x13 1 u.bits
  | .dwLaunch u => fisWord 0x14 0 u.bits
  | .dwWait u => fisWord 0x14 1 u.bits
  | .dwSwap u => fisWord 0x14 2 u.bits
  | .dwPut u => fisWord 0x14 3 u.bits
  | .dwAdd u => fisWord 0x14 4 u.bits
  | .dwMcast u => fisWord 0x14 5 u.bits
  | .syArrive u => fisWord 0x15 0 u.bits
  | .sySignal u => fisWord 0x15 1 u.bits
  | .syAdd u => fisWord 0x15 2 u.bits
  | .syWatch u => fisWord 0x15 3 u.bits
  | .syWait u => fisWord 0x15 4 u.bits
  | .syFence u => fisWord 0x15 5 u.bits

/-- The arithmetic instruction of a minor opcode (R262). -/
def riOf (minor : Nat) (f : FmtRI) : Option Fis :=
  match minor with
  | 0 => some (.add f)
  | 1 => some (.sub f)
  | 2 => some (.and f)
  | 3 => some (.or f)
  | 4 => some (.xor f)
  | 5 => some (.shl f)
  | 6 => some (.shr f)
  | 7 => some (.mul f)
  | _ => none

/-- The branch of a minor opcode (R262). -/
def branchOf (minor : Nat) (f : FmtB) : Option Fis :=
  match minor with
  | 0 => some (.br f)
  | 1 => some (.bz f)
  | 2 => some (.bnz f)
  | 3 => some (.loop f)
  | 4 => some (.call f)
  | 5 => some (.ret f)
  | _ => none

/-- The format-U instruction of a major and a minor opcode (R270). -/
def unitOf (major minor : Nat) (u : FmtU) : Option Fis :=
  match major, minor with
  | 0x00, 0 => some (.nop u)
  | 0x00, 1 => some (.halt u)
  | 0x00, 2 => some (.trace u)
  | 0x00, 3 => some (.fault u)
  | 0x10, 0 => some (.flLoad u)
  | 0x10, 1 => some (.flRun u)
  | 0x10, 2 => some (.flThin u)
  | 0x10, 3 => some (.flDrain u)
  | 0x10, 4 => some (.flMode u)
  | 0x11, 0 => some (.scStep u)
  | 0x11, 1 => some (.scChunk u)
  | 0x11, 2 => some (.scFold u)
  | 0x11, 3 => some (.scExport u)
  | 0x11, 4 => some (.scImport u)
  | 0x11, 5 => some (.scFir u)
  | 0x11, 6 => some (.scEma u)
  | 0x11, 7 => some (.scModal u)
  | 0x12, 0 => some (.lmEval u)
  | 0x12, 1 => some (.lmSincos u)
  | 0x12, 2 => some (.lmStat u)
  | 0x12, 3 => some (.lmRed u)
  | 0x12, 4 => some (.lmSwap u)
  | 0x13, 0 => some (.paAttend u)
  | 0x13, 1 => some (.paPageset u)
  | 0x14, 0 => some (.dwLaunch u)
  | 0x14, 1 => some (.dwWait u)
  | 0x14, 2 => some (.dwSwap u)
  | 0x14, 3 => some (.dwPut u)
  | 0x14, 4 => some (.dwAdd u)
  | 0x14, 5 => some (.dwMcast u)
  | 0x15, 0 => some (.syArrive u)
  | 0x15, 1 => some (.sySignal u)
  | 0x15, 2 => some (.syAdd u)
  | 0x15, 3 => some (.syWatch u)
  | 0x15, 4 => some (.syWait u)
  | 0x15, 5 => some (.syFence u)
  | _, _ => none

/-- The instruction of a word; none for a reserved major or minor opcode (R261). -/
def decodeFis (w : Word64) : Option Fis :=
  let b := w.extractLsb' 0 48
  let minor := (w.extractLsb' 48 8).toNat
  match (w.extractLsb' 56 8).toNat with
  | 0x01 => riOf minor (.r (.ofBits b))
  | 0x02 => if minor = 8 then some (.li (.ofBits b)) else riOf minor (.i (.ofBits b))
  | 0x03 => match minor with
            | 0 => some (.ld (.ofBits b))
            | 1 => some (.st (.ofBits b))
            | _ => none
  | 0x04 => branchOf minor (.ofBits b)
  | major => unitOf major minor (.ofBits b)

end Sys2Proof
end

