-- ==== Sys2Proof/Config.lean ====
section
/-! DEFINITION. What the spec leaves open and an implementation fixes: constants with no body, so that no proof
can lean on a value of theirs. -/

namespace Sys2Proof

/-- Which of several equally allowed candidates is taken, as a number read modulo the count of candidates:
applied to the state's counter of free choices (log entry 2). -/
opaque Config.pick : Nat → Nat

/-- sine (false) and cosine (true) of a binary32 value whose magnitude is above 2^20: R144 claims no bound there
(log entry 6). -/
opaque Config.sincosLarge : Bool → BitVec 32 → BitVec 32

/-- How many ULP, read modulo 3 and less 1, the delivered sine or cosine lies from the rounding of this model's
exact evaluation: R144 fixes at least 32 significant bits, not how many (log entry 6). -/
opaque Config.sincosUlp : Bool → BitVec 32 → Nat

/-- The built-in conservative voltage in mV for a room and an operating point (R338 gives no numbers). -/
opaque Config.builtinVoltage : Nat → Nat → Nat

/-- The built-in droop threshold in mV of a room when no calibration is valid (R338 gives no number). -/
opaque Config.builtinDroop : Nat → Nat

/-- The built-in energy in pJ of an event when no calibration is valid, before the factor 1.25 (R338). -/
opaque Config.builtinEnergy : Nat → Nat

/-- The loop gains in force when no calibration is valid: CHIM_PI and CHIM_SKIN_PI (R338 gives no numbers). -/
opaque Config.builtinGains : Nat → BitVec 32

/-- The value a rounded quantity takes where the spec gives its formula and no rounding (log entry 15): 0 rounds
down, anything else up. -/
opaque Config.roundUp : Nat → Bool

/-- The correction of a room's sensor when no calibration is valid, in the layout of R338, which gives no numbers. -/
opaque Config.builtinSensor : Nat → BitVec 32

/-- Which bits of a word or sector that a failed or cut program or erase would have changed are left unchanged (R314, R331). -/
opaque Config.tornBits : Nat → Nat

/-- Which bits of a word read differently with a margin read, by the word's address, the margin entry and the counter of free
choices (R316). -/
opaque Config.marginBits : Nat → Nat → Nat → Nat

/-- The 16 B of a mount table's row for a sector, by its health, role and live words; of its 32 B for a live anchor; and of a
LIST entry of 16 B: R324 and R329 name what they hold and not where. -/
opaque Config.mountSector : Nat → Nat → Nat → Nat
opaque Config.mountAnchor : Nat → Nat → Nat → Nat → Nat
opaque Config.listEntry : Nat → Nat → Nat → Nat → Nat

/-- Frequency of the SoC system counter in kHz: the SoC fixes it, not the spec (R245). -/
opaque Config.timebaseKHz : Nat

/-- Where the Shelf copy of a Larder page lies, in units of 64 B, for a page list and a page number: no rule gives its
address (R162, log entry 37). -/
opaque Config.pageCopy : Nat → Nat → Nat

/-- The Shelf offset at which a job's resident-weight image loads: no rule gives it (R242, R243, R293). -/
opaque Config.weightBase : Nat

/-- Where the state of a row lies in the Chest of a job whose state is resident, by the row: offset and size in bytes. No
rule gives that layout (R240, R293). -/
opaque Config.rowState : Nat → Nat × Nat

/-- The Attic record address of Q in a duplex OPEN or RESTORE, by P's: R231 gives the command one address. -/
opaque Config.partnerAttic : Nat → Nat

end Sys2Proof
end

