-- ==== Sys2Proof/Machine/Mem.lean ====
section
/-! DEFINITION. Sparse tables in one canonical form (keys strictly rising, no entry equal to what an unlisted key reads
as) and, over them, byte memories with little-endian access (R3). -/

namespace Sys2Proof.Machine

/-- The value at a key of a sparse table whose unlisted keys read `d`. -/
def sget {α : Type} (d : α) : List (Nat × α) → Nat → α
  | [], _ => d
  | (k, v) :: t, a => if a = k then v else if a < k then d else sget d t a

/-- Sets a key, keeping the canonical form: setting it to `d` removes the entry, and any later one that it hid. -/
def sset {α : Type} [DecidableEq α] (d : α) : List (Nat × α) → Nat → α → List (Nat × α)
  | [], a, v => if v = d then [] else [(a, v)]
  | (k, w) :: t, a, v =>
    if a = k then (if v = d then t.dropWhile (fun e => decide (e.1 ≤ a)) else (a, v) :: t)
    else if a < k then (if v = d then (k, w) :: t else (a, v) :: (k, w) :: t)
    else (k, w) :: sset d t a v

/-- Every key of the table is at least `lo`, the keys rise strictly and no value is `d`. -/
def swfFrom {α : Type} [DecidableEq α] (d : α) : Nat → List (Nat × α) → Bool
  | _, [] => true
  | lo, (k, v) :: t => decide (lo ≤ k) && !decide (v = d) && swfFrom d (k + 1) t

/-- The canonical form of a sparse table. -/
def swf {α : Type} [DecidableEq α] (d : α) (m : List (Nat × α)) : Bool := swfFrom d 0 m

/-- A byte memory: the listed bytes. -/
abbrev Memory := List Host.Cell

/-- What an unlisted byte of on-block SRAM reads as: start-up writes every array with zeros (R304, stage 1). -/
def sramEmpty : Byte := 0#8
/-- What an unlisted byte of the serial NOR reads as: erased flash (R313). -/
def flashEmpty : Byte := 0xFF#8

/-- The canonical form of an SRAM or DRAM memory. -/
def Memory.wf (m : Memory) : Bool := swf sramEmpty m

/-- One byte. -/
def Memory.get (m : Memory) (a : Nat) : Byte := sget sramEmpty m a
/-- Writes one byte. -/
def Memory.set (m : Memory) (a : Nat) (v : Byte) : Memory := sset sramEmpty m a v

/-- `n` bytes from address `a` upward. -/
def Memory.bytes (m : Memory) (a : Nat) : Nat → List Byte
  | 0 => []
  | n + 1 => m.get a :: Memory.bytes m (a + 1) n

/-- Writes bytes from address `a` upward. -/
def Memory.putBytes (m : Memory) (a : Nat) : List Byte → Memory
  | [] => m
  | b :: t => Memory.putBytes (m.set a b) (a + 1) t

/-- The little-endian number that a list of bytes holds (R3). -/
def natOfBytes : List Byte → Nat
  | [] => 0
  | b :: t => b.toNat + 256 * natOfBytes t

/-- The `n` little-endian bytes of a number (R3). -/
def bytesOfNat : Nat → Nat → List Byte
  | 0, _ => []
  | n + 1, v => BitVec.ofNat 8 v :: bytesOfNat n (v / 256)

/-- The little-endian number in `n` bytes at `a`. -/
def Memory.getN (m : Memory) (a n : Nat) : Nat := natOfBytes (m.bytes a n)
/-- Writes a number as `n` little-endian bytes at `a`. -/
def Memory.putN (m : Memory) (a n v : Nat) : Memory := m.putBytes a (bytesOfNat n v)

/-- Writes listed bytes one by one: the host's DRAM writes. -/
def Memory.putCells (m : Memory) : List (Nat × Byte) → Memory
  | [] => m
  | (a, b) :: t => Memory.putCells (m.set a b) t

/-- The first key of a host context in DRAM (R188): contexts lie far enough apart that no address of one reaches another. -/
def ctxBase (c : Nat) : Nat := c * 2 ^ 64

/-- The key of a DRAM address that arithmetic on a key has formed: reduced to 48 bits within its context (R188). -/
def dramKey (k : Nat) : Nat := k / 2 ^ 64 * 2 ^ 64 + k % 2 ^ 48

/-- The key of another address in the context of a key. -/
def inCtx (k a : Nat) : Nat := ctxBase (k / 2 ^ 64) + a % 2 ^ 48

/-- `n` bytes of a DRAM from a key upward, addresses wrapping at 48 bits. -/
def Memory.dbytes (m : Memory) (k : Nat) : Nat → List Byte
  | 0 => []
  | n + 1 => m.get (dramKey k) :: Memory.dbytes m (k + 1) n

/-- Bits [hi:lo] of a number. -/
def bitsOf (v lo w : Nat) : Nat := v / 2 ^ lo % 2 ^ w

/-- One bit of a number. -/
def bitAt (v i : Nat) : Bool := v / 2 ^ i % 2 == 1

/-- A number with `w` bits at `lo` replaced by those of `x`. -/
def setBits (v lo w x : Nat) : Nat :=
  v / 2 ^ (lo + w) * 2 ^ (lo + w) + x % 2 ^ w * 2 ^ lo + v % 2 ^ lo

/-- 1 for true. -/
def b2n (b : Bool) : Nat := if b then 1 else 0

/-- The two's-complement value of the low `w` bits. -/
def signedOf (v w : Nat) : Int :=
  let x := v % 2 ^ w
  if x < 2 ^ (w - 1) then (x : Int) else (x : Int) - (2 ^ w : Nat)

/-- The low `w` bits of an integer, two's complement. -/
def wrapTo (i : Int) (w : Nat) : Nat := (i % ((2 ^ w : Nat) : Int)).toNat

/-- ⌈a ÷ b⌉. -/
def ceilDiv (a b : Nat) : Nat := (a + b - 1) / b

/-- Adds to a saturating counter. -/
def satAdd (max a b : Nat) : Nat := min max (a + b)

/-- A list cut into runs of `n`, the last possibly shorter; `fuel` bounds the number of runs. -/
def chunksFuel {α : Type} (n : Nat) : Nat → List α → List (List α)
  | 0, _ => []
  | _, [] => []
  | fuel + 1, l => l.take n :: chunksFuel n fuel (l.drop n)

/-- A list cut into runs of `n`. -/
def chunksOf {α : Type} (n : Nat) (l : List α) : List (List α) := chunksFuel n l.length l

/-- Replaces the element at a place of a list by its image. -/
def modifyAt {α : Type} (f : α → α) : List α → Nat → List α
  | [], _ => []
  | x :: t, 0 => f x :: t
  | x :: t, n + 1 => x :: modifyAt f t n

/-- Inserts an element before the first one that it does not come after. -/
def insertBy {α : Type} (le : α → α → Bool) (x : α) : List α → List α
  | [] => [x]
  | y :: t => if le x y then x :: y :: t else y :: insertBy le x t

/-- Sorts a list; elements that compare equal keep their order. -/
def sortBy {α : Type} (le : α → α → Bool) : List α → List α
  | [] => []
  | x :: t => insertBy le x (sortBy le t)

/-- CRC-32C over one byte of input, bit-reflected, eight steps (R128). -/
def crc32cByte (c : Nat) (b : Byte) : Nat :=
  let rec go : Nat → Nat → Nat
    | 0, x => x
    | n + 1, x => go n (if x % 2 = 1 then x / 2 ^^^ 0x82F63B78 else x / 2)
  go 8 (c ^^^ b.toNat)

/-- CRC-32C: Castagnoli polynomial 0x1EDC_6F41, bit-reflected, initial value and final exclusive-or 0xFFFF_FFFF (R128). -/
def crc32c (bs : List Byte) : Nat := bs.foldl crc32cByte 0xFFFFFFFF ^^^ 0xFFFFFFFF

end Sys2Proof.Machine
end

