-- ==== Sys2Proof/Machine/Num.lean ====
section
/-! DEFINITION. Number formats and arithmetic behaviour (02_number_formats.md): the value of every encoding, exact
arithmetic on dyadic values, the one rounding, and conversions with their flags. -/

namespace Sys2Proof.Machine

/-- The element formats of R27. -/
inductive Fmt where
  | int4 | int8 | int16 | int32 | fp4 | e4m3 | e5m2 | fp16 | bf16 | f32 | s24 | s16 | s32
  deriving DecidableEq, Repr

/-- The format of a 4-bit code; 0xD-0xF are reserved (R27). -/
def Fmt.ofCode : Nat → Option Fmt
  | 0 => some .int4 | 1 => some .int8 | 2 => some .int16 | 3 => some .int32 | 4 => some .fp4
  | 5 => some .e4m3 | 6 => some .e5m2 | 7 => some .fp16 | 8 => some .bf16 | 9 => some .f32
  | 10 => some .s24 | 11 => some .s16 | 12 => some .s32 | _ => none

/-- The code of a format (R27). -/
def Fmt.code : Fmt → Nat
  | .int4 => 0 | .int8 => 1 | .int16 => 2 | .int32 => 3 | .fp4 => 4 | .e4m3 => 5 | .e5m2 => 6
  | .fp16 => 7 | .bf16 => 8 | .f32 => 9 | .s24 => 10 | .s16 => 11 | .s32 => 12

/-- Width of an element in bits (R27). -/
def Fmt.bits : Fmt → Nat
  | .int4 | .fp4 => 4 | .int8 | .e4m3 | .e5m2 => 8 | .int16 | .fp16 | .bf16 | .s16 => 16
  | .s24 => 24 | .int32 | .f32 | .s32 => 32

/-- Whether the format is an integer format. -/
def Fmt.isInt : Fmt → Bool
  | .int4 | .int8 | .int16 | .int32 => true
  | _ => false

/-- Whether the format is one of the two FP8 forms. -/
def Fmt.isFp8 : Fmt → Bool
  | .e4m3 | .e5m2 => true
  | _ => false

/-- Exponent width, fraction width and bias of a floating format (R27); of an integer format, 0. -/
def Fmt.shape : Fmt → Nat × Nat × Nat
  | .fp4 => (2, 1, 1) | .e4m3 => (4, 3, 7) | .e5m2 => (5, 2, 15) | .fp16 => (5, 10, 15)
  | .bf16 | .s16 => (8, 7, 127) | .f32 | .s32 => (8, 23, 127) | .s24 => (8, 15, 127)
  | _ => (0, 0, 0)

/-- A value: the canonical NaN, an infinity, or a signed dyadic number m × 2^e; zeros keep their sign (R35). -/
inductive Val where
  | nan
  | inf (neg : Bool)
  | fin (neg : Bool) (m : Nat) (e : Int)
  deriving DecidableEq, Repr

/-- +0 -/
def Val.pz : Val := .fin false 0 0
/-- −0, the padding of every reduction (R95). -/
def Val.nz : Val := .fin true 0 0
/-- +1 -/
def Val.one : Val := .fin false 1 0

/-- Whether the value is a NaN. -/
def Val.isNan : Val → Bool
  | .nan => true
  | _ => false
/-- Whether the value is a zero of either sign. -/
def Val.isZero : Val → Bool
  | .fin _ m _ => m == 0
  | _ => false
/-- Whether the value is neither NaN nor infinite. -/
def Val.isFin : Val → Bool
  | .fin .. => true
  | _ => false
/-- The value with its sign flipped; a NaN stays. -/
def Val.negate : Val → Val
  | .nan => .nan
  | .inf s => .inf (!s)
  | .fin s m e => .fin (!s) m e
/-- The magnitude. -/
def Val.abs : Val → Val
  | .nan => .nan
  | .inf _ => .inf false
  | .fin _ m e => .fin false m e

/-- The exact value of an integer. -/
def Val.ofInt (i : Int) : Val := .fin (decide (i < 0)) i.natAbs 0

/-- The four numeric flags of R101, bits 0 to 3. -/
structure Flags where
  sat : Bool := false
  inv : Bool := false
  ovf : Bool := false
  nanIn : Bool := false
  deriving DecidableEq, Repr

/-- Flags gathered from two results. -/
def Flags.or (a b : Flags) : Flags := ⟨a.sat || b.sat, a.inv || b.inv, a.ovf || b.ovf, a.nanIn || b.nanIn⟩
/-- The flags as bits [3:0] of R101. -/
def Flags.toNat (f : Flags) : Nat := b2n f.sat + 2 * b2n f.inv + 4 * b2n f.ovf + 8 * b2n f.nanIn

/-- A term, or an addition, that raised flags, with its element index k along the reduction (R103). -/
structure Ev where
  fl : Flags
  k : Nat
  deriving DecidableEq, Repr

/-- The flags of a list of events. -/
def evFlags (es : List Ev) : Flags := es.foldl (fun f e => f.or e.fl) {}

/-- The event of flags raised at one element: none when no flag is raised. -/
def flagEvs (f : Flags) (k : Nat) : List Ev := if f = {} then [] else [⟨f, k⟩]

/-- Number of significant bits of a natural number. -/
def bitLen (m : Nat) : Nat := if m = 0 then 0 else Nat.log2 m + 1

/-- m ÷ 2^sh rounded to nearest, ties to even (R30). -/
def rneShift (m sh : Nat) : Nat :=
  let q := m / 2 ^ sh
  let rest := m % 2 ^ sh
  let half := 2 ^ (sh - 1)
  if sh = 0 then m
  else if rest > half || (rest == half && q % 2 == 1) then q + 1 else q

/-- m × 2^e rounded to p significant bits with no unit below 2^emin: the rounded mantissa and its exponent (R30, R31). -/
def rneFin (p : Nat) (emin : Int) (m : Nat) (e : Int) : Nat × Int :=
  let q : Int := max emin (e + bitLen m - p)
  if q ≤ e then (m * 2 ^ (e - q).toNat, q)
  else
    let m' := rneShift m (q - e).toNat
    if m' = 2 ^ p then (2 ^ (p - 1), q + 1) else (m', q)

/-- Unit of the smallest subnormal, as a power of two (R27). -/
def Fmt.eminUlp (f : Fmt) : Int := let (_, mb, bias) := f.shape; 1 - (bias : Int) - mb

/-- Largest finite value of a floating format: mantissa and exponent (R27). -/
def Fmt.maxFin (f : Fmt) : Nat × Int :=
  match f with
  | .fp4 => (3, 1)
  | .e4m3 => (7, 6)
  | _ => let (eb, mb, bias) := f.shape
         (2 ^ (mb + 1) - 1, (2 ^ eb : Nat) - 2 - (bias : Int) - mb)

/-- m1 × 2^e1 compared with m2 × 2^e2. -/
def cmpMag (m1 : Nat) (e1 : Int) (m2 : Nat) (e2 : Int) : Ordering :=
  let q := min e1 e2
  compare (m1 * 2 ^ (e1 - q).toNat) (m2 * 2 ^ (e2 - q).toNat)

/-- Rounds a value into a floating format with an unbounded exponent, then bounds it: an overflow gives an infinity
and true (R34). Only for formats that have infinities; the others go through `convert`. -/
def roundFmt (f : Fmt) (v : Val) : Val × Bool :=
  match v with
  | .fin s m e =>
    let (_, mb, _) := f.shape
    let (m', q) := rneFin (mb + 1) f.eminUlp m e
    let (mm, me) := f.maxFin
    if cmpMag m' q mm me == .gt then (.inf s, true) else (.fin s m' q, false)
  | v => (v, false)

/-- Rounds to binary32. -/
def rne32 (v : Val) : Val × Bool := roundFmt .f32 v

/-- The raw encoding of a value that the floating format holds exactly; the canonical NaN of R27 for a NaN. -/
def encodeExact (f : Fmt) (v : Val) : Nat :=
  let (eb, mb, bias) := f.shape
  let sgn (s : Bool) : Nat := b2n s * 2 ^ (eb + mb)
  match v with
  | .nan => match f with
    | .e4m3 => 0x7F
    | .fp4 => 0
    | _ => (2 ^ eb - 1) * 2 ^ mb + 2 ^ (mb - 1)
  | .inf s => match f with
    | .e4m3 => 0x7F
    | .fp4 => sgn s + 7
    | _ => sgn s + (2 ^ eb - 1) * 2 ^ mb
  | .fin s m e =>
    if m = 0 then sgn s
    else
      let len : Int := bitLen m
      let top : Int := e + len - 1
      if top < 1 - (bias : Int) then
        sgn s + (m * 2 ^ (e - f.eminUlp).toNat / 2 ^ (f.eminUlp - e).toNat)
      else
        let m' := if len ≤ mb + 1 then m * 2 ^ (mb + 1 - len).toNat else m / 2 ^ (len - mb - 1).toNat
        sgn s + (top + bias).toNat * 2 ^ mb + (m' - 2 ^ mb)

/-- The value of a raw encoding, and whether it is a signalling NaN (R27, R33, R44). -/
def decodeRaw (f : Fmt) (raw : Nat) : Val × Bool :=
  if f.isInt then (Val.ofInt (signedOf raw f.bits), false)
  else
    let (eb, mb, bias) := f.shape
    let s := bitAt raw (eb + mb)
    let ex := bitsOf raw mb eb
    let fr := raw % 2 ^ mb
    let normal : Val := .fin s (2 ^ mb + fr) ((ex : Int) - bias - mb)
    let plain : Val := if ex = 0 then .fin s fr f.eminUlp else normal
    match f with
    | .fp4 => (plain, false)
    | .e4m3 => if ex = 15 ∧ fr = 7 then (.nan, false) else (plain, false)
    | _ => if ex = 2 ^ eb - 1 then
             (if fr = 0 then (.inf s, false) else (.nan, !(bitAt raw (mb - 1))))
           else (plain, false)

/-- The flags of reading an element or coefficient as an operand (R33). -/
def operandFlags (d : Val × Bool) : Flags := { nanIn := d.1.isNan, inv := d.2 }

/-- An integer clamped to the range of an integer format, and whether it was clamped. -/
def clampInt (w : Nat) (i : Int) : Int × Bool :=
  let hi : Int := (2 ^ (w - 1) : Nat) - 1
  let lo : Int := -((2 ^ (w - 1) : Nat) : Int)
  if i > hi then (hi, true) else if i < lo then (lo, true) else (i, false)

/-- The nearest integer of a finite value, ties to even. -/
def rneInt (s : Bool) (m : Nat) (e : Int) : Int :=
  let n : Nat := if 0 ≤ e then m * 2 ^ e.toNat else rneShift m (-e).toNat
  if s then -(n : Int) else n

/-- Conversion into a destination format (R38, R39, R40): the raw encoding and the flags of the conversion itself. -/
def convert (f : Fmt) (sat : Bool) (v : Val) : Nat × Flags :=
  if f.isInt then
    match v with
    | .nan => (0, { inv := true })
    | .inf s =>
      let lim : Int := if s then -((2 ^ (f.bits - 1) : Nat) : Int) else (2 ^ (f.bits - 1) : Nat) - 1
      (wrapTo lim f.bits, { sat := true })
    | .fin s m e =>
      let (i, c) := clampInt f.bits (rneInt s m e)
      (wrapTo i f.bits, { sat := c })
  else
    let big (s : Bool) : Nat := let (mm, me) := f.maxFin; encodeExact f (.fin s mm me)
    match f, v with
    | .fp4, .nan => (0, { inv := true })
    | .fp4, .inf s => (big s, { ovf := true })
    | .e4m3, .inf s => (if sat then big s else 0x7F, { ovf := true })
    | .e5m2, .inf s => if sat then (big s, { ovf := true }) else (encodeExact f (.inf s), {})
    | _, .nan => (encodeExact f .nan, {})
    | _, .inf s => (encodeExact f (.inf s), {})
    | _, .fin s m e =>
      let (r, o) := roundFmt f (.fin s m e)
      if o then
        match f with
        | .fp4 => (big s, { ovf := true })
        | .e4m3 => (if sat then big s else 0x7F, { ovf := true })
        | .e5m2 => (if sat then big s else encodeExact f (.inf s), { ovf := true })
        | _ => (encodeExact f (.inf s), { ovf := true })
      else (encodeExact f r, {})

/-- The exact product; true when it is 0 × ∞ (R34, R35). -/
def mulX : Val → Val → Val × Bool
  | .nan, _ => (.nan, false)
  | _, .nan => (.nan, false)
  | .inf s, .inf t => (.inf (s != t), false)
  | .inf s, .fin t m _ => if m = 0 then (.nan, true) else (.inf (s != t), false)
  | .fin s m _, .inf t => if m = 0 then (.nan, true) else (.inf (s != t), false)
  | .fin s m e, .fin t n f => (.fin (s != t) (m * n) (e + f), false)

/-- The exact sum; true when it is ∞ − ∞ (R34, R35). -/
def addX : Val → Val → Val × Bool
  | .nan, _ => (.nan, false)
  | _, .nan => (.nan, false)
  | .inf s, .inf t => if s = t then (.inf s, false) else (.nan, true)
  | .inf s, .fin .. => (.inf s, false)
  | .fin .., .inf t => (.inf t, false)
  | .fin s m e, .fin t n f =>
    if m = 0 ∧ n = 0 then (.fin (s && t) 0 0, false)
    else if m = 0 then (.fin t n f, false)
    else if n = 0 then (.fin s m e, false)
    else
      let q := min e f
      let a : Int := m * 2 ^ (e - q).toNat
      let b : Int := n * 2 ^ (f - q).toNat
      let x : Int := (if s then -a else a) + (if t then -b else b)
      (.fin (decide (x < 0)) x.natAbs q, false)

/-- a − b, exact. -/
def subX (a b : Val) : Val × Bool := addX a b.negate

/-- The flags of an invalid operation and of a rounding to binary32. -/
def mkFlags (inv ovf : Bool) : Flags := { inv := inv, ovf := ovf }

/-- rne32 of an exact result, with its flags. -/
def round32 (x : Val × Bool) : Val × Flags :=
  let (v, o) := rne32 x.1
  (v, mkFlags x.2 o)

/-- rne32(a + b), rne32(a − b) and rne32(a × b), with their flags. -/
def add32 (a b : Val) : Val × Flags := round32 (addX a b)
/-- rne32(a − b). -/
def sub32 (a b : Val) : Val × Flags := round32 (subX a b)
/-- rne32(a × b). -/
def mul32 (a b : Val) : Val × Flags := round32 (mulX a b)

/-- Comparison of R36: none when either value is NaN. -/
def cmpVal : Val → Val → Option Ordering
  | .nan, _ => none
  | _, .nan => none
  | .inf s, .inf t => some (if s = t then .eq else if s then .lt else .gt)
  | .inf s, .fin .. => some (if s then .lt else .gt)
  | .fin .., .inf t => some (if t then .gt else .lt)
  | .fin s m e, .fin t n f =>
    if m = 0 ∧ n = 0 then some .eq
    else if m = 0 then some (if t then .gt else .lt)
    else if n = 0 then some (if s then .lt else .gt)
    else if s != t then some (if s then .lt else .gt)
    else some (if s then cmpMag n f m e else cmpMag m e n f)

/-- a < b (R36). -/
def ltVal (a b : Val) : Bool := cmpVal a b == some .lt
/-- a ≤ b (R36). -/
def leVal (a b : Val) : Bool := match cmpVal a b with
  | some .lt => true | some .eq => true | _ => false

/-- Whether a value carries a minus sign. -/
def Val.isNeg : Val → Bool
  | .nan => false | .inf s => s | .fin s _ _ => s

/-- maximum, or maximumNumber with the number flag (R37). -/
def maxVal (number : Bool) (a b : Val) : Val :=
  match a, b with
  | .nan, .nan => .nan
  | .nan, b => if number then b else .nan
  | a, .nan => if number then a else .nan
  | a, b => match cmpVal a b with
    | some .lt => b
    | some .eq => if a.isNeg then b else a
    | _ => a

/-- minimum, or minimumNumber with the number flag (R37). -/
def minVal (number : Bool) (a b : Val) : Val :=
  match a, b with
  | .nan, .nan => .nan
  | .nan, b => if number then b else .nan
  | a, .nan => if number then a else .nan
  | a, b => match cmpVal a b with
    | some .gt => b
    | some .eq => if a.isNeg then a else b
    | _ => a

/-- A quotient of positive numbers, to at least 64 significant bits with a sticky last bit, so that one rounding to a
narrower format is correct: (m1 × 2^e1) ÷ (m2 × 2^e2). -/
def divSticky (m1 : Nat) (e1 : Int) (m2 : Nat) (e2 : Int) : Nat × Int :=
  let k := bitLen m2 + 66
  let n := m1 * 2 ^ k
  let q := n / m2
  (2 * q + (if n % m2 = 0 then 0 else 1), e1 - e2 - k - 1)

/-- The correctly rounded binary32 quotient of two counts (R100), n2 nonzero. -/
def divNat32 (n1 n2 : Nat) : Val :=
  let (m, e) := divSticky n1 0 n2 0
  (rne32 (.fin false m e)).1

/-- The correctly rounded binary32 quotient of a value by a positive count (R150). -/
def divByNat32 (v : Val) (n : Nat) : Val × Flags :=
  match v with
  | .fin s m e => let (q, f) := divSticky m e n 0
                  round32 (.fin s q f, false)
  | v => (v, {})

/-- ⌊√n⌋, one bit of the root at a time from bit i − 1 downward. -/
def isqrtFrom (n : Nat) : Nat → Nat → Nat
  | 0, r => r
  | i + 1, r => if (r + 2 ^ i) * (r + 2 ^ i) ≤ n then isqrtFrom n i (r + 2 ^ i) else isqrtFrom n i r

/-- ⌊√n⌋ -/
def isqrt (n : Nat) : Nat := isqrtFrom n (bitLen n / 2 + 1) 0

/-- The correctly rounded binary32 root of a finite value that is not negative (R110). -/
def sqrt32 (m : Nat) (e : Int) : Val :=
  if m = 0 then .pz
  else
    let odd := e % 2 != 0
    let m1 := if odd then 2 * m else m
    let e1 := if odd then e - 1 else e
    let k : Nat := 64
    let n := m1 * 2 ^ (2 * k)
    let r := isqrt n
    (rne32 (.fin false (2 * r + (if r * r = n then 0 else 1)) (e1 / 2 - k - 1))).1

/-- The value one operand holds, with the flags of reading it. -/
structure Opd where
  v : Val
  fl : Flags
  deriving DecidableEq, Repr

/-- Reads a raw element as an operand. -/
def readOpd (f : Fmt) (raw : Nat) : Opd := let d := decodeRaw f raw; ⟨d.1, operandFlags d⟩

/-- The value of a block scale (R41, R43): form 0 E8M0, form 1 BF16. -/
def scaleOpd (bf16 : Bool) (raw : Nat) : Opd :=
  if bf16 then readOpd .bf16 raw
  else if raw = 0xFF then ⟨.nan, { nanIn := true }⟩
  else ⟨.fin false 1 ((raw : Int) - 127), {}⟩

/-- An element times its block's scale, exact (R41-R43). An infinite element under a scale of zero is 0 × ∞, which R34 makes the
canonical NaN with INV, and a NaN element stays NaN (log entry 135). -/
def scaledOpd (x s : Opd) : Opd :=
  let (v, i) := mulX x.v s.v
  ⟨v, (x.fl.or s.fl).or (mkFlags i false)⟩

/-- Bytes of a packed run of n elements, 4-bit elements two to a byte (R28). -/
def Fmt.runBytes (f : Fmt) (n : Nat) : Nat := ceilDiv (n * f.bits) 8

/-- The raw element at index i of a packed run whose bytes make the little-endian number `v` (R28). -/
def Fmt.elemAt (f : Fmt) (v i : Nat) : Nat := bitsOf v (i * f.bits) f.bits

/-- The bytes of a packed run of raw elements (R28). -/
def Fmt.pack (f : Fmt) (els : List Nat) : List Byte :=
  bytesOfNat (f.runBytes els.length) (els.foldr (fun x acc => acc * 2 ^ f.bits + x % 2 ^ f.bits) 0)

/-- The ULP of a stored S24 value, as a power of two (R45). -/
def ulpExpS24 (v : Val) : Int :=
  match v with
  | .fin _ m e => if m = 0 then -141 else max (-141) (e + bitLen m - 1 - 15)
  | _ => -141

/-- The pair an exact result z is stored as: the S24 value, the residue of R46 and whether the clamp acted; also the
overflow of the rounding. -/
def storeS24 (z : Val) : Val × Int × Bool × Bool :=
  let (v, o) := roundFmt .s24 z
  match v, z with
  | .fin .., .fin .. =>
    match subX z v with
    | (.fin s m e, _) =>
      let u := ulpExpS24 v - 8
      let (r, c) := clampInt 8 (rneInt s m (e - u))
      (v, r, c, o)
    | _ => (v, 0, false, o)
  | _, _ => (v, 0, false, o)

/-- The value a compensated pair stands for: v + r × 2^-8 × ULP(v) (R46). -/
def repS24 (v : Val) (r : Int) : Val :=
  match v with
  | .fin .. => if r = 0 then v else (addX v (.fin (decide (r < 0)) r.natAbs (ulpExpS24 v - 8))).1
  | v => v

/-- The three BF16 pieces of R49, and the flags of the split. -/
def splitBf16 (x : Opd) : (Val × Val × Val) × Flags :=
  let (hi, o) := roundFmt .bf16 x.v
  match hi with
  | .fin .. =>
    let d := (subX x.v hi).1
    let mid := (roundFmt .bf16 d).1
    let lo := (roundFmt .bf16 (subX d mid).1).1
    ((hi, mid, lo), x.fl)
  | hi => ((hi, .pz, .pz), x.fl.or (mkFlags false o))

end Sys2Proof.Machine
end

