-- ==== Sys2Proof/Machine/Reduce.lean ====
section
/-! DEFINITION. Sums and their one order (04_accumulation.md): the group sum, integer accumulation, the canonical
reduction, and mean and variance triples. -/

namespace Sys2Proof.Machine

/-- One term of a reduction: its exact value and the flags of forming it. -/
structure Term where
  v : Val
  fl : Flags
  deriving DecidableEq, Repr

/-- The position of the leading bit of a finite value; 0 for a zero (R86). -/
def Val.topBit : Val → Int
  | .fin _ m e => e + bitLen m - 1
  | _ => 0

/-- The magnitude of a finite value as a multiple of 2^q, truncated toward zero, and whether a nonzero bit is lost. -/
def Val.window (q : Int) : Val → Nat × Bool
  | .fin _ m e =>
    if q ≤ e then (m * 2 ^ (e - q).toNat, false)
    else (m / 2 ^ (q - e).toNat, m % 2 ^ (q - e).toNat != 0)
  | _ => (0, false)

/-- The largest leading-bit position of the nonzero finite terms of a group. -/
def maxTop : List Val → Option Int
  | [] => none
  | v :: t => if v.isFin && !v.isZero then
                match maxTop t with
                | some e => some (max v.topBit e)
                | none => some v.topBit
              else maxTop t

/-- The sign of the truncated term of largest magnitude, the lowest index on a tie (R87). -/
def largestNeg (q : Int) (vs : List Val) : Bool :=
  (vs.foldl (fun (b : Nat × Bool) v => let m := (v.window q).1; if m > b.1 then (m, v.isNeg) else b) (0, false)).2

/-- The window sum of R86 as an exact value, with the correction of R87 when a bit is lost. -/
def windowSum (top : Int) (vs : List Val) : Val :=
  let q := top - 63
  let w : Int := vs.foldl (fun a v => a + (if v.isNeg then -((v.window q).1 : Int) else (v.window q).1)) 0
  let sticky := vs.any (fun v => (v.window q).2)
  if sticky then
    let neg := if w = 0 then largestNeg q vs else decide (w < 0)
    let x : Int := 4 * w + (if neg then -1 else 1)
    .fin (decide (x < 0)) x.natAbs (q - 2)
  else .fin (decide (w < 0)) w.natAbs q

/-- The value of a group of at most 16 terms and the flags that the group itself raises (R86, R87, R90). Missing terms
are −0 and change nothing (R76, R95). -/
def groupVal (vs : List Val) : Val × Flags :=
  let pinf := vs.any (fun v => v == .inf false)
  let ninf := vs.any (fun v => v == .inf true)
  if pinf && ninf then (.nan, { inv := true })
  else if vs.any Val.isNan then (.nan, {})
  else if pinf || ninf then (.inf ninf, {})
  else match maxTop vs with
    | none => (.fin (vs.all Val.isNeg) 0 0, {})
    | some e => let (r, o) := rne32 (windowSum e vs); (r, { ovf := o })

/-- A group sum whose first term has element index k0: its value and its events (R90, R103). Infinities that meet inside the group, and
the group's own OVF or SAT, are events of its first element (log entry 114). -/
def groupSum (ts : List Term) (k0 : Nat) : Val × List Ev :=
  let (v, f) := groupVal (ts.map Term.v)
  let evs := (ts.zipIdx k0).flatMap (fun p => flagEvs p.1.fl p.2)
  (v, evs ++ flagEvs f k0)

/-- A partial sum of the binary32 form with the first element it covers. -/
structure Part where
  v : Val
  k : Nat
  deriving DecidableEq, Repr

/-- One addition of a partial sum, rounded to binary32 (R93): the events, its OVF or SAT among them, name the first element of the
term added (R103, log entry 114). -/
def addPart (a b : Part) : Part × List Ev :=
  let (v, f) := add32 a.v b.v
  (⟨v, a.k⟩, flagEvs f b.k)

/-- One level of a fixed binary tree: neighbours combine, and an odd last node passes through, as its padded sibling
leaves it unchanged (R93, R94). -/
def treeLevel {α : Type} (f : α → α → α × List Ev) : List α → List α × List Ev
  | a :: b :: t => let (x, e) := f a b
                   let (xs, es) := treeLevel f t
                   (x :: xs, e ++ es)
  | l => (l, [])

/-- The fixed binary tree of R93 over the nodes in order; `fuel` bounds its depth. -/
def treeFuel {α : Type} (f : α → α → α × List Ev) : Nat → List α → Option α × List Ev
  | 0, l => (l.head?, [])
  | _ + 1, [] => (none, [])
  | _ + 1, [a] => (some a, [])
  | n + 1, l => let (l', e) := treeLevel f l
                let (r, es) := treeFuel f n l'
                (r, e ++ es)

/-- The fixed binary tree of R93. -/
def tree {α : Type} (f : α → α → α × List Ev) (l : List α) : Option α × List Ev := treeFuel f l.length l

/-- Group sums added in order into one span's partial (R93). -/
def spanSum (groups : List (List Term × Nat)) : Option Part × List Ev :=
  groups.foldl (fun (acc : Option Part × List Ev) g =>
    let (v, e) := groupSum g.1 g.2
    match acc.1 with
    | none => (some ⟨v, g.2⟩, acc.2 ++ e)
    | some p => let (q, e') := addPart p ⟨v, g.2⟩
                (some q, acc.2 ++ e ++ e')) (none, [])

/-- A list cut into runs of n with the index of each run's first element. -/
def indexedChunks {α : Type} (n k0 : Nat) (l : List α) : List (List α × Nat) :=
  (chunksOf n l).zipIdx.map (fun p => (p.1, k0 + p.2 * n))

/-- The canonical reduction of R93 over binary32: −0 when there are no terms (R95). -/
def canonSum (ts : List Term) : Val × List Ev :=
  let spans := (indexedChunks 1024 0 ts).map (fun s => spanSum (indexedChunks 16 s.2 s.1))
  let (r, e) := tree addPart (spans.filterMap Prod.fst)
  ((r.map Part.v).getD .nz, spans.flatMap Prod.snd ++ e)

/-- A number clamped to the INT32 range, and SAT when it was (R91, R92). -/
def clampI32 (i : Int) : Int × Flags := let (v, c) := clampInt 32 i; (v, { sat := c })

/-- An integer partial with the first element it covers. -/
structure IPart where
  v : Int
  k : Nat
  deriving DecidableEq, Repr

/-- The saturating addition of R92. -/
def addIPart (a b : IPart) : IPart × List Ev :=
  let (v, f) := clampI32 (a.v + b.v)
  (⟨v, a.k⟩, flagEvs f b.k)

/-- A group of integer products, summed exactly and clamped (R91). -/
def groupInt (ts : List Int) (k0 : Nat) : Int × List Ev :=
  let (v, f) := clampI32 (ts.foldl (· + ·) 0)
  (v, flagEvs f k0)

/-- The triple of R100. -/
structure Triple where
  n : Nat
  mean : Val
  m2 : Val
  k : Nat
  deriving DecidableEq, Repr

/-- The empty triple of R100. -/
def Triple.empty : Triple := ⟨0, .pz, .pz, 0⟩

/-- merge of R100, every operation rounded to binary32. -/
def mergeTriple (a b : Triple) : Triple × List Ev :=
  if b.n = 0 then (a, [])
  else if a.n = 0 then (b, [])
  else
    let n := a.n + b.n
    let (d, f1) := sub32 b.mean a.mean
    let f := divNat32 b.n n
    let (df, f2) := mul32 d f
    let (mean, f3) := add32 a.mean df
    let (ss, f4) := add32 a.m2 b.m2
    let (dd, f5) := mul32 d d
    let (nf, f6) := mul32 (Val.ofInt a.n) f
    let (p, f7) := mul32 dd nf
    let (m2, f8) := add32 ss p
    (⟨n, mean, m2, a.k⟩, flagEvs ([f1, f2, f3, f4, f5, f6, f7, f8].foldl Flags.or {}) b.k)

/-- The triple of one span: its elements merged one by one in index order (R100). -/
def spanTriple (xs : List (Val × Nat)) : Triple × List Ev :=
  xs.foldl (fun (acc : Triple × List Ev) x =>
    let (t, e) := mergeTriple acc.1 ⟨1, x.1, .pz, x.2⟩
    (t, acc.2 ++ e)) (Triple.empty, [])

/-- The triple of a whole row (R100). -/
def canonTriple (xs : List Val) : Triple × List Ev :=
  let spans := (chunksOf 1024 xs.zipIdx).map spanTriple
  let (r, e) := tree mergeTriple (spans.map Prod.fst)
  (r.getD Triple.empty, spans.flatMap Prod.snd ++ e)

end Sys2Proof.Machine
end

