-- ==== Sys2Proof/Machine/State.lean ====
section
/-! DEFINITION. The state of the block: every register, store, queue, counter, mode and pin the spec gives it, as plain
data, and the queue of waiting commands. Registers of the control window that no other field computes are held in `regs`,
by their window offset (Regs.lean). -/

namespace Sys2Proof.Machine

/-- Ways a command could stop the model itself: none. The block's own faults (R291) are state and the block goes on after
them (R290, R293), so no command answers a Fault. Safe. -/
inductive Fault
  deriving DecidableEq, Repr

/-- Refusals of a command by the model. -/
inductive Refusal where
  /-- Raised by an arm of exec whose command has no meaning yet. Safe. -/
  | notModelled (mnemonic : String)
  deriving DecidableEq, Repr

/-- The fault codes of R291. -/
inductive FaultCode where
  | scheduleBreach | sramUncorrectable | syncOverflow | syncUnderflow | allocDenied | formatFloor | tableEpoch
  | illegalInstruction | addressFault | portError | numericTrap | stepWatchdog | cellarUncorrectable | roomFenced
  | handleInvalid
  deriving DecidableEq, Repr

/-- The code byte of R291. -/
def FaultCode.toNat : FaultCode → Nat
  | .scheduleBreach => 0x01 | .sramUncorrectable => 0x02 | .syncOverflow => 0x03 | .syncUnderflow => 0x04
  | .allocDenied => 0x06 | .formatFloor => 0x07 | .tableEpoch => 0x08 | .illegalInstruction => 0x09
  | .addressFault => 0x0A | .portError => 0x0B | .numericTrap => 0x0C | .stepWatchdog => 0x0D
  | .cellarUncorrectable => 0x0E | .roomFenced => 0x0F | .handleInvalid => 0x10

/-- A fault that has arisen and waits for the Porch (R290, R291): its code, its source number, the room it arose in,
its job slot, the Ledger index, the PC and the fields of its unit capture in the order of R291. -/
structure FaultEvent where
  code : FaultCode
  source : Nat
  room : Option RoomId
  slot : Option SlotId
  ledger : Nat
  pc : Nat
  capture : List Nat
  deriving DecidableEq, Repr

/-! ## The Steward -/

/-- ROOM_STEW_STATUS.stall, in the order of its codes. -/
inductive Stall where
  | none | queueFull | tally | sync | barrier | dw | fence | halted
  deriving DecidableEq, Repr

/-- The code of a stall. -/
def Stall.code : Stall → Nat
  | .none => 0 | .queueFull => 1 | .tally => 2 | .sync => 3 | .barrier => 4 | .dw => 5 | .fence => 6 | .halted => 7

/-- What a stalled Steward waits to do. -/
inductive Waiting where
  | nothing
  /-- The instruction issues again when what it waits for may have happened. -/
  | again (f : Fis)
  /-- A blocking arrival has been made: its release completes the instruction (R207). -/
  | release (ch : ChanId) (halt : Bool)
  deriving DecidableEq, Repr

/-- A room's Steward (R254-R257): its registers, its place in the program and what it waits for. -/
structure Stew where
  running : Bool := false
  stall : Stall := .none
  waiting : Waiting := .nothing
  pc : Nat := 0
  codeBase : Nat := 0
  codeLen : Nat := 0
  stack : List Nat := []
  sreg : Vector Word64 32 := Vector.replicate 32 0
  areg : Vector Word 16 := Vector.replicate 16 0
  dreg : Vector (BitVec 256) 16 := Vector.replicate 16 0
  creg : Vector Word 4 := Vector.replicate 4 0
  preg : Vector Bool 8 := Vector.replicate 8 false
  /-- WIN_CYCLES when the present stall began (R354). -/
  stallFrom : Nat := 0
  /-- A halt of the Study is in force (R357). -/
  held : Bool := false
  /-- The breakpoint at the present PC has acted and does not act again before the instruction there has issued
  (log entry 17). -/
  bpPass : Bool := false
  /-- A step of the Study is granted and its instruction has not issued (R357). -/
  stepping : Bool := false
  /-- The stall of a blocking arrival that has been released, with its cycles: the next instruction to issue follows it (R354). -/
  gone : Option (Stall × Nat) := none
  deriving DecidableEq, Repr

/-- One entry of a unit queue (R256): the instruction, the words its operands held at issue (panes resolved), its PC, its
wait as a queue and a target, and its post bit. -/
structure QEntry where
  id : Nat
  op : Fis
  ra : List Nat := []
  rb : List Nat := []
  rc : List Nat := []
  pc : Nat := 0
  wait : Option (Fin 5 × BitVec 16) := none
  post : Bool := false
  /-- The pane roles of the room at issue (R194). -/
  roles : BitVec 16 := 0
  deriving DecidableEq, Repr

/-- A unit queue with its two counts (R256, R258): `posts` are the posting instructions not yet counted in the tally, in
issue order, each with whether it is complete. -/
structure UQueue where
  entries : List QEntry := []
  /-- The instruction that the unit has begun and not completed. -/
  active : Option QEntry := none
  /-- In the Floor's queue: a drain under way beside the array, which may run passes of other slots (R77). -/
  beside : Option QEntry := none
  posts : List (Nat × Bool) := []
  issued : BitVec 16 := 0
  tally : BitVec 16 := 0
  deriving DecidableEq, Repr

/-! ## The Floor -/

/-- A weight tile of 32 rows of 16 elements, each element with its block scale applied exactly (R54, R57), and whether
its elements are unscaled integers (R56): the +0 elements of reset go with either (log entry 16). -/
structure Tile where
  integer : Option Bool
  rows : List (List Opd)
  deriving DecidableEq, Repr

/-- The tile that the posts hold after reset: every element is +0 (R60). -/
def Tile.zero : Tile := ⟨none, List.replicate 32 (List.replicate 16 ⟨.pz, {}⟩)⟩

/-- An open drain slot (R73, R74). -/
structure Slot where
  base : Nat
  rowStride : Nat
  spanStride : Nat
  rows : Nat
  cols : Nat
  desc : List Nat
  integer : Bool
  thin : Bool
  masked : Bool
  live : List Nat
  maskDest : Bool
  ppg : Nat
  passes : Nat
  flags : Flags
  allMasked : Bool
  compacted : Nat
  deriving DecidableEq, Repr

/-- The arrays and drain of a Floor. -/
structure Floor where
  rest : Tile := Tile.zero
  shadow : Tile := Tile.zero
  shadowFull : Bool := false
  form : Fin 4 := 0
  slots : Vector (Option Slot) 8 := Vector.replicate 8 none
  /-- The credit count every quarter holds when the Floor is idle (R65). -/
  credit : Nat := 64
  deriving DecidableEq, Repr

/-! ## The Dumbwaiter -/

/-- A Dumbwaiter instruction of R181. Sides: false source, true destination. -/
inductive DwOp where
  | end_
  | base (dst : Bool) (space : Nat) (pair : Nat) (addr : Nat)
  | stride (dst : Bool) (level : Nat) (v : Int)
  | loop (level : Nat) (count : Nat)
  | next (level : Nat)
  | gather (dst : Bool) (page : Bool) (level bits table mult : Nat)
  | move (src dst : Nat) (op : Nat) (sat scaled bf16 transpose : Bool) (n rows : Nat) (off : Int)
  | mcast (group : Nat)
  deriving DecidableEq, Repr

/-- A term of one side's address at one level (R182). -/
inductive DwTerm where
  | stride (v : Int)
  | gather (page : Bool) (bits table mult : Nat)
  deriving DecidableEq, Repr

/-- A resolved base: DRAM or an internal address (R181, R194). -/
structure DwBase where
  dram : Bool
  addr : Nat
  deriving DecidableEq, Repr

/-- One write to a DRAM line: the line's number, and for its bytes the value or that the byte is not enabled (R188). -/
structure LineWrite where
  line : Nat
  bytes : List (Option Byte)
  deriving DecidableEq, Repr

/-- The launch that a Dumbwaiter channel runs (R182): its program, its place in it, and what it has asked for and
received. -/
structure Launch where
  id : Nat
  pc : Nat
  prog : List DwOp
  status : Nat
  deadline : Nat
  /-- The pane roles that it took at issue (R194). -/
  roles : BitVec 16
  ix : Nat := 0
  finished : Bool := false
  /-- A fault has ended it (R204). -/
  stopped : Bool := false
  src : DwBase := ⟨false, 0⟩
  dst : DwBase := ⟨false, 0⟩
  srcTerms : List (Nat × DwTerm) := []
  dstTerms : List (Nat × DwTerm) := []
  /-- Open loops, innermost first: level, index, count and the place after the LOOP. -/
  open_ : List (Nat × Nat × Nat × Nat) := []
  group : Option Nat := none
  /-- DRAM lines that the current run needs and has not requested, those requested, and those that have landed. -/
  want : List Nat := []
  flight : List Nat := []
  lines : List (Nat × List Byte) := []
  /-- Whether the read-returns of the current run have been sent. -/
  asked : Bool := false
  /-- DRAM line writes not yet granted a tag. -/
  writes : List LineWrite := []
  flags : Flags := {}
  denied : Bool := false
  slotHeld : Bool := false
  deriving DecidableEq, Repr

/-- The transaction of a read or write tag of a port (R189, R363): who issued it, a room for its job or the hub (none); of a
room's, the channel and the launch; the line; its host-context tag and its QoS class. -/
structure TagUse where
  tag : Nat
  room : Option RoomId
  ch : Fin 4 := 0
  launch : Nat := 0
  line : Nat
  ctx : Nat := 0
  qos : Nat := 0
  beats : List (List Byte) := []
  bad : Nat := 0
  /-- The bytes of a write, with those not enabled. -/
  bytes : List (Option Byte) := []
  /-- Outstanding at a warm reset: its answer is discarded (R374). -/
  drain : Bool := false
  deriving DecidableEq, Repr

/-- A line write of the hub that waits for its tag: the context of its transaction and what it writes (R188, R353, R368). -/
structure HubWrite where
  ctx : Nat
  w : LineWrite
  deriving DecidableEq, Repr

/-- One memory port (R363-R368). -/
structure Port where
  creditRq : Nat := 0
  creditWq : Nat := 0
  creditWd : Nat := 0
  /-- Write data beats that wait for a credit (R364, R366). -/
  beatsDue : Nat := 0
  reads : List TagUse := []
  writes : List TagUse := []
  lastRead : Option RoomId := none
  lastWrite : Option RoomId := none
  deriving DecidableEq, Repr

/-! ## The Hall -/

/-- Who waits for a remote operation: a queue entry of the Dumbwaiter, a launch, or only the fences (a Steward store). -/
inductive Owner where
  | entry (id : Nat)
  | launch (id : Nat)
  | store
  /-- A packet of a multicast, from the hub (R198, R200). -/
  | mcast (id : Nat)
  deriving DecidableEq, Repr

/-- A target of a remote operation: a store of a room, or the Pantry, and an offset (R17, R18). -/
inductive Store where
  | shelf | chest | lamp | parlour | pantry | icache
  deriving DecidableEq, Repr

/-- What a remote operation does at its target (R196). -/
inductive HallDo where
  | write (bytes : List Byte)
  | add (words : List Nat) (int64 : Bool)
  | read (n : Nat)
  deriving DecidableEq, Repr

/-- A remote operation in flight (R196, R197): `room` is the target room, none for the Pantry; `done` once applied;
`reply` the bytes that a read-return brings back. -/
structure HallOp where
  src : RoomId
  room : Option RoomId
  store : Store
  off : Nat
  act : HallDo
  owner : Owner
  pc : Nat
  done : Bool := false
  reply : List Byte := []
  deriving DecidableEq, Repr

/-- One receiver of a multicast (R200): the bytes sent to it and the bytes landed in its store. -/
structure Receiver where
  room : RoomId
  sent : Nat := 0
  acked : Nat := 0
  detached : Bool := false
  deriving DecidableEq, Repr

/-- What a multicast sends: a Pantry region, or bytes that a launch has formed. -/
inductive McastSrc where
  | pantry (off : Nat)
  | bytes (b : List Byte)
  deriving DecidableEq, Repr

/-- A multicast in flight (R199, R200). Its packets on their way are remote writes of the hub in the Hall's list. -/
structure Mcast where
  id : Nat
  src : RoomId
  owner : Owner
  pc : Nat
  from_ : McastSrc
  /-- The Pantry region that it reads, as offset and size (R201). -/
  held : Option (Nat × Nat) := none
  store : Store
  off : Nat
  size : Nat
  sent : Nat := 0
  recv : List Receiver
  deriving DecidableEq, Repr

/-! ## A room -/

/-- One watch slot of a room (R218, R221). -/
inductive WSlot where
  | empty
  | armed
  /-- Issued and on its way: the carried value and the status. -/
  | coming (value : Word) (status : Nat)
  | wake (value : Word) (status : Nat)
  deriving DecidableEq, Repr

/-- The power state of CHIM_ROOMn_CTL.power (R337): on, retained or off. -/
inductive Power where
  | on | retain | off
  deriving DecidableEq, Repr

/-- A sampled instruction that awaits completion (R354, R355). -/
structure Sample where
  pc : Nat
  opcode : Nat
  stall : Nat
  predOff : Bool
  issuedAt : Nat
  stalled : Nat
  step : Nat
  /-- The unit queue and entry that it waits for; none for a blocking arrival, which its release completes (R207). -/
  waits : Option (Fin 5 × Nat)
  deriving DecidableEq, Repr

/-- A room's instruction sampler (R354): the place in the interval, the LFSR and the samples that await completion. -/
structure Sampler where
  count : Nat := 0
  lfsr : BitVec 16 := 0
  awaiting : List Sample := []
  deriving DecidableEq, Repr

/-- One room. -/
structure Room where
  stew : Stew := {}
  queues : Vector UQueue 5 := Vector.replicate 5 {}
  nextId : Nat := 0
  floor : Floor := {}
  chans : Vector (Option Launch) 4 := Vector.replicate 4 none
  /-- The channel that the last read tag, and the last write tag, of the room went to (R189). -/
  lastReadCh : Fin 4 := 3
  lastWriteCh : Fin 4 := 3
  shelf : Memory := []
  chest : Memory := []
  lamp : Memory := []
  parlour : Memory := []
  icache : Memory := []
  /-- Words of the room's stores with bits in error: store code, word index and what is wrong (R178-R180). -/
  ecc : List (Nat × Nat × Nat) := []
  patrol : Nat := 0
  /-- Corrected words that wait to be rewritten (R178): store code and word. -/
  rewrites : List (Nat × Nat) := []
  /-- Bit p: the fill pane of pair p is B (R194). -/
  roles : BitVec 16 := 0
  /-- The 16 words of the job's pane table (R273). -/
  panes : List Nat := []
  sense : Vector Bool 8 := Vector.replicate 8 false
  /-- The room's arrival on a channel has not seen its release (R207). -/
  awaiting : Vector Bool 8 := Vector.replicate 8 false
  slots : Vector WSlot 16 := Vector.replicate 16 .empty
  /-- Step time in units of 16 Hall cycles (R191). -/
  stepTime : Nat := 0
  job : Option SlotId := none
  logical : Nat := 0
  power : Power := .off
  /-- Instructions issued, words corrected and clock stretches that no room cycle of the counters has taken yet (R348, log entry 131). -/
  issues : Nat := 0
  fixes : Nat := 0
  stretches : Nat := 0
  sampler : Sampler := {}
  deriving DecidableEq, Repr

/-! ## The Landing -/

/-- One barrier channel (R205, R206, R209-R211): the expected sense, the member mask in force (bit 32 the Porch), the
Porch's sense, whether the epoch has seen an arrival, and the job that owns the channel. -/
structure Barrier where
  e : Bool := true
  members : BitVec 33 := 0
  porch : Bool := false
  arrived : Bool := false
  slot : Option SlotId := none
  deriving DecidableEq, Repr

/-- Who a watch wakes (R218). -/
inductive WatchFor where
  | room (r : RoomId) (slot : Fin 16)
  | host (c : Ctx) (slot : Fin 64)
  deriving DecidableEq, Repr

/-- An armed watch (R218): the physical word, the condition code and the threshold. -/
structure Watch where
  word : Nat
  who : WatchFor
  cond : Nat
  thr : Nat
  deriving DecidableEq, Repr

/-- What a room's sync operation does at the word's home (R214, R219). -/
inductive SyncDo where
  | signal
  | add (n : Int)
  | set (n : Nat)
  | watch (slot : Fin 16) (cond thr : Nat)
  deriving DecidableEq, Repr

/-- A room's sync operation on its way to the word's home (R214). -/
structure SyncOp where
  room : RoomId
  handle : Nat
  word : Nat
  act : SyncDo
  pc : Nat
  /-- The instruction word. -/
  instr : Nat
  deriving DecidableEq, Repr

/-- The Landing (R205-R225): words and Keyring entries as sparse tables, watches in the order of registration. -/
structure Landing where
  bars : Vector Barrier 8 := Vector.replicate 8 {}
  words : List (Nat × Word64) := []
  keyring : List (Nat × Nat) := []
  watches : List Watch := []
  ops : List SyncOp := []
  ecc : List (Nat × Nat) := []
  krEcc : List (Nat × Nat) := []
  deriving DecidableEq, Repr

/-! ## Jobs -/

/-- PORCH_JOBj_STATUS.state, in the order of its codes (R288). -/
inductive JobState where
  | free | loading | running | restarting | preempted
  deriving DecidableEq, Repr

/-- The fields of a job descriptor (R272). -/
structure JobDesc where
  addr : Nat := 0
  ctx : Nat := 0
  resident : Bool := false
  ckpt : Bool := false
  prog : Nat := 0
  sched : Nat := 0
  sync : Nat := 0
  larder : Nat := 0
  pantryBase : Nat := 0
  pantrySize : Nat := 0
  lampOff : Nat := 0
  weightOff : Nat := 0
  weightSize : Nat := 0
  chans : Nat := 0
  stepCh : Nat := 0
  rooms : Nat := 0
  parts : Nat := 0
  chest0 : Nat := 0
  partSize : Nat := 0
  stepOff : Nat := 0
  panes : List Nat := []
  deriving DecidableEq, Repr

/-- The fields of a schedule image (R275). -/
structure Sched where
  gangs : List Nat := []
  rows : Nat := 0
  latency : Nat := 0
  stepTime : Nat := 0
  readClaim : Nat := 0
  writeClaim : Nat := 0
  positions : Nat := 0
  larderPages : Nat := 0
  paneBytes : Nat := 0
  interval : Nat := 0
  deriving DecidableEq, Repr

/-- A row of a step (R235): the logical room, the row in it, the stream, the positions that it consumes in the step, and
whether the row is held. -/
structure PlacedRow where
  room : Nat
  row : Nat
  stream : Nat
  positions : Nat
  held : Bool := false
  /-- The log positions that those stand for, and for a windowed stream when its windows became due. -/
  taken : List Nat := []
  dues : List Nat := []
  deriving DecidableEq, Repr

/-- A resident state on its way from one row to another (R240). -/
structure StateCopy where
  stream : Nat
  src : RoomId
  srcRow : Nat
  dst : RoomId
  dstRow : Nat
  deriving DecidableEq, Repr

/-- An END or PREEMPT that waits for its step boundary (R288, R289). -/
structure EndReq where
  preempt : Bool
  tag : Nat
  step : Nat
  deriving DecidableEq, Repr

/-- A windowed stream's place at a checkpoint step (R245, R246): its open window, and the log positions consumed although an
earlier one is not. -/
structure Mark where
  index : Nat
  window : Nat
  ahead : List Nat
  deriving DecidableEq, Repr

/-- A checkpoint whose state writes are not all answered (R26): the step; for each stream, its index and log position, and its
place in its windows; and the launches of the step that had not completed at its end, by room and number. -/
structure Ckpt where
  step : Nat
  streams : List (Nat × Nat)
  marks : List Mark := []
  launches : List (RoomId × Nat) := []
  deriving DecidableEq, Repr

/-- A job slot (R286-R289). -/
structure Job where
  st : JobState := .free
  queue : Fin 16 := 0
  ctx : Ctx := 0
  number : Nat := 0
  tag : Nat := 0
  desc : JobDesc := {}
  sched : Sched := {}
  /-- Logical room to physical room; none while no room stands for it. -/
  rooms : List (Option RoomId) := []
  chans : List ChanId := []
  groups : List Nat := []
  reserves : List Nat := []
  step : Nat := 0
  /-- Whether the job's present step has started; false between a load and the first release. -/
  inStep : Bool := false
  placed : List PlacedRow := []
  restarts : Nat := 0
  /-- Times in ms at which counted restarts began (R299). -/
  restartMs : List Nat := []
  extra : Nat := 0
  lastFault : Nat := 0
  lastLog : Nat := 0xFFFFFFFF
  highest : Nat := 0
  /-- The highest step released before the last fault (R284). -/
  faultHigh : Option Nat := none
  endReq : Option EndReq := none
  /-- Checkpoints that have begun and not committed, oldest first (R26). -/
  ckpts : List Ckpt := []
  /-- Step of the last committed checkpoint, if there is one (R26). -/
  committed : Option Nat := none
  /-- The commit ends the job: END's completion waits for it (R288). -/
  ending : Option EndReq := none
  /-- The first step number that is not a replay (R294). -/
  replayTo : Nat := 0
  debug : Bool := false
  /-- The restart is held at stage 3, or the start of a step waits, for want of a room (R241, R293). -/
  noRoom : Bool := false
  /-- Between a fault and the end of the restart (R290, R293). -/
  stopped : Bool := false
  /-- Restarts that a held RESTARTED completion stands for (R285). -/
  merged : Nat := 0
  /-- Moves decided by the placement loop, for the next boundary (R239, R240): stream and logical room. -/
  moves : List (Nat × Nat) := []
  /-- A resident job's state copies that its next step waits for (R240). -/
  copies : List StateCopy := []
  /-- The step barrier has released and the next step waits for state copies. -/
  waitCopy : Bool := false
  /-- Larder pages evicted, expired or replaced in the present step (R170). -/
  freed : List Nat := []
  /-- THR_TIMEBASE when the present step began. -/
  since : Nat := 0
  /-- Timebase ticks spent in replayed steps (R298). -/
  replayTicks : Nat := 0
  /-- The step at which the job's load or restart under way starts. -/
  next : Nat := 0
  deriving DecidableEq, Repr

/-! ## Threshold -/

/-- A Larder that jobs use (R163): the DRAM key of its header and, for each class, the keys of the free slots that Threshold
holds; the pages that are a list's pinned sink, as the last `pa.pageset` on the list had it (R167, R171); and of each DROPPED page
the scale form and head dimension that its header had (R172). -/
structure Larder where
  addr : Nat
  free : List (List Nat) := []
  pinned : List Nat := []
  dropped : List (Nat × Nat × Nat) := []
  deriving DecidableEq, Repr

/-- Where a room stands in R242: not re-admitting, at its self-test, or loading. -/
inductive Readmit where
  | no | selfTest | load
  deriving DecidableEq, Repr

/-- A command of a context that has not answered (R231): PARK or UNPARK, with the entry. -/
structure ThrCmd where
  op : Nat
  index : Nat
  deriving DecidableEq, Repr

/-- A window that has become due and is not consumed (R245): the stream, the timebase at which it became due. -/
structure DueWindow where
  index : Nat
  due : Nat
  deriving DecidableEq, Repr

/-- Threshold (R228-R253). Its registers are in `regs`. -/
structure Thr where
  /-- The Ledger: 4,096 entries of 256 bytes (R228). -/
  ledger : Memory := []
  ledgerEcc : List (Nat × Nat) := []
  /-- Tokens in each class's bucket, in sixteenths (R234). -/
  bucket : Vector Nat 4 := Vector.replicate 4 0
  /-- 1 ms ticks since ready rose. -/
  ms : Nat := 0
  shedBulk : Bool := false
  shedBg : Bool := false
  /-- Ticks in a row at or below `off`, and ticks since the last change, of BULK and of BACKGROUND (R236). -/
  quietBulk : Nat := 0
  quietBg : Nat := 0
  sinceBulk : Nat := 0
  sinceBg : Nat := 0
  /-- SRAM_UNCORRECTABLE faults by room, with the tick (R241). -/
  ue : List (RoomId × Nat) := []
  /-- Rooms whose fence is decided and waits for a step boundary (R241). -/
  fenceDue : BitVec 32 := 0
  /-- Rooms that a fault, a self-test or the host holds fenced; the Chimney's own are in `chim.thermal` (R241, R347). -/
  faultFence : BitVec 32 := 0
  readmit : Vector Readmit 32 := Vector.replicate 32 .no
  /-- The job that a re-admitting or substitute room joins. -/
  joins : Vector (Option SlotId) 32 := Vector.replicate 32 none
  cmds : Vector (Option ThrCmd) 32 := Vector.replicate 32 none
  /-- ACTIVE streams whose CLOSE waits for the release (R229). -/
  closing : List Nat := []
  due : List DueWindow := []
  /-- Windowed streams that have had no record since they were opened: they have no origin yet (R245). -/
  noOrigin : List Nat := []
  /-- Log positions of windowed streams that are consumed although an earlier one is not (R246). -/
  ahead : List (Nat × Nat) := []
  /-- Streams of jobs that are not checkpointed: the feed check of R252 is not theirs, whether their job still runs or not (R295). -/
  noCkpt : List Nat := []
  /-- What a restart returns to (R293): for each stream, its open window and those positions at its last checkpoint. -/
  marks : List Mark := []
  larders : List Larder := []
  /-- The tick at which a stream last moved (R239). -/
  movedMs : List (Nat × Nat) := []
  deriving DecidableEq, Repr

/-! ## The Porch -/

/-- What a queue waits for before it gives up its next entry (R283): the answer to the entry itself, or a completion of a
job, one that ends it for END and PREEMPT. -/
inductive Await where
  | answer
  | job (j : SlotId) (ends : Bool)
  deriving DecidableEq, Repr

/-- A completion entry (R284) without its phase; the slot of its job, if it has one. -/
structure Compl where
  tag : Nat
  number : Nat
  job : Option SlotId := none
  result : Nat
  fault : Nat := 0
  restarts : Nat := 0
  flog : Nat := 0xFFFFFFFF
  step : Nat := 0
  deriving DecidableEq, Repr

/-- One job queue (R281-R285): what the entry taken last awaits, and the completions held while the ring is full. -/
structure PorchQ where
  awaits : Option Await := none
  held : List Compl := []
  deriving DecidableEq, Repr

/-- The Porch. Its registers are in `regs`. -/
structure Porch where
  queues : Vector PorchQ 16 := Vector.replicate 16 {}
  /-- The queue served last (R283). -/
  last : Fin 16 := 15
  /-- The job number assigned last (R286). -/
  number : Nat := 0
  /-- Records written to the fault log since reset (R292). -/
  logged : Nat := 0
  deriving DecidableEq, Repr

/-! ## The trace -/

/-- A trace record (R360). -/
structure TraceRec where
  type : Nat
  room : Nat
  aux : Nat
  time : Nat
  value : Nat
  deriving DecidableEq, Repr

/-! ## The Cellar -/

/-- A record of the journal that still counts (R325, R326, R330): an anchor (0x12), an erase intent (0x14) or a retire record
(0x15), with the anchor id or the sector, and the words that hold it as sector and word. -/
structure CelRec where
  type : Nat
  id : Nat
  seq : Nat
  index : Nat := 0
  words : Nat := 0
  crc : Nat := 0
  time : Nat := 0
  /-- Of an intent the erase count, of a retire record the reason. -/
  arg : Nat := 0
  places : List (Nat × Nat) := []
  deriving DecidableEq, Repr

/-- What the Cellar does as one piece of work: a command with its arguments and buffer as they were when written (R324), PARK and
UNPARK (R328), and the work of its own (R317, R330, R332, R333). -/
inductive CelTask where
  | cmd (op : Nat) (arg0 arg1 : Nat) (buf table : Nat)
  | park (c : Ctx) (index : Nat)
  | unpark (c : Ctx) (index : Nat)
  /-- Erases a pool sector, after an intent when the journal can hold one. -/
  | erase (sector count : Nat) (intent : Bool)
  /-- Copies a live record forward under a new sequence. -/
  | copy (seq : Nat)
  /-- Writes a sector's retire record. -/
  | retire (sector reason : Nat)
  deriving DecidableEq, Repr

/-- One step of the work under way. -/
inductive CelStep where
  /-- An erase; its health record takes the count (R315). -/
  | erase (sector count : Nat)
  /-- One program: the first byte's flash address, and the bytes (R314). -/
  | prog (addr : Nat) (bytes : List Byte)
  /-- Header word 1 of a sector: role and index (R315). -/
  | use (sector role index : Nat)
  /-- A data word in its place, if the word is erased. -/
  | fixed (sector word : Nat) (bytes : List Byte)
  /-- A word appended to the journal, for the record being written. -/
  | word (bytes : List Byte)
  /-- The read-back of a journal word (R314). -/
  | verify (sector word : Nat) (bytes : List Byte)
  /-- The read-back of a word that has one place: of an image, or a header word as words 112 and 113 of its sector (R314). -/
  | readBack (sector word : Nat)
  /-- The record being written commits (R326). -/
  | commit (r : CelRec)
  /-- An anchor's tombstone commits (R325). -/
  | tomb (id : Nat)
  /-- The stream is PARKED with its anchor (R328). -/
  | parked (index id : Nat)
  /-- The sector's health record reads Good: its intent is replaced (R330). -/
  | erased (sector : Nat)
  /-- A check of a written boot slot or calibration copy: result 4 ends the command (R324). -/
  | check (cal : Bool) (index : Nat)
  /-- A new pointer record (R322). -/
  | point (slot : Nat)
  /-- A pointer record in the next erased word of a pointer sector, or of the other one (R322). -/
  | pointer (sector : Nat) (bytes : List Byte)
  /-- The read-back of a pointer record (R314). -/
  | pointed (sector word : Nat) (bytes : List Byte)
  /-- The command under way answers. -/
  | answer (result : Nat)
  deriving DecidableEq, Repr

/-- What a sector has shown since its last erase (R315, R333): the worst word read, the words skipped or rewritten, and the programs that
failed verify. -/
structure SecStat where
  sector : Nat
  worst : Nat := 0
  skips : Nat := 0
  fails : Nat := 0
  deriving DecidableEq, Repr

/-- The Cellar (R309-R334). Its registers are in `regs`. -/
structure Cellar where
  /-- The serial NOR, by byte address; a byte that is not listed is 0xFF. -/
  flash : Memory := []
  steps : List CelStep := []
  /-- The head of `steps`, an erase or a program, has been issued to the part. -/
  issued : Bool := false
  suspended : Bool := false
  /-- The sector that is being programmed has reported a failure of the program under way. -/
  failed : Bool := false
  active : Option CelTask := none
  waiting : List CelTask := []
  todo : List CelTask := []
  recs : List CelRec := []
  /-- The journal sector being filled, and its next word. -/
  jpos : Option (Nat × Nat) := none
  nextSeq : Nat := 1
  nextId : Nat := 1
  /-- Words written so far of the record under way. -/
  written : List (Nat × Nat) := []
  /-- The sectors that have shown something since their last erase. -/
  stats : List SecStat := []
  /-- Sectors whose health is WATCH (R333). -/
  watch : List Nat := []
  /-- Of an UNPARK under way, the entries whose tombstones have not committed, with their anchors (R328). -/
  unparking : List (Nat × Nat) := []
  /-- The boot slot and the calibration copy that start-up loaded. -/
  slot : Option Nat := none
  cal : Option Nat := none
  deriving DecidableEq, Repr

/-! ## The Chimney -/

/-- The Chimney (R335-R347). Its registers are in `regs`. -/
structure Chimney where
  /-- The calibration payload in force (R338), by offset; none when both copies failed. -/
  cal : Option Memory := none
  /-- Frequency ceilings of the budget loop, MHz (R342). -/
  ceil : Vector Nat 32 := Vector.replicate 32 300
  /-- Rooms held at 0.30 GHz (R346). -/
  emergency : BitVec 32 := 0
  /-- Rooms that a thermal decision holds fenced (R343, R346). -/
  thermal : BitVec 32 := 0
  /-- Sensor readings in a row at or above fence_on, and at or below fence_off (R346). -/
  hot : Vector Nat 32 := Vector.replicate 32 0
  cool : Vector Nat 32 := Vector.replicate 32 0
  /-- Milliseconds that a room has held no job (R337). -/
  idle : Vector Nat 32 := Vector.replicate 32 0
  /-- Sum of margin errors of a room's PI loop (R341). -/
  integ : Vector Int 32 := Vector.replicate 32 0
  /-- The requirement, mV, that a room's LDO trim has been set for (R341). -/
  trimmed : Vector Nat 32 := Vector.replicate 32 0
  /-- A rise of a group's rail has not settled (R336). -/
  settling : Vector Bool 4 := Vector.replicate 4 false
  /-- `pmic_vreq_g`: it toggles once for each change of a group's voltage code (R372). -/
  vreq : BitVec 4 := 0
  /-- Burst periods in each slot of 10 ms that has ended, newest first, and in the present one (R340). -/
  slots : List Nat := []
  slotBurst : Nat := 0
  slotPeriods : Nat := 0
  /-- Budget periods in a row above the limit with every busy room at the floor (R343). -/
  overTicks : Nat := 0
  /-- Energy not yet a whole µJ, in quarters of a pJ (R342). -/
  rest : Nat := 0
  /-- The sustained ceiling of the skin loop, mW; none while it has not lowered it (R344). -/
  skin : Option Nat := none
  skinInteg : Int := 0
  /-- Seconds since the last estimate, and whether it is stale (R344). -/
  skinAge : Nat := 0
  stale : Bool := false
  /-- The ports' total issue rate, 0.1 GB/s, and whether a request is held at the claims (R345). -/
  paced : Nat := 0x600
  paceHeld : Bool := false
  deriving DecidableEq, Repr

/-! ## The Window and the Study -/

/-- The block Window and the Study (R348-R361). Their registers are in `regs`. -/
structure Window where
  /-- 64 B units in the present window, by port, reads at 2k and writes at 2k + 1 (R350). -/
  ports : List (Nat × Nat) := []
  /-- 64 B units in the present window, by link and direction, 2i + d (R350). -/
  links : List (Nat × Nat) := []
  /-- Snapshots taken (R352). -/
  snaps : Nat := 0
  /-- The lines of the last dump, by context and line number: it is still being written while the hub has not had the answer to one
  of them (R351). -/
  dumping : List (Nat × Nat) := []
  /-- Attempts of the Study to set a word (R359). -/
  attempts : Nat := 0
  /-- Trace records dropped since the last overflow record (R360). -/
  traceDrop : Nat := 0
  /-- Bytes of the trace queue's oldest record that the trace pins have carried (R360, R372). -/
  traceSent : Nat := 0
  deriving DecidableEq, Repr

/-! ## The whole block -/

/-- The pins and rails that act on the whole block (R362, R372-R379): cold reset asserted, isolation, the block's rails, and a
start-up of a warm reset that waits for outstanding tags (R374). -/
structure Pins where
  cold : Bool := true
  iso : Bool := false
  rails : Bool := true
  startup : Option BootFacts := none
  deriving DecidableEq, Repr

/-- What the xSPI controller holds of its bus (R377): the level of the part's hardware reset, and whether the bus runs in 8D-8D-8D at
up to 200 MHz, as after start-up stage 2, or in 1S-1S-1S at 25 MHz. -/
structure Xspi where
  rstN : Bool := true
  octal : Bool := false
  deriving DecidableEq, Repr

/-- The trace pins (R372): the byte that they carry, and `trc_sync`. -/
structure TracePins where
  d : Byte := 0
  sync : Bool := false
  deriving DecidableEq, Repr

/-- The last response of the control port or of the debug port (R370). -/
structure Resp where
  rdata : Word := 0
  err : Bool := false
  deriving DecidableEq, Repr

/-- The state of the block. -/
structure State where
  pending : List Instr := []
  /-- Counter of the free choices taken so far: the model's own field (log entry 2). -/
  free : Nat := 0
  resp : Resp := {}
  /-- The last response of the debug port. -/
  debugResp : Resp := {}
  /-- Registers of the control window that differ from their reset value, by offset (Regs.lean). -/
  regs : List (Nat × Word) := []
  /-- Holding registers of R8, by context and offset. -/
  hold : List (Nat × Word) := []
  rooms : Vector Room 32 := Vector.replicate 32 {}
  pantry : Memory := []
  pantryEcc : List (Nat × Nat) := []
  pantryRewrites : List Nat := []
  pantryPatrol : Nat := 0
  /-- DRAM as the host contexts address it: a byte's key is its context times 2^64 and its 48-bit virtual address (R188, log
  entry 5). -/
  dram : Memory := []
  /-- Line writes of the hub that wait for a tag, oldest first (R353, R368, log entry 110). -/
  hubWrites : List HubWrite := []
  hall : List HallOp := []
  mcasts : List Mcast := []
  nextMcast : Nat := 0
  ports : Vector Port 4 := Vector.replicate 4 {}
  land : Landing := {}
  /-- The rooms that are fenced, from the boundary at which the fence took effect (R241). -/
  fenced : BitVec 32 := 0
  jobs : Vector Job 8 := Vector.replicate 8 {}
  /-- The trace formatter's queue (R360). -/
  trace : List TraceRec := []
  faults : List FaultEvent := []
  thr : Thr := {}
  porch : Porch := {}
  cel : Cellar := {}
  chim : Chimney := {}
  win : Window := {}
  xspi : Xspi := {}
  trc : TracePins := {}
  pins : Pins := {}
  deriving DecidableEq, Repr

/-- The block right after cold reset has been asserted, with its rails up and its pins not clamped: every register at its
reset value (R9), no job, no stream, nothing in flight (log entries 3, 4). -/
def State.reset : State := {}

end Sys2Proof.Machine
end

