-- ==== Sys2Proof/Machine/Regs.lean ====
section
/-! DEFINITION. The registers of the control window (R4-R9, R14, R15): the masks of their fields by access code, their
reset values, and the one store that holds them. A register's words are keyed by window offset; a per-context register
is keyed by its offset and its context. -/

namespace Sys2Proof.Machine

/-- One row of the register table: the first offset, two steps with their counts (0 where there is none), the bits that a
write sets (RW and W1S), clears by writing 1 (W1C) or a read clears (RC), the reset value, who may write (0 anyone, 1 the
managing context, 2 the queue's owner and context 0, R280), and whether each context has its own. -/
structure RegRow where
  base : Nat
  s1 : Nat
  n1 : Nat
  s2 : Nat
  n2 : Nat
  rw : Nat
  w1c : Nat
  rc : Nat
  reset : Nat
  perm : Nat
  perCtx : Bool
  deriving DecidableEq, Repr

/-- Whether the row covers an offset. -/
def RegRow.covers (w : RegRow) (off : Nat) : Bool :=
  if off < w.base then false
  else
    let d := off - w.base
    if w.n1 = 0 then d == 0
    else if w.n2 = 0 then d % w.s1 == 0 && decide (d / w.s1 < w.n1)
    else d % w.s1 % w.s2 == 0 && decide (d / w.s1 < w.n1) && decide (d % w.s1 / w.s2 < w.n2)

/-- A word that no row covers: every field is RO, WO or reserved and resets to 0 (R6). -/
def RegRow.plain : RegRow := ⟨0, 0, 0, 0, 0, 0, 0, 0, 0, 0, false⟩

/-- The registers of a room's slice, by the offset in the slice (R15), part 1. -/
def roomRegs0 : List RegRow :=
  [⟨0x4004, 0x0, 0, 0x0, 0, 0x1f, 0x0, 0x0, 0x10, 0, false⟩,
   ⟨0x4008, 0x0, 0, 0x0, 0, 0x7f, 0x0, 0x7f0000, 0x400040, 0, false⟩,
   ⟨0x400c, 0x0, 0, 0x0, 0, 0x0, 0x0, 0x0, 0x80, 0, false⟩,
   ⟨0x4010, 0x0, 0, 0x0, 0, 0x0, 0xf, 0x0, 0x0, 0, false⟩,
   ⟨0x400, 0x0, 0, 0x0, 0, 0x0, 0x7f, 0x0, 0x0, 0, false⟩,
   ⟨0x404, 0x0, 0, 0x0, 0, 0x3f, 0x0, 0x0, 0x2, 0, false⟩,
   ⟨0x418, 0x0, 0, 0x0, 0, 0x0, 0x0, 0xffffffff, 0x0, 0, false⟩,
   ⟨0x8004, 0x0, 0, 0x0, 0, 0x1, 0x0, 0x0, 0x1, 0, false⟩,
   ⟨0x8008, 0x0, 0, 0x0, 0, 0x1ffff, 0x0, 0x0, 0x100, 0, false⟩,
   ⟨0x800c, 0x0, 0, 0x0, 0, 0x0, 0x7, 0x0, 0x0, 0, false⟩,
   ⟨0xc004, 0x0, 0, 0x0, 0, 0x1, 0x0, 0x0, 0x1, 0, false⟩,
   ⟨0xc008, 0x0, 0, 0x0, 0, 0x0, 0x3, 0x0, 0x0, 0, false⟩,
   ⟨0x14004, 0x0, 0, 0x0, 0, 0x1, 0x0, 0x0, 0x1, 0, false⟩,
   ⟨0x14008, 0x0, 0, 0x0, 0, 0x0, 0xf, 0x0, 0x0, 0, false⟩,
   ⟨0x10004, 0x0, 0, 0x0, 0, 0x1, 0x0, 0x0, 0x1, 0, false⟩,
   ⟨0x10020, 0x0, 0, 0x0, 0, 0x0, 0x0, 0x7ff0000, 0x0, 0, false⟩,
   ⟨0x10024, 0x0, 0, 0x0, 0, 0x0, 0x0, 0xffffff, 0x0, 0, false⟩,
   ⟨0x500, 0x0, 0, 0x0, 0, 0xffff0001, 0x0, 0x0, 0x1000000, 0, false⟩,
   ⟨0x504, 0x0, 0, 0x0, 0, 0x0, 0x0, 0xffffffff, 0x0, 0, false⟩,
   ⟨0x18000, 0x0, 0, 0x0, 0, 0x1, 0x0, 0x0, 0x0, 0, false⟩,
   ⟨0x18010, 0x4, 8, 0x0, 0, 0x3ffff, 0x0, 0x0, 0x0, 0, false⟩,
   ⟨0x18040, 0x8, 8, 0x0, 0, 0xffffffff, 0x0, 0x0, 0x0, 0, false⟩,
   ⟨0x18044, 0x8, 8, 0x0, 0, 0xffff, 0x0, 0x0, 0x0, 0, false⟩,
   ⟨0x18080, 0x0, 0, 0x0, 0, 0x0, 0xff, 0x0, 0x0, 0, false⟩,
   ⟨0x18090, 0x0, 0, 0x0, 0, 0xffff007f, 0x0, 0x0, 0x20, 0, false⟩,
   ⟨0x18094, 0x0, 0, 0x0, 0, 0x0, 0x0, 0xffff0000, 0x0, 0, false⟩]

/-- The registers of a room's slice, by the offset in the slice (R15). -/
def roomRegs : List RegRow := roomRegs0

/-- The registers outside the room slices, by control-window offset (R14), part 1. -/
def hubRegs0 : List RegRow :=
  [⟨0x30080, 0x0, 0, 0x0, 0, 0xffff, 0x0, 0x0, 0x100, 0, false⟩,
   ⟨0x30088, 0x0, 0, 0x0, 0, 0xffff, 0x0, 0x0, 0x3c0, 0, false⟩,
   ⟨0x300a0, 0x8, 4, 0x0, 0, 0x0, 0x0, 0xffffff, 0x0, 0, false⟩,
   ⟨0x30100, 0x0, 0, 0x0, 0, 0xffff0001, 0x0, 0x0, 0x1000000, 0, false⟩,
   ⟨0x30104, 0x0, 0, 0x0, 0, 0x0, 0x0, 0xffffffff, 0x0, 0, false⟩,
   ⟨0x10004, 0x0, 0, 0x0, 0, 0x0, 0x0, 0x0, 0x4000, 0, false⟩,
   ⟨0x10100, 0x20, 8, 0x0, 0, 0xffffffff, 0x0, 0x0, 0x0, 0, false⟩,
   ⟨0x10104, 0x20, 8, 0x0, 0, 0x1, 0x0, 0x0, 0x0, 0, false⟩,
   ⟨0x1010c, 0x20, 8, 0x0, 0, 0xffffff, 0x0, 0x0, 0x1d4c0, 0, false⟩,
   ⟨0x11000, 0x0, 0, 0x0, 0, 0x0, 0x0, 0x0, 0x0, 0, true⟩,
   ⟨0x11004, 0x0, 0, 0x0, 0, 0x0, 0x0, 0x0, 0x0, 0, true⟩,
   ⟨0x11008, 0x0, 0, 0x0, 0, 0x0, 0x0, 0x0, 0x0, 0, true⟩,
   ⟨0x1100c, 0x0, 0, 0x0, 0, 0x0, 0x0, 0x7, 0x0, 0, true⟩,
   ⟨0x11010, 0x0, 0, 0x0, 0, 0xffffffff, 0x0, 0x0, 0x0, 0, true⟩,
   ⟨0x11014, 0x0, 0, 0x0, 0, 0x0, 0x0, 0x0, 0x0, 0, true⟩,
   ⟨0x11018, 0x0, 0, 0x0, 0, 0x0, 0x0, 0x0, 0x0, 0, true⟩,
   ⟨0x1101c, 0x0, 0, 0x0, 0, 0x0, 0x0, 0x0, 0x0, 0, true⟩,
   ⟨0x14000, 0x8, 1024, 0x0, 0, 0x0, 0x0, 0x0, 0x0, 0, true⟩,
   ⟨0x14004, 0x8, 1024, 0x0, 0, 0x0, 0x0, 0x0, 0x0, 0, true⟩,
   ⟨0x16000, 0x20, 64, 0x0, 0, 0xffffffff, 0x0, 0x0, 0x0, 0, true⟩,
   ⟨0x16004, 0x20, 64, 0x0, 0, 0x1ffff, 0x0, 0x0, 0x0, 0, true⟩,
   ⟨0x16008, 0x20, 64, 0x0, 0, 0x0, 0x0, 0x0, 0x0, 0, true⟩,
   ⟨0x1600c, 0x20, 64, 0x0, 0, 0x0, 0x0, 0x0, 0x0, 0, true⟩,
   ⟨0x16010, 0x20, 64, 0x0, 0, 0xffffffff, 0x0, 0x0, 0x0, 0, true⟩,
   ⟨0x16014, 0x20, 64, 0x0, 0, 0xffff, 0x0, 0x0, 0x0, 0, true⟩,
   ⟨0x20000, 0x0, 0, 0x0, 0, 0x0, 0x0, 0x0, 0x8000, 0, false⟩,
   ⟨0x20004, 0x0, 0, 0x0, 0, 0x1, 0x0, 0x0, 0x1, 0, false⟩,
   ⟨0x20008, 0x0, 0, 0x0, 0, 0xffffffff, 0x0, 0x0, 0x6000600, 0, false⟩,
   ⟨0x20010, 0x0, 0, 0x0, 0, 0xffffffff, 0x0, 0x0, 0x4000600, 0, false⟩,
   ⟨0x20014, 0x0, 0, 0x0, 0, 0xffffffff, 0x0, 0x0, 0x8000c00, 0, false⟩,
   ⟨0x20018, 0x0, 0, 0x0, 0, 0xff, 0x0, 0x0, 0x8, 0, false⟩,
   ⟨0x2001c, 0x0, 0, 0x0, 0, 0xff0f, 0x0, 0x0, 0x3204, 0, false⟩,
   ⟨0x20020, 0x0, 0, 0x0, 0, 0xffffffff, 0x0, 0x0, 0x0, 0, false⟩,
   ⟨0x2002c, 0x0, 0, 0x0, 0, 0xffff, 0x0, 0x0, 0x3e8, 0, false⟩,
   ⟨0x20030, 0x0, 0, 0x0, 0, 0x0, 0xf, 0x0, 0x0, 0, false⟩,
   ⟨0x20040, 0x10, 4, 0x0, 0, 0xfff7f, 0x0, 0x0, 0x80000, 0, false⟩,
   ⟨0x20044, 0x10, 4, 0x0, 0, 0xffffffff, 0x0, 0x0, 0xffffffff, 0, false⟩,
   ⟨0x20048, 0x10, 4, 0x0, 0, 0x0, 0x0, 0xffff0000, 0x0, 0, false⟩,
   ⟨0x20110, 0x0, 0, 0x0, 0, 0xffffffff, 0x0, 0x0, 0x0, 0, false⟩,
   ⟨0x21000, 0x0, 0, 0x0, 0, 0x0, 0x0, 0x0, 0x0, 0, true⟩]

/-- The registers outside the room slices, by control-window offset (R14), part 2. -/
def hubRegs1 : List RegRow :=
  [⟨0x21004, 0x4, 4, 0x0, 0, 0xffffffff, 0x0, 0x0, 0x0, 0, true⟩,
   ⟨0x21014, 0x0, 0, 0x0, 0, 0x0, 0x0, 0x0, 0x0, 0, true⟩,
   ⟨0x21018, 0x0, 0, 0x0, 0, 0x0, 0x0, 0x0, 0x0, 0, true⟩,
   ⟨0x2101c, 0x0, 0, 0x0, 0, 0x0, 0x0, 0x0, 0x0, 0, true⟩,
   ⟨0x22000, 0x0, 0, 0x0, 0, 0xfff, 0x0, 0x0, 0x0, 0, false⟩,
   ⟨0x10, 0x0, 0, 0x0, 0, 0x0, 0x0, 0x0, 0x0, 1, false⟩,
   ⟨0x14, 0x0, 0, 0x0, 0, 0x1f, 0x0, 0x0, 0x0, 1, false⟩,
   ⟨0x18, 0x0, 0, 0x0, 0, 0xffffffff, 0x0, 0x0, 0x3e803, 1, false⟩,
   ⟨0x1c, 0x0, 0, 0x0, 0, 0xffff, 0x0, 0x0, 0x7d0, 1, false⟩,
   ⟨0x20, 0x0, 0, 0x0, 0, 0xffffffff, 0x0, 0x0, 0x0, 1, false⟩,
   ⟨0x24, 0x0, 0, 0x0, 0, 0xffff, 0x0, 0x0, 0x0, 1, false⟩,
   ⟨0x28, 0x0, 0, 0x0, 0, 0x1f, 0x0, 0xffff0000, 0x4, 1, false⟩,
   ⟨0x100, 0x40, 16, 0x0, 0, 0xffffffff, 0x0, 0x0, 0x0, 2, false⟩,
   ⟨0x104, 0x40, 16, 0x0, 0, 0xffff, 0x0, 0x0, 0x0, 2, false⟩,
   ⟨0x108, 0x40, 16, 0x0, 0, 0xffffffff, 0x0, 0x0, 0x0, 2, false⟩,
   ⟨0x10c, 0x40, 16, 0x0, 0, 0xffff, 0x0, 0x0, 0x0, 2, false⟩,
   ⟨0x110, 0x40, 16, 0x0, 0, 0x7ff, 0x800, 0x0, 0x4, 2, false⟩,
   ⟨0x114, 0x40, 16, 0x0, 0, 0xffff, 0x0, 0x0, 0x0, 2, false⟩,
   ⟨0x118, 0x40, 16, 0x0, 0, 0x0, 0x0, 0x0, 0x0, 2, false⟩,
   ⟨0x11c, 0x40, 16, 0x0, 0, 0x0, 0x0, 0x0, 0x0, 2, false⟩,
   ⟨0x120, 0x40, 16, 0x0, 0, 0xffff, 0x0, 0x0, 0x0, 2, false⟩,
   ⟨0x800, 0x40, 8, 0x0, 0, 0x0, 0x0, 0xff00000, 0x0, 0, false⟩,
   ⟨0x810, 0x40, 8, 0x0, 0, 0x0, 0x0, 0xffff0000, 0x0, 0, false⟩,
   ⟨0xa00, 0x20, 8, 0x0, 0, 0x0, 0xffffff, 0x0, 0x0, 1, false⟩,
   ⟨0xa04, 0x20, 8, 0x0, 0, 0xffffff, 0x0, 0x0, 0x0, 1, false⟩,
   ⟨0xa08, 0x20, 8, 0x0, 0, 0x3f, 0x0, 0x0, 0x0, 1, false⟩,
   ⟨0xa0c, 0x20, 8, 0x0, 0, 0xffffffff, 0x0, 0x0, 0x0, 1, false⟩,
   ⟨0xa10, 0x20, 8, 0x0, 0, 0xffffffff, 0x0, 0x0, 0x0, 1, false⟩,
   ⟨0xa14, 0x20, 8, 0x0, 0, 0xffff, 0x0, 0x0, 0x0, 1, false⟩,
   ⟨0xb00, 0x4, 3, 0x0, 0, 0xffffffff, 0x0, 0x0, 0x0, 1, false⟩,
   ⟨0x40010, 0x0, 0, 0x0, 0, 0x0, 0x0, 0x0, 0x0, 1, false⟩,
   ⟨0x40014, 0x4, 4, 0x0, 0, 0xffffffff, 0x0, 0x0, 0x0, 1, false⟩,
   ⟨0x40028, 0x0, 0, 0x0, 0, 0xffffffff, 0x0, 0x0, 0x0, 1, false⟩,
   ⟨0x4002c, 0x0, 0, 0x0, 0, 0xffff, 0x0, 0x0, 0x0, 1, false⟩,
   ⟨0x40030, 0x0, 0, 0x0, 0, 0xffffffff, 0x0, 0x0, 0x0, 1, false⟩,
   ⟨0x40034, 0x0, 0, 0x0, 0, 0xffff, 0x0, 0x0, 0x0, 1, false⟩,
   ⟨0x40038, 0x0, 0, 0x0, 0, 0xffffffff, 0x0, 0x0, 0x0, 1, false⟩,
   ⟨0x4003c, 0x0, 0, 0x0, 0, 0x0, 0x0, 0x0, 0x0, 1, false⟩,
   ⟨0x40040, 0x0, 0, 0x0, 0, 0xffff0001, 0x0, 0x0, 0x1cb70001, 1, false⟩,
   ⟨0x40044, 0x0, 0, 0x0, 0, 0xffffffff, 0x0, 0x0, 0x7d04042, 1, false⟩,
   ⟨0x40048, 0x0, 0, 0x0, 0, 0xffffffff, 0x0, 0x0, 0x186a0, 1, false⟩,
   ⟨0x40060, 0x0, 0, 0x0, 0, 0x0, 0x1f, 0x0, 0x0, 0, false⟩]

/-- The registers outside the room slices, by control-window offset (R14), part 3. -/
def hubRegs2 : List RegRow :=
  [⟨0x40100, 0x4, 16, 0x0, 0, 0x9fffffff, 0x0, 0x0, 0x0, 1, false⟩,
   ⟨0x40200, 0x0, 0, 0x0, 0, 0x1ffff, 0x0, 0x0, 0x0, 0, false⟩,
   ⟨0x50000, 0x0, 0, 0x0, 0, 0x0, 0x0, 0x0, 0x0, 1, false⟩,
   ⟨0x50004, 0x0, 0, 0x0, 0, 0xffffff01, 0x0, 0x0, 0x643200, 1, false⟩,
   ⟨0x50008, 0x0, 0, 0x0, 0, 0x7ff, 0x0, 0x0, 0x12c, 1, false⟩,
   ⟨0x5000c, 0x0, 0, 0x0, 0, 0xffffff, 0x0, 0x0, 0x0, 1, false⟩,
   ⟨0x50010, 0x0, 0, 0x0, 0, 0xffffffff, 0x0, 0x0, 0x1f456000, 1, false⟩,
   ⟨0x50014, 0x0, 0, 0x0, 0, 0xffffffff, 0x0, 0x0, 0x0, 1, false⟩,
   ⟨0x50018, 0x0, 0, 0x0, 0, 0xffffff, 0x0, 0x0, 0x735a69, 1, false⟩,
   ⟨0x5001c, 0x0, 0, 0x0, 0, 0xff, 0x0, 0x0, 0x4, 1, false⟩,
   ⟨0x50020, 0x0, 0, 0x0, 0, 0xffff, 0x0, 0x0, 0x600, 1, false⟩,
   ⟨0x50024, 0x0, 0, 0x0, 0, 0x0, 0x3f, 0x0, 0x0, 1, false⟩,
   ⟨0x50030, 0x0, 0, 0x0, 0, 0x0, 0x0, 0x0, 0x0, 1, false⟩,
   ⟨0x50034, 0x0, 0, 0x0, 0, 0x0, 0x0, 0x0, 0x0, 1, false⟩,
   ⟨0x50040, 0x4, 4, 0x0, 0, 0x0, 0x0, 0x0, 0x0, 1, false⟩,
   ⟨0x50100, 0x8, 32, 0x0, 0, 0x4, 0x0, 0x0, 0x0, 1, false⟩,
   ⟨0x50104, 0x8, 32, 0x0, 0, 0x0, 0x0, 0xffffe000, 0x0, 1, false⟩,
   ⟨0x60004, 0x0, 0, 0x0, 0, 0xffffff, 0x0, 0x0, 0x494, 0, false⟩,
   ⟨0x60400, 0x0, 0, 0x0, 0, 0xffffffff, 0x0, 0x0, 0x0, 0, false⟩,
   ⟨0x60404, 0x0, 0, 0x0, 0, 0xffff, 0x0, 0x0, 0x0, 0, false⟩,
   ⟨0x60408, 0x0, 0, 0x0, 0, 0xffff07ff, 0x0, 0x0, 0x400, 0, false⟩,
   ⟨0x60410, 0x0, 0, 0x0, 0, 0xffff, 0x0, 0x0, 0x0, 0, false⟩,
   ⟨0x60414, 0x0, 0, 0x0, 0, 0x0, 0x0, 0xffffffff, 0x0, 0, false⟩,
   ⟨0x70000, 0x0, 0, 0x0, 0, 0xff, 0x0, 0x0, 0x0, 1, false⟩,
   ⟨0x70004, 0x0, 0, 0x0, 0, 0x0, 0x3, 0x0, 0x0, 1, false⟩,
   ⟨0x70100, 0x40, 32, 0x0, 0, 0x1, 0x8, 0x0, 0x0, 1, false⟩,
   ⟨0x70108, 0x40, 32, 0x8, 4, 0xffffffff, 0x0, 0x0, 0x0, 1, false⟩,
   ⟨0x7010c, 0x40, 32, 0x8, 4, 0x7, 0x0, 0x0, 0x0, 1, false⟩,
   ⟨0x70900, 0x0, 0, 0x0, 0, 0x7fff, 0x0, 0x0, 0x0, 1, false⟩,
   ⟨0x70908, 0x0, 0, 0x0, 0, 0xffffffff, 0x0, 0x0, 0x0, 1, false⟩,
   ⟨0x7090c, 0x0, 0, 0x0, 0, 0xffffffff, 0x0, 0x0, 0x0, 1, false⟩,
   ⟨0x70a00, 0x0, 0, 0x0, 0, 0x1fffff, 0x0, 0x0, 0x0, 1, false⟩,
   ⟨0x70a04, 0x0, 0, 0x0, 0, 0xffffffff, 0x0, 0x0, 0x0, 1, false⟩,
   ⟨0x70a08, 0x0, 0, 0x0, 0, 0x0, 0x0, 0x0, 0x0, 1, false⟩,
   ⟨0x70b00, 0x8, 16, 0x0, 0, 0x0, 0x0, 0x0, 0x0, 1, false⟩,
   ⟨0x70b04, 0x8, 16, 0x0, 0, 0x0, 0x0, 0x0, 0x0, 1, false⟩,
   ⟨0x70c00, 0x0, 0, 0x0, 0, 0x3f, 0x0, 0xffff0000, 0x3e, 1, false⟩,
   ⟨0x300c0, 0x0, 0, 0x0, 0, 0xff, 0x0, 0x0, 0x28, 0, false⟩,
   ⟨0x300d0, 0x4, 4, 0x0, 0, 0x0, 0x30000, 0xffff, 0x0, 0, false⟩]

/-- The registers outside the room slices, by control-window offset (R14). -/
def hubRegs : List RegRow := hubRegs0 ++ hubRegs1 ++ hubRegs2

/-- Base of a physical room's slice (R14). -/
def roomBase (r : RoomId) : Nat := 0x100000 + r.val * 0x40000

/-- Whether an offset lies in a room's slice, and the room and the offset in it (R14, R15). -/
def roomOfOffset (off : Nat) : Option (RoomId × Nat) :=
  if 0x100000 ≤ off ∧ off < 0x900000 then some (Fin.ofNat 32 ((off - 0x100000) / 0x40000), (off - 0x100000) % 0x40000)
  else none

/-- The table's row for a window offset. -/
def regRow (off : Nat) : RegRow :=
  match roomOfOffset off with
  | some (_, o) => (roomRegs.find? (fun w => w.covers o)).getD .plain
  | none => (hubRegs.find? (fun w => w.covers off)).getD .plain

/-- Window offsets lie below 2^24; a per-context register's key adds 2^24 × (context + 1). -/
def ctxKey (c : Ctx) (off : Nat) : Nat := off + (c.val + 1) * 0x1000000

/-- The reset value of the word at a key (R9). -/
def regReset (k : Nat) : Word := BitVec.ofNat 32 (regRow (k % 0x1000000)).reset

/-- The word held at a key. -/
def State.reg (s : State) (k : Nat) : Word := sget (regReset k) s.regs k

/-- Sets the word at a key. -/
def State.setReg (s : State) (k : Nat) (v : Word) : State := { s with regs := sset (regReset k) s.regs k v }

/-- Bits [lo+w-1:lo] of a register. -/
def State.fld (s : State) (k lo w : Nat) : Nat := bitsOf (s.reg k).toNat lo w

/-- Sets bits [lo+w-1:lo] of a register. -/
def State.setFld (s : State) (k lo w v : Nat) : State :=
  s.setReg k (BitVec.ofNat 32 (setBits (s.reg k).toNat lo w v))

/-- Sets bits of a sticky register. -/
def State.orReg (s : State) (k v : Nat) : State := s.setReg k (s.reg k ||| BitVec.ofNat 32 v)

/-- Adds to a field, saturating at its width. -/
def State.satFld (s : State) (k lo w n : Nat) : State := s.setFld k lo w (satAdd (2 ^ w - 1) (s.fld k lo w) n)

/-- A 64-bit register, low word first (R8). -/
def State.reg64 (s : State) (k : Nat) : Nat := (s.reg k).toNat + 2 ^ 32 * (s.reg (k + 4)).toNat

/-- Sets a 64-bit register. -/
def State.setReg64 (s : State) (k v : Nat) : State :=
  (s.setReg k (BitVec.ofNat 32 v)).setReg (k + 4) (BitVec.ofNat 32 (v / 2 ^ 32))

/-- Adds to a 64-bit counter, wrapping. -/
def State.count64 (s : State) (k n : Nat) : State := s.setReg64 k ((s.reg64 k + n) % 2 ^ 64)

/-- A room's register. -/
def rreg (r : RoomId) (off : Nat) : Nat := roomBase r + off

/-- FL_STATUS -/
abbrev Reg.flStatus : Nat := 0x4000
/-- FL_CTL -/
abbrev Reg.flCtl : Nat := 0x4004
/-- FL_CREDIT -/
abbrev Reg.flCredit : Nat := 0x4008
/-- FL_MODE -/
abbrev Reg.flMode : Nat := 0x400c
/-- FL_EVENT -/
abbrev Reg.flEvent : Nat := 0x4010
/-- FL_PASSES -/
abbrev Reg.flPasses : Nat := 0x4020
/-- FL_ROWS_FED -/
abbrev Reg.flRowsFed : Nat := 0x4028
/-- FL_ROWS_COMPACTED -/
abbrev Reg.flRowsCompacted : Nat := 0x4030
/-- FL_BUBBLE_DRY -/
abbrev Reg.flBubbleDry : Nat := 0x4038
/-- FL_BUBBLE_CREDIT -/
abbrev Reg.flBubbleCredit : Nat := 0x4040
/-- FL_SLOTn -/
abbrev Reg.flSlotn : Nat := 0x4080
/-- ROOM_NUM_STATUS -/
abbrev Reg.roomNumStatus : Nat := 0x400
/-- ROOM_EXC_CTL -/
abbrev Reg.roomExcCtl : Nat := 0x404
/-- ROOM_EXC_INFO -/
abbrev Reg.roomExcInfo : Nat := 0x408
/-- ROOM_EXC_ROW -/
abbrev Reg.roomExcRow : Nat := 0x40c
/-- ROOM_EXC_K -/
abbrev Reg.roomExcK : Nat := 0x410
/-- ROOM_EXC_PC -/
abbrev Reg.roomExcPc : Nat := 0x414
/-- ROOM_EXC_COUNT -/
abbrev Reg.roomExcCount : Nat := 0x418
/-- SC_STATUS -/
abbrev Reg.scStatus : Nat := 0x8000
/-- SC_CTL -/
abbrev Reg.scCtl : Nat := 0x8004
/-- SC_FOLD -/
abbrev Reg.scFold : Nat := 0x8008
/-- SC_EVENT -/
abbrev Reg.scEvent : Nat := 0x800c
/-- SC_IMPORT_STATUS -/
abbrev Reg.scImportStatus : Nat := 0x8010
/-- SC_UPDATES -/
abbrev Reg.scUpdates : Nat := 0x8020
/-- SC_RESIDUE_SAT -/
abbrev Reg.scResidueSat : Nat := 0x8028
/-- SC_RESETS -/
abbrev Reg.scResets : Nat := 0x8030
/-- SC_FOLDS -/
abbrev Reg.scFolds : Nat := 0x8038
/-- LM_STATUS -/
abbrev Reg.lmStatus : Nat := 0xc000
/-- LM_CTL -/
abbrev Reg.lmCtl : Nat := 0xc004
/-- LM_EVENT -/
abbrev Reg.lmEvent : Nat := 0xc008
/-- LM_LOOKUPS -/
abbrev Reg.lmLookups : Nat := 0xc020
/-- LM_FLUSHES -/
abbrev Reg.lmFlushes : Nat := 0xc028
/-- LM_TBLt -/
abbrev Reg.lmTblt : Nat := 0xc040
/-- PA_STATUS -/
abbrev Reg.paStatus : Nat := 0x14000
/-- PA_CTL -/
abbrev Reg.paCtl : Nat := 0x14004
/-- PA_EVENT -/
abbrev Reg.paEvent : Nat := 0x14008
/-- PA_KEYS -/
abbrev Reg.paKeys : Nat := 0x14020
/-- PA_PAGES -/
abbrev Reg.paPages : Nat := 0x14028
/-- PA_PAGES_SKIPPED -/
abbrev Reg.paPagesSkipped : Nat := 0x14030
/-- PA_EVICTIONS -/
abbrev Reg.paEvictions : Nat := 0x14038
/-- PA_EXPIRED -/
abbrev Reg.paExpired : Nat := 0x1403c
/-- PA_FLOOR_BELOW -/
abbrev Reg.paFloorBelow : Nat := 0x14040
/-- PA_EMPTY_ROWS -/
abbrev Reg.paEmptyRows : Nat := 0x14044
/-- DW_STATUS -/
abbrev Reg.dwStatus : Nat := 0x10000
/-- DW_CTL -/
abbrev Reg.dwCtl : Nat := 0x10004
/-- DW_CHn_STATUS -/
abbrev Reg.dwChnStatus : Nat := 0x10010
/-- DW_TAGS -/
abbrev Reg.dwTags : Nat := 0x10020
/-- DW_RTT_MAX -/
abbrev Reg.dwRttMax : Nat := 0x10024
/-- DW_READ_BYTES -/
abbrev Reg.dwReadBytes : Nat := 0x10030
/-- DW_WRITE_BYTES -/
abbrev Reg.dwWriteBytes : Nat := 0x10038
/-- ROOM_ECC_CTL -/
abbrev Reg.roomEccCtl : Nat := 0x500
/-- ROOM_ECC_CORR -/
abbrev Reg.roomEccCorr : Nat := 0x504
/-- ROOM_ECC_ADDR -/
abbrev Reg.roomEccAddr : Nat := 0x508
/-- HALL_MCAST_GROUPg -/
abbrev Reg.hallMcastGroupg : Nat := 0x30040
/-- HALL_MCAST_CTL -/
abbrev Reg.hallMcastCtl : Nat := 0x30080
/-- HALL_MCAST_DETACH -/
abbrev Reg.hallMcastDetach : Nat := 0x30084
/-- HALL_LAT_BOUND -/
abbrev Reg.hallLatBound : Nat := 0x30088
/-- HALL_PORTk_RTT_MAX -/
abbrev Reg.hallPortkRttMax : Nat := 0x300a0
/-- HALL_PORTk_LAT_OVER -/
abbrev Reg.hallPortkLatOver : Nat := 0x300a4
/-- HALL_PANTRY_ECC_CTL -/
abbrev Reg.hallPantryEccCtl : Nat := 0x30100
/-- HALL_PANTRY_ECC_CORR -/
abbrev Reg.hallPantryEccCorr : Nat := 0x30104
/-- HALL_PANTRY_ECC_ADDR -/
abbrev Reg.hallPantryEccAddr : Nat := 0x30108
/-- HALL_POOL -/
abbrev Reg.hallPool : Nat := 0x30110
/-- HALL_POOL_DENIED -/
abbrev Reg.hallPoolDenied : Nat := 0x30114
/-- LAND_STATUS -/
abbrev Reg.landStatus : Nat := 0x10000
/-- LAND_FREE_WORDS -/
abbrev Reg.landFreeWords : Nat := 0x10004
/-- LAND_BAR_PORCH -/
abbrev Reg.landBarPorch : Nat := 0x10040
/-- LAND_BARn_MEMBERS -/
abbrev Reg.landBarnMembers : Nat := 0x10100
/-- LAND_BARn_EPOCH -/
abbrev Reg.landBarnEpoch : Nat := 0x10108
/-- LAND_BARn_WDOG -/
abbrev Reg.landBarnWdog : Nat := 0x1010c
/-- LAND_BARn_PENDING -/
abbrev Reg.landBarnPending : Nat := 0x10110
/-- LAND_H_SIGNAL -/
abbrev Reg.landHSignal : Nat := 0x11000
/-- LAND_H_ADD -/
abbrev Reg.landHAdd : Nat := 0x11004
/-- LAND_H_SET -/
abbrev Reg.landHSet : Nat := 0x11008
/-- LAND_H_STATUS -/
abbrev Reg.landHStatus : Nat := 0x1100c
/-- LAND_H_BIND_VALUE -/
abbrev Reg.landHBindValue : Nat := 0x11010
/-- LAND_H_BIND -/
abbrev Reg.landHBind : Nat := 0x11014
/-- LAND_H_BIND_STATUS -/
abbrev Reg.landHBindStatus : Nat := 0x11018
/-- LAND_H_UNBIND -/
abbrev Reg.landHUnbind : Nat := 0x1101c
/-- LAND_H_WORDh -/
abbrev Reg.landHWordh : Nat := 0x14000
/-- LAND_H_WSLOTs_THRESH -/
abbrev Reg.landHWslotsThresh : Nat := 0x16000
/-- LAND_H_WSLOTs_CTL -/
abbrev Reg.landHWslotsCtl : Nat := 0x16004
/-- LAND_H_WSLOTs_STATUS -/
abbrev Reg.landHWslotsStatus : Nat := 0x16008
/-- LAND_H_WSLOTs_VALUE -/
abbrev Reg.landHWslotsValue : Nat := 0x1600c
/-- LAND_H_WSLOTs_MSG -/
abbrev Reg.landHWslotsMsg : Nat := 0x16010
/-- LAND_WAKES -/
abbrev Reg.landWakes : Nat := 0x18000
/-- LAND_ABANDON_DROPS -/
abbrev Reg.landAbandonDrops : Nat := 0x18008
/-- LAND_SAT_EVENTS -/
abbrev Reg.landSatEvents : Nat := 0x1800c
/-- LAND_REHOME_MISS -/
abbrev Reg.landRehomeMiss : Nat := 0x18010
/-- THR_STATUS -/
abbrev Reg.thrStatus : Nat := 0x20000
/-- THR_CTL -/
abbrev Reg.thrCtl : Nat := 0x20004
/-- THR_PORT_BUDGET -/
abbrev Reg.thrPortBudget : Nat := 0x20008
/-- THR_PORT_CLAIMED -/
abbrev Reg.thrPortClaimed : Nat := 0x2000c
/-- THR_SHED_BULK -/
abbrev Reg.thrShedBulk : Nat := 0x20010
/-- THR_SHED_BG -/
abbrev Reg.thrShedBg : Nat := 0x20014
/-- THR_SHED_HOLD -/
abbrev Reg.thrShedHold : Nat := 0x20018
/-- THR_PLACE -/
abbrev Reg.thrPlace : Nat := 0x2001c
/-- THR_FENCE -/
abbrev Reg.thrFence : Nat := 0x20020
/-- THR_UNFENCE -/
abbrev Reg.thrUnfence : Nat := 0x20024
/-- THR_READMIT -/
abbrev Reg.thrReadmit : Nat := 0x20028
/-- THR_FENCE_CTL -/
abbrev Reg.thrFenceCtl : Nat := 0x2002c
/-- THR_EVENT -/
abbrev Reg.thrEvent : Nat := 0x20030
/-- THR_CLASSc_CFG -/
abbrev Reg.thrClasscCfg : Nat := 0x20040
/-- THR_CLASSc_BUCKET -/
abbrev Reg.thrClasscBucket : Nat := 0x20044
/-- THR_CLASSc_PENDING -/
abbrev Reg.thrClasscPending : Nat := 0x20048
/-- THR_CLASSc_SHED -/
abbrev Reg.thrClasscShed : Nat := 0x2004c
/-- THR_LIVE -/
abbrev Reg.thrLive : Nat := 0x20100
/-- THR_MISS -/
abbrev Reg.thrMiss : Nat := 0x20104
/-- THR_LARDER -/
abbrev Reg.thrLarder : Nat := 0x20108
/-- THR_MOVES -/
abbrev Reg.thrMoves : Nat := 0x2010c
/-- THR_WIN_GRACE -/
abbrev Reg.thrWinGrace : Nat := 0x20110
/-- THR_TIMEBASE -/
abbrev Reg.thrTimebase : Nat := 0x20118
/-- THR_CMD -/
abbrev Reg.thrCmd : Nat := 0x21000
/-- THR_CMD_ARGa -/
abbrev Reg.thrCmdArga : Nat := 0x21004
/-- THR_CMD_STATUS -/
abbrev Reg.thrCmdStatus : Nat := 0x21014
/-- THR_FEED -/
abbrev Reg.thrFeed : Nat := 0x21018
/-- THR_FEED_STATUS -/
abbrev Reg.thrFeedStatus : Nat := 0x2101c
/-- THR_LEDGER_SEL -/
abbrev Reg.thrLedgerSel : Nat := 0x22000
/-- THR_LEDGER_DATAw -/
abbrev Reg.thrLedgerDataw : Nat := 0x22100
/-- ROOM_STEW_STATUS -/
abbrev Reg.roomStewStatus : Nat := 0x0
/-- ROOM_STEW_PC -/
abbrev Reg.roomStewPc : Nat := 0x4
/-- ROOM_TALLYq -/
abbrev Reg.roomTallyq : Nat := 0x10
/-- ROOM_MAPi -/
abbrev Reg.roomMapi : Nat := 0x100
/-- ROOM_CHMAP -/
abbrev Reg.roomChmap : Nat := 0x180
/-- ROOM_GRPMAP -/
abbrev Reg.roomGrpmap : Nat := 0x188
/-- ROOM_GRPVALID -/
abbrev Reg.roomGrpvalid : Nat := 0x190
/-- PORCH_PRESENCE -/
abbrev Reg.porchPresence : Nat := 0x0
/-- PORCH_STATUS -/
abbrev Reg.porchStatus : Nat := 0x4
/-- PORCH_ROOMS_OK -/
abbrev Reg.porchRoomsOk : Nat := 0x8
/-- PORCH_WARM_RESET -/
abbrev Reg.porchWarmReset : Nat := 0x10
/-- PORCH_CTX_RESET -/
abbrev Reg.porchCtxReset : Nat := 0x14
/-- PORCH_RECOVERY -/
abbrev Reg.porchRecovery : Nat := 0x18
/-- PORCH_RESTART_LIMIT -/
abbrev Reg.porchRestartLimit : Nat := 0x1c
/-- PORCH_FLOG_BASE -/
abbrev Reg.porchFlogBase : Nat := 0x20
/-- PORCH_FLOG_CFG -/
abbrev Reg.porchFlogCfg : Nat := 0x28
/-- PORCH_FLOG_HEAD -/
abbrev Reg.porchFlogHead : Nat := 0x2c
/-- PORCH_Qq_SBASE -/
abbrev Reg.porchQqSbase : Nat := 0x100
/-- PORCH_Qq_CBASE -/
abbrev Reg.porchQqCbase : Nat := 0x108
/-- PORCH_Qq_CFG -/
abbrev Reg.porchQqCfg : Nat := 0x110
/-- PORCH_Qq_TAIL -/
abbrev Reg.porchQqTail : Nat := 0x114
/-- PORCH_Qq_HEAD -/
abbrev Reg.porchQqHead : Nat := 0x118
/-- PORCH_Qq_CTAIL -/
abbrev Reg.porchQqCtail : Nat := 0x11c
/-- PORCH_Qq_CHEAD -/
abbrev Reg.porchQqChead : Nat := 0x120
/-- PORCH_JOBj_STATUS -/
abbrev Reg.porchJobjStatus : Nat := 0x800
/-- PORCH_JOBj_NUMBER -/
abbrev Reg.porchJobjNumber : Nat := 0x804
/-- PORCH_JOBj_STEP -/
abbrev Reg.porchJobjStep : Nat := 0x808
/-- PORCH_JOBj_RESTART_US -/
abbrev Reg.porchJobjRestartUs : Nat := 0x810
/-- PORCH_JOBj_REPLAY -/
abbrev Reg.porchJobjReplay : Nat := 0x814
/-- PORCH_IRQv_STATUS -/
abbrev Reg.porchIrqvStatus : Nat := 0xa00
/-- PORCH_IRQv_ENABLE -/
abbrev Reg.porchIrqvEnable : Nat := 0xa04
/-- PORCH_IRQv_CFG -/
abbrev Reg.porchIrqvCfg : Nat := 0xa08
/-- PORCH_IRQv_DATA -/
abbrev Reg.porchIrqvData : Nat := 0xa0c
/-- PORCH_IRQv_ADDR -/
abbrev Reg.porchIrqvAddr : Nat := 0xa10
/-- PORCH_IRQ_ROUTEi -/
abbrev Reg.porchIrqRoutei : Nat := 0xb00
/-- CEL_STATUS -/
abbrev Reg.celStatus : Nat := 0x40000
/-- CEL_PART -/
abbrev Reg.celPart : Nat := 0x40004
/-- CEL_TIMES -/
abbrev Reg.celTimes : Nat := 0x40008
/-- CEL_CMD -/
abbrev Reg.celCmd : Nat := 0x40010
/-- CEL_CMD_ARGa -/
abbrev Reg.celCmdArga : Nat := 0x40014
/-- CEL_CMD_STATUS -/
abbrev Reg.celCmdStatus : Nat := 0x40024
/-- CEL_BUF -/
abbrev Reg.celBuf : Nat := 0x40028
/-- CEL_TABLE_BASE -/
abbrev Reg.celTableBase : Nat := 0x40030
/-- CEL_WALLCLOCK -/
abbrev Reg.celWallclock : Nat := 0x40038
/-- CEL_SCRUB -/
abbrev Reg.celScrub : Nat := 0x40040
/-- CEL_HEALTH_CFG -/
abbrev Reg.celHealthCfg : Nat := 0x40044
/-- CEL_KS -/
abbrev Reg.celKs : Nat := 0x40050
/-- CEL_WEAR -/
abbrev Reg.celWear : Nat := 0x40054
/-- CEL_MOUNT_INFO -/
abbrev Reg.celMountInfo : Nat := 0x4005c
/-- CEL_EVENT -/
abbrev Reg.celEvent : Nat := 0x40060
/-- CEL_RETRIES -/
abbrev Reg.celRetries : Nat := 0x40064
/-- CEL_MARGINi -/
abbrev Reg.celMargini : Nat := 0x40100
/-- CEL_HEALTH_SEL -/
abbrev Reg.celHealthSel : Nat := 0x40200
/-- CEL_HEALTH_DATAw -/
abbrev Reg.celHealthDataw : Nat := 0x40210
/-- CHIM_STATUS -/
abbrev Reg.chimStatus : Nat := 0x50000
/-- CHIM_CTL -/
abbrev Reg.chimCtl : Nat := 0x50004
/-- CHIM_FLOOR -/
abbrev Reg.chimFloor : Nat := 0x50008
/-- CHIM_PI -/
abbrev Reg.chimPi : Nat := 0x5000c
/-- CHIM_SKIN -/
abbrev Reg.chimSkin : Nat := 0x50010
/-- CHIM_SKIN_PI -/
abbrev Reg.chimSkinPi : Nat := 0x50014
/-- CHIM_THERM -/
abbrev Reg.chimTherm : Nat := 0x50018
/-- CHIM_BIAS -/
abbrev Reg.chimBias : Nat := 0x5001c
/-- CHIM_PACE -/
abbrev Reg.chimPace : Nat := 0x50020
/-- CHIM_EVENT -/
abbrev Reg.chimEvent : Nat := 0x50024
/-- CHIM_ENERGY -/
abbrev Reg.chimEnergy : Nat := 0x50030
/-- CHIM_GROUPg -/
abbrev Reg.chimGroupg : Nat := 0x50040
/-- CHIM_ROOMn_CTL -/
abbrev Reg.chimRoomnCtl : Nat := 0x50100
/-- CHIM_ROOMn_STAT -/
abbrev Reg.chimRoomnStat : Nat := 0x50104
/-- WIN_CTL -/
abbrev Reg.winCtl : Nat := 0x18000
/-- WIN_CYCLES -/
abbrev Reg.winCycles : Nat := 0x18008
/-- WIN_SELn -/
abbrev Reg.winSeln : Nat := 0x18010
/-- WIN_CNTn -/
abbrev Reg.winCntn : Nat := 0x18040
/-- WIN_OVF -/
abbrev Reg.winOvf : Nat := 0x18080
/-- WIN_SAMP_CTL -/
abbrev Reg.winSampCtl : Nat := 0x18090
/-- WIN_SAMP_STATUS -/
abbrev Reg.winSampStatus : Nat := 0x18094
/-- WIN_SAMPi -/
abbrev Reg.winSampi : Nat := 0x18400
/-- WIN_SNAP -/
abbrev Reg.winSnap : Nat := 0x60000
/-- WIN_METER_CTL -/
abbrev Reg.winMeterCtl : Nat := 0x60004
/-- WIN_PORTk_RD -/
abbrev Reg.winPortkRd : Nat := 0x60010
/-- WIN_PORTk_WR -/
abbrev Reg.winPortkWr : Nat := 0x60014
/-- WIN_LINKi_Dd -/
abbrev Reg.winLinkiDd : Nat := 0x60100
/-- WIN_DUMP_BASE -/
abbrev Reg.winDumpBase : Nat := 0x60400
/-- WIN_DUMP_CTL -/
abbrev Reg.winDumpCtl : Nat := 0x60408
/-- WIN_DUMP_PROD -/
abbrev Reg.winDumpProd : Nat := 0x6040c
/-- WIN_DUMP_CONS -/
abbrev Reg.winDumpCons : Nat := 0x60410
/-- WIN_DUMP_STATUS -/
abbrev Reg.winDumpStatus : Nat := 0x60414
/-- STUDY_DBG_JOBS -/
abbrev Reg.studyDbgJobs : Nat := 0x70000
/-- STUDY_EVENT -/
abbrev Reg.studyEvent : Nat := 0x70004
/-- STUDY_ROOMn_RUN -/
abbrev Reg.studyRoomnRun : Nat := 0x70100
/-- STUDY_ROOMn_BPb -/
abbrev Reg.studyRoomnBpb : Nat := 0x70108
/-- STUDY_REG_SEL -/
abbrev Reg.studyRegSel : Nat := 0x70900
/-- STUDY_REG_DATA -/
abbrev Reg.studyRegData : Nat := 0x70908
/-- STUDY_SYNC_SEL -/
abbrev Reg.studySyncSel : Nat := 0x70a00
/-- STUDY_SYNC_VALUE -/
abbrev Reg.studySyncValue : Nat := 0x70a04
/-- STUDY_SYNC_GO -/
abbrev Reg.studySyncGo : Nat := 0x70a08
/-- STUDY_LOGi -/
abbrev Reg.studyLogi : Nat := 0x70b00
/-- STUDY_TRACE_CTL -/
abbrev Reg.studyTraceCtl : Nat := 0x70c00
/-- HALL_QOS -/
abbrev Reg.hallQos : Nat := 0x300c0
/-- HALL_PORTk_PROTO -/
abbrev Reg.hallPortkProto : Nat := 0x300d0

end Sys2Proof.Machine
end

