-- ==== Sys2Proof/Machine/Dram.lean ====
section
/-! DEFINITION. DRAM (08_memory_movement.md, R188): lines and ports, line writes, and the hub's own accesses, whose writes wait for
tags like a room's (R353, R364, R368, log entry 110). -/

namespace Sys2Proof.Machine

/-! ## Lines -/

/-- The DRAM line size (R188). -/
def lineBytes : Nat := 128
/-- The port of a line: A[8:7] exclusive-or A[13:12] (R188). -/
def linePort (line : Nat) : Fin 4 := Fin.ofNat 4 (line % 4 ^^^ line / 32 % 4)
/-- Reduces a DRAM address to 48 bits (R188). -/
def dramAddr (a : Int) : Nat := wrapTo a 48
/-- The lines that `n` bytes at an address touch. -/
def linesOf (a n : Nat) : List Nat :=
  if n = 0 then [] else (List.range ((a + n - 1) / lineBytes + 1 - a / lineBytes)).map (fun i => (a / lineBytes + i) % 2 ^ 41)

/-- The line writes of bytes at a DRAM address, cut at 128 B (R188). -/
def lineWrites (a : Nat) (bs : List Byte) : List LineWrite :=
  let first := a / lineBytes
  let all := List.replicate (a % lineBytes) none ++ bs.map some
  (chunksOf lineBytes all).zipIdx.map (fun p =>
    ⟨(first + p.2) % 2 ^ 41, p.1 ++ List.replicate (lineBytes - p.1.length) none⟩)

/-- The bytes that a line write enables, by their keys in a context (R188, R365). -/
def LineWrite.cells (c : Nat) (w : LineWrite) : List (Nat × Byte) :=
  w.bytes.zipIdx.filterMap (fun b => b.1.map (fun v => (ctxBase c + lineBytes * w.line + b.2, v)))

/-! ## The hub -/

/-- The hub's line writes that have a tag and no response yet. -/
def State.hubFlight (s : State) : List HubWrite :=
  s.ports.toList.flatMap (fun p => (p.writes.filter (fun t => t.room.isNone)).map (fun t => ⟨t.ctx, ⟨t.line, t.bytes⟩⟩))

/-- DRAM as the hub reads it: its own writes on their way are seen (log entry 110). -/
def State.hubDram (s : State) : Memory := (s.hubFlight ++ s.hubWrites).foldl (fun d h => d.putCells (h.w.cells h.ctx)) s.dram

/-- `n` bytes that the hub reads from a DRAM key upward. -/
def State.dbytes (s : State) (k n : Nat) : List Byte := s.hubDram.dbytes k n

/-- The little-endian number in `n` bytes that the hub reads from a DRAM key upward. -/
def State.dnum (s : State) (k n : Nat) : Nat := natOfBytes (s.dbytes k n)

/-- The hub writes bytes from a DRAM key upward: the line writes wait for their tags (R188, R364). -/
def hubWrite (k : Nat) (bs : List Byte) (s : State) : State :=
  { s with hubWrites := s.hubWrites ++ (lineWrites (k % 2 ^ 48) bs).map (fun w => ⟨k / 2 ^ 64, w⟩) }

/-- The hub's next line write of a port: none while an earlier one of its own to the same line has no response (log entry 110). -/
def hubWanted (s : State) (port : Fin 4) : Option HubWrite :=
  s.hubWrites.find? (fun h => linePort h.w.line == port && !(s.hubFlight.any (fun x => x.ctx == h.ctx && x.w.line == h.w.line)))

/-- Every port holds a read-request credit: until the interconnect has returned its initial ones, the hub reads nothing (R364,
R378, log entry 119). -/
def State.canRead (s : State) : Bool := s.ports.all (fun p => decide (0 < p.creditRq))

end Sys2Proof.Machine
end

