-- ==== Sys2Proof/Machine/Ops.lean ====
section
/-! DEFINITION. The shared operations over the stores and registers: raising a fault (R290), internal addresses
(R17-R21), and accesses to the stores with their error-correcting codes (R177-R180). -/

namespace Sys2Proof.Machine

/-- A fault on its way to be raised: its code and its unit capture (R291). -/
structure Err where
  code : FaultCode
  cap : List Nat := []
  deriving DecidableEq, Repr

/-- An operation that changes the state and may end in a fault of the block. -/
abbrev Op := EStateM Err State

/-- ILLEGAL_INSTRUCTION with a unit capture. -/
def illegal {α : Type} (cap : List Nat := []) : Op α := throw ⟨.illegalInstruction, cap⟩
/-- ADDRESS_FAULT with the internal address in the unit capture. -/
def badAddr {α : Type} (a : Nat) : Op α := throw ⟨.addressFault, [a]⟩

/-- One room. -/
def State.room (s : State) (r : RoomId) : Room := s.rooms.get r

/-- Changes one room. -/
def State.modRoom (s : State) (r : RoomId) (f : Room → Room) : State := { s with rooms := s.rooms.set r (f (s.rooms.get r)) }

/-- Changes one room's Steward. -/
def State.modStew (s : State) (r : RoomId) (f : Stew → Stew) : State :=
  s.modRoom r (fun m => { m with stew := f m.stew })

/-- Takes the next free choice: a number that the implementation fixes and the spec does not (log entry 2). -/
def pickFree (s : State) : Nat × State := (Config.pick s.free, { s with free := s.free + 1 })

/-- One of a list of equally allowed candidates. -/
def pickOf {α : Type} (l : List α) (s : State) : Option α × State :=
  match l with
  | [] => (none, s)
  | [x] => (some x, s)
  | _ => let (n, s') := pickFree s
         (l[n % l.length]?, s')

/-- Adds a fault that has arisen; the Porch takes it with JOB_FAULT (R290). -/
def State.addFault (s : State) (f : FaultEvent) : State := { s with faults := s.faults ++ [f] }

/-- Raises a fault in a room: its Steward issues nothing more (R290, stage 1 for the room itself). -/
def raise (r : RoomId) (pc : Nat) (e : Err) (s : State) : State :=
  let s1 := s.modStew r (fun w => { w with running := false, stall := .none, waiting := .nothing })
  s1.addFault { code := e.code, source := r.val, room := some r, slot := (s.room r).job, ledger := 0xFFFF, pc := pc, capture := e.cap }

/-- Raises a fault of a job that no room's instruction has met: by the Landing 0x21, Threshold 0x22, or the Hall and Pantry 0x23 (R290,
R291). -/
def hubFault (source : Nat) (j : SlotId) (e : Err) (s : State) : State :=
  s.addFault { code := e.code, source := source, room := none, slot := some j, ledger := 0xFFFF, pc := 0xFFFFFFFF, capture := e.cap }

/-- Runs an operation of a room's instruction; a fault of it is raised in the room. -/
def runOp (r : RoomId) (pc : Nat) (m : Op Unit) (s : State) : State :=
  match m s with
  | .ok _ s' => s'
  | .error e s' => raise r pc e s'

/-! ## Internal addresses -/

/-- What an internal address names (R17). -/
inductive Place where
  | room (r : RoomId) (st : Store) (off : Nat)
  | pantry (off : Nat)
  | sync (handle : Nat)
  deriving DecidableEq, Repr

/-- The store of a region of room space (R18). -/
def regionStore : Nat → Option Store
  | 0 => some .shelf | 1 => some .chest | 2 => some .lamp | 3 => some .parlour
  | _ => none

/-- Size of a store in bytes (R18, R21, R175). -/
def Store.size : Store → Nat
  | .shelf => 0x100000 | .chest => 0x80000 | .lamp => 0x4000 | .parlour => 0x10000 | .pantry => 0x800000
  | .icache => 0x10000

/-- The store code of R179. -/
def Store.code : Store → Nat
  | .shelf => 0 | .chest => 1 | .icache => 2 | .lamp => 3 | .parlour => 4 | .pantry => 5

/-- Bank of a word of a store, for the unit capture of R179 (R175). -/
def Store.bank (st : Store) (word : Nat) : Nat :=
  match st with
  | .shelf => bitsOf (word * 8) 6 4
  | .chest => bitsOf (word * 8) 7 3
  | .pantry => bitsOf (word * 8) 6 5
  | _ => 0

/-- Logical rooms of the job that a room runs. -/
def State.logicals (s : State) (r : RoomId) : Nat :=
  match (s.room r).job with
  | some j => (s.jobs.get j).desc.rooms
  | none => 0

/-- The physical room that stands for a logical room in a room's map; one of the job's that no room stands for since its
room was fenced is ROOM_FENCED (R19, R21, R241). -/
def mapRoom (r : RoomId) (logical : Nat) (a : Nat) : Op RoomId := do
  let s ← get
  let w := (s.reg (rreg r Reg.roomMapi + 4 * logical)).toNat
  let p : RoomId := Fin.ofNat 32 (bitsOf w 0 5)
  if s.fenced.getLsbD p.val && (bitAt w 5 || decide (logical < s.logicals r)) then throw ⟨.roomFenced, [p.val]⟩
  else if bitAt w 5 then pure p
  else badAddr a

/-- What `n` bytes at an internal address name, as the issuing room `r` sees it (R17-R21). -/
def decodeAddr (r : RoomId) (a n : Nat) : Op Place := do
  match bitsOf a 30 2 with
  | 0 =>
    match regionStore (bitsOf a 21 4) with
    | none => badAddr a
    | some st =>
      let off := bitsOf a 0 21
      if off + n > st.size then badAddr a
      else
        let p ← mapRoom r (bitsOf a 25 5) a
        pure (.room p st off)
  | 1 =>
    let off := bitsOf a 0 30
    if off + n > Store.pantry.size then badAddr a else pure (.pantry off)
  | 2 => if bitsOf a 13 17 ≠ 0 ∨ bitsOf a 0 3 ≠ 0 then badAddr a else pure (.sync (bitsOf a 3 10))
  | _ => badAddr a

/-- The Keyring entry of a handle in a context: the physical word, when the handle is bound (R20, R224). -/
def State.keyWord (s : State) (c h : Nat) : Option Nat :=
  let e := sget 0 s.land.keyring (c * 1024 + h)
  if bitAt e 14 then some (bitsOf e 0 14) else none

/-! ## The stores -/

/-- The bytes of a store of a room. -/
def Room.mem (m : Room) : Store → Memory
  | .shelf => m.shelf | .chest => m.chest | .lamp => m.lamp | .parlour => m.parlour | .icache => m.icache
  | .pantry => []

/-- Replaces the bytes of a store of a room. -/
def Room.setMem (m : Room) (st : Store) (v : Memory) : Room :=
  match st with
  | .shelf => { m with shelf := v }
  | .chest => { m with chest := v }
  | .lamp => { m with lamp := v }
  | .parlour => { m with parlour := v }
  | .icache => { m with icache := v }
  | .pantry => m

/-- A store of the block: of a room, or the Pantry. -/
def State.mem (s : State) (r : Option RoomId) (st : Store) : Memory :=
  match r with
  | some r => (s.room r).mem st
  | none => s.pantry

/-- Replaces the bytes of a store. -/
def State.setMem (s : State) (r : Option RoomId) (st : Store) (v : Memory) : State :=
  match r with
  | some r => s.modRoom r (fun m => m.setMem st v)
  | none => { s with pantry := v }

/-- The words in error of a store (1 one bit, 2 two bits or more, 3 poisoned), by word. -/
def State.eccOf (s : State) (r : Option RoomId) (st : Store) : List (Nat × Nat) :=
  match r with
  | some r => ((s.room r).ecc.filter (fun e => e.1 == st.code)).map (fun e => e.2)
  | none => s.pantryEcc

/-- Forgets the errors of the words of a store that satisfy a condition: fresh check bits. -/
def State.eccClear (s : State) (r : Option RoomId) (st : Store) (p : Nat → Bool) : State :=
  match r with
  | some r => s.modRoom r (fun m =>
      { m with ecc := m.ecc.filter (fun e => !(e.1 == st.code && p e.2.1)),
               rewrites := m.rewrites.filter (fun e => !(e.1 == st.code && p e.2)) })
  | none => { s with pantryEcc := s.pantryEcc.filter (fun e => !p e.1), pantryRewrites := s.pantryRewrites.filter (fun e => !p e) }

/-- Counts and records one corrected word, and leaves it to be rewritten (R178). -/
def State.corrected (s : State) (r : Option RoomId) (st : Store) (word : Nat) : State :=
  match r with
  | some r =>
    let s1 := s.satFld (rreg r Reg.roomEccCorr) 0 24 1
    let s2 := s1.setReg (rreg r Reg.roomEccAddr) (BitVec.ofNat 32 (1 + 2 * st.code + 16 * word))
    s2.modRoom r (fun m => { m with rewrites := m.rewrites ++ [(st.code, word)], fixes := m.fixes + 1 })
  | none =>
    let s1 := s.satFld Reg.hallPantryEccCorr 0 24 1
    let s2 := s1.setReg Reg.hallPantryEccAddr (BitVec.ofNat 32 (1 + 2 * word))
    { s2 with pantryRewrites := s2.pantryRewrites ++ [word] }

/-- Bytes that a store reads in one cycle of its clock and one bank (R175). -/
def Store.beat : Store → Nat
  | .chest => 128
  | _ => 64

/-- The words in error that a read of `n` bytes meets, in the order of its beats; of one beat the lowest comes last, as the error
registers keep it (R178, log entry 120). -/
def eccHits (s : State) (r : Option RoomId) (st : Store) (off n : Nat) : List (Nat × Nat) :=
  let hit := (s.eccOf r st).filter (fun e => decide (off / 8 ≤ e.1) && decide (e.1 * 8 < off + n))
  sortBy (fun a b => decide (a.1 * 8 / st.beat < b.1 * 8 / st.beat) || (a.1 * 8 / st.beat == b.1 * 8 / st.beat && decide (b.1 ≤ a.1))) hit

/-- A read of `n` bytes meets the store's errors beat by beat: a single one is corrected, another raises SRAM_UNCORRECTABLE for the
lowest such word, once the corrections up to its beat are made (R178, R179). -/
def eccRead (r : Option RoomId) (st : Store) (off n : Nat) : Op Unit := do
  let s ← get
  let hit := eccHits s r st off n
  let fix (l : List (Nat × Nat)) : State := (l.filter (fun e => decide (e.2 < 2))).foldl (fun s e => s.corrected r st e.1) s
  match hit.filter (fun e => decide (2 ≤ e.2)) with
  | [] => set (fix hit)
  | x :: t =>
    let w := t.foldl (fun b e => min b e.1) x.1
    set (fix (hit.filter (fun e => decide (e.1 * 8 / st.beat ≤ w * 8 / st.beat))))
    throw ⟨.sramUncorrectable, [st.code, st.bank w, w]⟩

/-- A write of `n` bytes: the words it covers in part are read and checked first, and every word it touches has fresh
check bits (R177, R180). -/
def eccWrite (r : Option RoomId) (st : Store) (off n : Nat) : Op Unit := do
  if n = 0 then pure ()
  else do
    if off % 8 ≠ 0 then eccRead r st off 1
    if (off + n) % 8 ≠ 0 ∧ (off % 8 = 0 ∨ off / 8 ≠ (off + n - 1) / 8) then eccRead r st (off + n - 1) 1
    modify (fun s =>
      if (s.eccOf r st).isEmpty then s
      else s.eccClear r st (fun w => decide (off / 8 ≤ w) && decide (w * 8 < off + n)))

/-- A write that lands in the active bank of a loadable table sets its write_active (R137, R147). -/
def lampTouched (r : RoomId) (off n : Nat) (s : State) : State :=
  (List.range 8).foldl (fun s t =>
    let k := rreg r Reg.lmTblt + 4 * t
    let b := t * 0x400 + s.fld k 0 1 * 0x200
    if off < b + 0x200 ∧ b < off + n then (s.setFld k 2 1 1).orReg (rreg r Reg.lmEvent) 1 else s) s

/-- Reads `n` bytes of a store. -/
def loadBytes (r : Option RoomId) (st : Store) (off n : Nat) : Op (List Byte) := do
  eccRead r st off n
  pure (((← get).mem r st).bytes off n)

/-- The bytes of a write that a store keeps: the Lamp table region ignores those at 0x2000 and above (R137). -/
def keptBytes (st : Store) (off : Nat) (bs : List Byte) : List Byte :=
  match st with
  | .lamp => bs.take (0x2000 - off)
  | _ => bs

/-- Writes bytes into a store. -/
def storeBytes (r : Option RoomId) (st : Store) (off : Nat) (bs : List Byte) : Op Unit := do
  eccWrite r st off bs.length
  modify (fun s =>
    let s1 := s.setMem r st ((s.mem r st).putBytes off (keptBytes st off bs))
    match r, st with
    | some p, .lamp => lampTouched p off bs.length s1
    | _, _ => s1)

/-- Reads `n` bytes at a place of the stores; sync space has no bytes. -/
def loadPlace (p : Place) (n : Nat) : Op (List Byte) :=
  match p with
  | .room r st off => loadBytes (some r) st off n
  | .pantry off => loadBytes none .pantry off n
  | .sync h => badAddr (0x80000000 + 8 * h)

/-- Writes bytes at a place of the stores. -/
def storePlace (p : Place) (bs : List Byte) : Op Unit :=
  match p with
  | .room r st off => storeBytes (some r) st off bs
  | .pantry off => storeBytes none .pantry off bs
  | .sync h => badAddr (0x80000000 + 8 * h)

/-- Reads `n` bytes at an internal address. -/
def loadAt (r : RoomId) (a n : Nat) : Op (List Byte) := do loadPlace (← decodeAddr r a n) n

/-- Writes bytes at an internal address. -/
def storeAt (r : RoomId) (a : Nat) (bs : List Byte) : Op Unit := do storePlace (← decodeAddr r a bs.length) bs

/-- Reads a little-endian number of `n` bytes at an internal address. -/
def loadNat (r : RoomId) (a n : Nat) : Op Nat := do pure (natOfBytes (← loadAt r a n))

/-- Writes a little-endian number of `n` bytes at an internal address. -/
def storeNat (r : RoomId) (a n v : Nat) : Op Unit := storeAt r a (bytesOfNat n v)

/-- Checks that `n` bytes at an internal address exist and are no sync words: the faults of R21 (R266). -/
def checkAt (r : RoomId) (a n : Nat) : Op Unit := do
  match ← decodeAddr r a n with
  | .sync _ => badAddr a
  | _ => pure ()

/-! ## Interrupts -/

/-- A message write of an interrupt vector, while it is in message mode with a cause that is not masked (R303). -/
def sendMessage (v : Nat) (s : State) : State :=
  let k := 0x20 * v
  let masked := s.reg (Reg.porchIrqvStatus + k) &&& s.reg (Reg.porchIrqvEnable + k)
  if s.fld (Reg.porchIrqvCfg + k) 0 1 = 1 ∧ masked ≠ 0 then
    let a := s.reg64 (Reg.porchIrqvAddr + k) % 2 ^ 48 / 4 * 4
    hubWrite (ctxBase (s.fld (Reg.porchIrqvCfg + k) 1 5) + a) (bytesOfNat 4 (s.reg (Reg.porchIrqvData + k)).toNat) s
  else s

/-- A cause is raised on a vector: a message is sent when the masked status leaves zero (R302, R303). -/
def raiseCause (v src : Nat) (s : State) : State :=
  let k := 0x20 * v
  let was := s.reg (Reg.porchIrqvStatus + k) &&& s.reg (Reg.porchIrqvEnable + k)
  let s1 := s.orReg (Reg.porchIrqvStatus + k) (2 ^ src)
  if was = 0 then sendMessage v s1 else s1

/-- An interrupt source is raised (R302): it reaches the vector that PORCH_IRQ_ROUTE names, when enabled there. -/
def raiseSource (src : Nat) (s : State) : State :=
  let k := Reg.porchIrqRoutei + 4 * (src / 8)
  let f := s.fld k (4 * (src % 8)) 4
  if bitAt f 3 then raiseCause (f % 8) src s else s

/-- Whether the interrupt wire of a vector is high (R303). -/
def State.irqWire (s : State) (v : Nat) : Bool :=
  s.fld (Reg.porchIrqvCfg + 0x20 * v) 0 1 == 0 &&
    (s.reg (Reg.porchIrqvStatus + 0x20 * v) &&& s.reg (Reg.porchIrqvEnable + 0x20 * v)) != 0

end Sys2Proof.Machine
end

