-- ==== Sys2Proof/Machine/Operands.lean ====
section
/-! DEFINITION. Operand forms of the Steward's instructions (11_instruction_set.md): register fields (R255), tile
descriptors (R265, R266, R387), and the elements they name. -/

namespace Sys2Proof.Machine

/-! ## Register fields -/

/-- The register that a 7-bit field names (R255). -/
inductive RegName where
  | s (i : Fin 32) | a (i : Fin 16) | d (i : Fin 16) | c (i : Fin 4) | p (i : Fin 8)
  deriving DecidableEq, Repr

/-- Reads a register field; none for a reserved value (R255). -/
def regName (f : BitVec 7) : Option RegName :=
  let i := f.toNat % 32
  match f.toNat / 32 with
  | 0 => some (.s (Fin.ofNat 32 i))
  | 1 => if i < 16 then some (.a (Fin.ofNat 16 i)) else none
  | 2 => if i < 16 then some (.d (Fin.ofNat 16 i)) else none
  | _ => if i < 4 then some (.c (Fin.ofNat 4 i)) else if i / 8 = 2 then some (.p (Fin.ofNat 8 i)) else none

/-- The value of a register as a scalar operand: a, c and word 0 of d zero-extended, p as 0 or 1 (R254, R255). -/
def Stew.read (w : Stew) : RegName → Word64
  | .s i => if i.val = 0 then 0 else w.sreg.get i
  | .a i => (w.areg.get i).setWidth 64
  | .d i => ((w.dreg.get i).setWidth 32).setWidth 64
  | .c i => (w.creg.get i).setWidth 64
  | .p i => if w.preg.get i then 1 else 0

/-- Writes a scalar result: s whole with s0 discarded, a and c the low 32 bits, p whether it is nonzero, d into word 0
only (R254, R255). -/
def Stew.write (w : Stew) (n : RegName) (v : Word64) : Stew :=
  match n with
  | .s i => if i.val = 0 then w else { w with sreg := w.sreg.set i v }
  | .a i => { w with areg := w.areg.set i (v.setWidth 32) }
  | .d i => { w with dreg := w.dreg.set i ((w.dreg.get i).extractLsb' 32 224 ++ v.setWidth 32) }
  | .c i => { w with creg := w.creg.set i (v.setWidth 32) }
  | .p i => { w with preg := w.preg.set i (v != 0) }

/-- ILLEGAL_INSTRUCTION with the instruction's word in the unit capture (R291). -/
def illegalFis {α : Type} (f : Fis) : Op α := illegal [(encodeFis f).toNat]

/-- The register of a field, or ILLEGAL_INSTRUCTION (R261). -/
def regField (f : Fis) (x : BitVec 7) : Op RegName :=
  match regName x with
  | some n => pure n
  | none => illegalFis f

/-! ## Panes -/

/-- The internal address of the fill or the use pane of a pair, with the roles as given; none when the pair is not valid
(R194, R273). -/
def paneAddr (m : Room) (roles : BitVec 16) (pair : Nat) (fill : Bool) : Option Nat :=
  let e := m.panes.getD pair 0
  if pair < 16 ∧ bitAt e 45 then
    let b := roles.getLsbD pair == fill
    let off := 64 * (if b then bitsOf e 14 14 else bitsOf e 0 14)
    some (m.logical % 32 * 2 ^ 25 + b2n (bitAt e 43) * 2 ^ 21 + off)
  else none

/-! ## Tile descriptors -/

/-- A tile descriptor (R265), its base an internal address. -/
structure Desc where
  base : Nat
  fmt : Nat
  scaled : Bool
  bf16 : Bool
  residue : Bool
  status : Option Nat
  mask : Option Nat
  tag : Nat
  rows : Nat
  kind : Nat
  w3 : Nat
  stride : Nat
  w5 : Nat
  w7 : Nat
  deriving DecidableEq, Repr

/-- The fields of a descriptor's eight words. -/
def Desc.ofWords (w : List Nat) : Desc :=
  let g (i : Nat) : Nat := w.getD i 0
  { base := g 0, fmt := bitsOf (g 1) 0 4, scaled := bitAt (g 1) 4, bf16 := bitAt (g 1) 5, residue := bitAt (g 1) 6,
    status := if bitAt (g 1) 12 then some (g 6) else none, mask := if bitAt (g 1) 13 then some (g 7) else none,
    tag := bitsOf (g 1) 16 16, rows := bitsOf (g 2) 0 21, kind := bitsOf (g 2) 24 8, w3 := g 3,
    stride := bitsOf (g 4) 0 24, w5 := g 5, w7 := g 7 }

/-- Columns of a kind 0 or 1 descriptor. -/
def Desc.cols (d : Desc) : Nat := bitsOf d.w3 0 21

/-- The eight words of a d register, low word first. -/
def dWords (v : BitVec 256) : List Nat := (List.range 8).map (fun i => bitsOf v.toNat (32 * i) 32)

/-- A d register as a unit instruction copies it at issue: a pane base resolves to the use pane (R194, R256). -/
def captureDesc (m : Room) (i : Nat) (f : Fis) : Op (List Nat) :=
  let w := dWords (m.stew.dreg.get (Fin.ofNat 16 i))
  let w1 := w.getD 1 0
  if bitAt w1 7 then
    match paneAddr m m.roles (bitsOf w1 8 4) false with
    | some a => pure (((a + w.getD 0 0) % 2 ^ 32) :: w.drop 1)
    | none => illegalFis f
  else pure w

/-- Checks that a descriptor's kind exists and its format is not reserved (R29, R266). -/
def checkDesc (d : Desc) (f : Fis) : Op Unit :=
  if 4 ≤ d.kind ∨ (Fmt.ofCode d.fmt).isNone then illegalFis f else pure ()

/-- The format of a descriptor. -/
def Desc.format (d : Desc) (f : Fis) : Op Fmt :=
  match Fmt.ofCode d.fmt with
  | some x => pure x
  | none => illegalFis f

/-- Address of a row. -/
def Desc.rowAddr (d : Desc) (row : Nat) : Nat := (d.base + row * d.stride) % 2 ^ 32

/-- Size of a block scale in bytes (R387). -/
def Desc.scaleSize (d : Desc) : Nat := if d.bf16 then 2 else 1

/-- Address of the scale of block b of a row (R387). -/
def Desc.scaleAddr (d : Desc) (row b : Nat) : Nat :=
  wrapTo ((d.rowAddr row : Int) + signedOf d.w5 32 + b * d.scaleSize) 32

/-- Adds an offset to an internal address, modulo 2^32. -/
def addrPlus (a n : Nat) : Nat := (a + n) % 2 ^ 32

/-- Checks the rows of a region, each of `n` bytes (R266). -/
def checkRows (r : RoomId) (base stride n : Nat) (rows : Nat) : Op Unit :=
  if n = 0 then pure () else (List.range rows).forM (fun i => checkAt r (addrPlus base (i * stride)) n)

/-- Checks the region of a kind 0 operand that is read: its rows of n elements and their scales (R266). -/
def checkTensor (r : RoomId) (d : Desc) (fmt : Fmt) (rows n : Nat) : Op Unit := do
  checkRows r d.base d.stride (fmt.runBytes n) rows
  if d.scaled ∧ n ≠ 0 then
    (List.range rows).forM (fun i => checkAt r (d.scaleAddr i 0) (ceilDiv n 32 * d.scaleSize))

/-- Checks the status address of a descriptor (R266). -/
def checkStatus (r : RoomId) (d : Desc) : Op Unit :=
  match d.status with
  | some a => checkAt r a 4
  | none => pure ()

/-- Reads n raw elements at an internal address (R28). -/
def loadRaws (r : RoomId) (fmt : Fmt) (a n : Nat) : Op (List Nat) := do
  let v := natOfBytes (← loadAt r a (fmt.runBytes n))
  pure ((List.range n).map (fmt.elemAt v))

/-- Reads n elements as operands. -/
def loadOpds (r : RoomId) (fmt : Fmt) (a n : Nat) : Op (List Opd) := do
  pure ((← loadRaws r fmt a n).map (readOpd fmt))

/-- Elements k0 to k0 + n − 1 of a row of a kind 0 operand, each times its block scale, exact (R41-R43, R387). -/
def loadScaled (r : RoomId) (d : Desc) (fmt : Fmt) (row k0 n : Nat) : Op (List Opd) := do
  if n = 0 then pure []
  else
    let bytes ← loadAt r (addrPlus (d.rowAddr row) (k0 * fmt.bits / 8)) (ceilDiv ((k0 * fmt.bits % 8) + n * fmt.bits) 8)
    let v := natOfBytes bytes / 2 ^ (k0 * fmt.bits % 8)
    let xs := (List.range n).map (fun i => readOpd fmt (fmt.elemAt v i))
    if d.scaled then
      let b0 := k0 / 32
      let nb := (k0 + n - 1) / 32 + 1 - b0
      let sb ← loadAt r (d.scaleAddr row b0) (nb * d.scaleSize)
      let sv := natOfBytes sb
      pure (xs.zipIdx.map (fun p =>
        scaledOpd p.1 (scaleOpd d.bf16 (bitsOf sv (8 * d.scaleSize * ((k0 + p.2) / 32 - b0)) (8 * d.scaleSize)))))
    else pure xs

/-- Writes raw elements at an internal address; an odd last 4-bit element keeps the other half of its byte (R28). -/
def storeRaws (r : RoomId) (fmt : Fmt) (a : Nat) (els : List Nat) : Op Unit := do
  let bs := fmt.pack els
  if els.length * fmt.bits % 8 = 0 then storeAt r a bs
  else
    let last ← loadNat r (addrPlus a (bs.length - 1)) 1
    let keep := last / 16 * 16
    storeAt r a (bs.take (bs.length - 1) ++ [BitVec.ofNat 8 ((bs.getLastD 0).toNat % 16 + keep)])

/-- Writes values converted into a format (R38, R39): the flags of the conversions. -/
def storeVals (r : RoomId) (fmt : Fmt) (sat : Bool) (a : Nat) (vs : List Val) : Op (List Flags) := do
  let cs := vs.map (convert fmt sat)
  storeRaws r fmt a (cs.map Prod.fst)
  pure (cs.map Prod.snd)

/-- Whether two byte ranges, each given by its start and end, share a byte. -/
def overlap (a b : Nat × Nat) : Bool := decide (a.1 < b.2) && decide (b.1 < a.2)

end Sys2Proof.Machine
end

