-- ==== Sys2Proof/Machine/Flags.lean ====
section
/-! DEFINITION. Numeric status (04_accumulation.md): the tile status word (R101, R102), the exception record (R103) and
numeric traps (R104). -/

namespace Sys2Proof.Machine

/-- What a tile status word gathers (R101). -/
structure TileStatus where
  fl : Flags := {}
  empty : Bool := false
  floorBelow : Bool := false
  compacted : Nat := 0
  result : Nat := 0
  deriving DecidableEq, Repr

/-- The 32-bit tile status word (R101). -/
def TileStatus.word (t : TileStatus) : Nat :=
  t.fl.toNat + 16 * b2n t.empty + 32 * b2n (decide (0 < t.compacted)) + 64 * b2n t.floorBelow +
  2 ^ 8 * min t.compacted (2 ^ 21 - 1) + 2 ^ 29 * (t.result % 8)

/-- The units as ROOM_EXC_INFO.unit codes them (R103). -/
inductive UnitName where
  | floor | stair | lamp | parlour
  deriving DecidableEq, Repr

/-- The code of a unit in ROOM_EXC_INFO. -/
def UnitName.code : UnitName → Nat
  | .floor => 0 | .stair => 1 | .lamp => 2 | .parlour => 3

/-- The lowest set bit of a 4-bit number, as a flag kind (R103). -/
def lowKind (n : Nat) : Nat := if bitAt n 0 then 0 else if bitAt n 1 then 1 else if bitAt n 2 then 2 else 3

/-- A coordinate of R103: tile, row, k and column, compared in that order. -/
structure Coord where
  tile : Nat
  row : Nat
  k : Nat
  col : Nat
  deriving DecidableEq, Repr

/-- The order of coordinates (R103). -/
def Coord.lt (a b : Coord) : Bool :=
  decide (a.tile < b.tile) || (a.tile == b.tile && (decide (a.row < b.row) || (a.row == b.row &&
    (decide (a.k < b.k) || (a.k == b.k && decide (a.col < b.col))))))

/-- The coordinate that the exception record holds. -/
def excCoord (s : State) (r : RoomId) : Coord :=
  ⟨s.fld (rreg r Reg.roomExcInfo) 16 16, s.fld (rreg r Reg.roomExcRow) 0 21, (s.reg (rreg r Reg.roomExcK)).toNat,
   s.fld (rreg r Reg.roomExcInfo) 5 5⟩

/-- One event: it counts when its flags are captured, and the record keeps the lowest coordinate, with the lowest kind
of several there (R103). -/
def recordEvent (r : RoomId) (u : UnitName) (pc : Nat) (c : Coord) (fl : Flags) (s : State) : State :=
  let sel := fl.toNat &&& s.fld (rreg r Reg.roomExcCtl) 0 4
  if sel = 0 then s
  else
    let s1 := s.satFld (rreg r Reg.roomExcCount) 0 32 1
    let valid := s.fld (rreg r Reg.roomExcInfo) 0 1 == 1
    let cur := excCoord s r
    let kind := lowKind sel
    if valid && (cur.lt c || (cur == c && decide (s.fld (rreg r Reg.roomExcInfo) 1 2 ≤ kind))) then s1
    else
      let info := 1 + 2 * kind + 8 * u.code + 32 * (c.col % 32) + 2 ^ 16 * (c.tile % 2 ^ 16)
      (((s1.setReg (rreg r Reg.roomExcInfo) (BitVec.ofNat 32 info)).setReg (rreg r Reg.roomExcRow)
        (BitVec.ofNat 32 (c.row % 2 ^ 21))).setReg (rreg r Reg.roomExcK) (BitVec.ofNat 32 c.k)).setReg
        (rreg r Reg.roomExcPc) (BitVec.ofNat 32 pc)

/-- The events of one result, all in one tile, row and column (R103). -/
def recordEvents (r : RoomId) (u : UnitName) (pc tile row col : Nat) (es : List Ev) (s : State) : State :=
  es.foldl (fun s e => recordEvent r u pc ⟨tile, row, e.k, col⟩ e.fl s) s

/-- Clears the exception record and its count (R104). -/
def clearExc (r : RoomId) (s : State) : State :=
  [Reg.roomExcInfo, Reg.roomExcRow, Reg.roomExcK, Reg.roomExcPc, Reg.roomExcCount].foldl
    (fun s k => s.setReg (rreg r k) 0) s

/-- Writes a tile status word at the status address, when there is one: its flags are gathered in ROOM_NUM_STATUS, and a
trapped flag raises NUMERIC_TRAP as the word is written (R102, R104). -/
def putStatus (r : RoomId) (addr : Option Nat) (t : TileStatus) : Op Unit := do
  match addr with
  | none => pure ()
  | some a =>
    storeNat r a 4 t.word
    modify (fun s => s.orReg (rreg r Reg.roomNumStatus) (t.word % 128))
    let s ← get
    if (s.fld (rreg r Reg.roomExcCtl) 4 1 = 1 ∧ t.fl.inv) ∨ (s.fld (rreg r Reg.roomExcCtl) 5 1 = 1 ∧ t.fl.sat) then
      throw ⟨.numericTrap, [(s.reg (rreg r Reg.roomExcInfo)).toNat, (s.reg (rreg r Reg.roomExcRow)).toNat,
        (s.reg (rreg r Reg.roomExcK)).toNat, (s.reg (rreg r Reg.roomExcPc)).toNat]⟩

end Sys2Proof.Machine
end

