-- ==== Sys2Proof/Machine/Issue.lean ====
section
/-! DEFINITION. Issue (11_instruction_set.md): the program counter, stalls, the instruction sampler (R354, R355), unit
queues and tallies (R256, R258), and the shape of a format-U instruction (R261, R270). -/

namespace Sys2Proof.Machine

/-- WIN_CYCLES of a room. -/
def winCycles (s : State) (r : RoomId) : Nat := s.reg64 (rreg r Reg.winCycles)

/-- The step number of the job that a room runs, 0 when it runs none. -/
def stepOf (s : State) (r : RoomId) : Nat :=
  match (s.room r).job with
  | some j => (s.jobs.get j).step
  | none => 0

/-- Whether the job that a room runs is in debug (R356). -/
def roomDebug (s : State) (r : RoomId) : Bool :=
  match (s.room r).job with
  | some j => (s.jobs.get j).debug
  | none => false

/-- Space has returned in the trace queue after records were dropped: one overflow record follows, when its source is enabled
(R360). -/
def traceOverflow (s : State) : State :=
  if s.win.traceDrop = 0 ∨ 256 ≤ s.trace.length then s
  else
    let x : TraceRec := ⟨5, 0, s.win.traceDrop, s.reg64 Reg.thrTimebase, 0⟩
    { s with trace := if s.fld Reg.studyTraceCtl 5 1 = 1 then s.trace ++ [x] else s.trace, win := { s.win with traceDrop := 0 } }

/-- A trace record enters the formatter's queue: of an enabled source, while the queue holds fewer than 256, behind the overflow record
of those dropped before; else it is dropped and counted (R360, log entry 99). -/
def emitTrace (type room aux value : Nat) (s : State) : State :=
  if s.fld Reg.studyTraceCtl 0 1 = 1 ∧ bitAt (s.fld Reg.studyTraceCtl 1 5) (type - 1) then
    let s1 := traceOverflow s
    if s1.trace.length < 256 then
      { s1 with trace := s1.trace ++ [⟨type, room, aux, s.reg64 Reg.thrTimebase, value⟩] }
    else ({ s1 with win := { s1.win with traceDrop := s1.win.traceDrop + 1 } }.satFld Reg.studyTraceCtl 16 16 1).orReg Reg.studyEvent 2
  else s

/-! ## Instruction sampling -/

/-- The LFSR of R354, one step: taps x^16 + x^14 + x^13 + x^11 + 1 (log entry 18). -/
def lfsrNext (l : BitVec 16) : BitVec 16 :=
  let b := ((l.getLsbD 0).xor (l.getLsbD 2)).xor ((l.getLsbD 3).xor (l.getLsbD 5))
  BitVec.ofBool b ++ l.extractLsb' 1 15

/-- The 16 bytes-by-words form of a sample record (R354). -/
def sampleWords (x : Sample) (flushed : Bool) (done : Nat) : List Nat :=
  [x.pc, x.opcode + 2 ^ 16 * x.stall + 2 ^ 24 * (b2n x.predOff + 2 * b2n flushed), x.issuedAt, x.issuedAt / 2 ^ 32,
   if flushed then 0 else done, if flushed then 0 else done / 2 ^ 32, min x.stalled (2 ^ 32 - 1), x.step]

/-- A sample record is written into the room's buffer (R354, R355). -/
def writeSample (r : RoomId) (x : Sample) (flushed : Bool) (s : State) : State :=
  let k := rreg r Reg.winSampStatus
  let held := s.fld k 0 6
  if held < 32 ∨ s.fld (rreg r Reg.winSampCtl) 6 1 = 1 then
    let wat := rreg r Reg.winSampi + 0x20 * s.fld k 6 5
    let s1 := (sampleWords x flushed (winCycles s r)).zipIdx.foldl
      (fun s p => s.setReg (wat + 4 * p.2) (BitVec.ofNat 32 p.1)) s
    (s1.setFld k 0 6 (min 32 (held + 1))).setFld k 6 5 (s.fld k 6 5 + 1)
  else s

/-- The interval length of the sampler: 2^log2_n with log2_n from 4 to 20 (R354). -/
def sampleInterval (s : State) (r : RoomId) : Nat := 2 ^ max 4 (min 20 (s.fld (rreg r Reg.winSampCtl) 1 5))

/-- The stall before the issue of the instruction that a Steward takes up: its last cause, and its cycles (R354). -/
def stallBefore (s : State) (r : RoomId) : Nat × Nat :=
  let w := (s.room r).stew
  let (c, n) := match w.gone with | some (x, n) => (x.code, n) | none => (0, 0)
  if w.stall = .none then (c, n) else (w.stall.code, n + (winCycles s r - w.stallFrom))

/-- What completes an instruction that issues (R259, R354): it leaves the Steward at once, or it waits for its unit, or for the
release of a blocking arrival. -/
inductive Ends where
  | now
  | unit (q : Fin 5) (id : Nat)
  | release
  deriving DecidableEq, Repr

/-- What a sample of the instruction waits for. -/
def Ends.waits : Ends → Option (Fin 5 × Nat)
  | .unit q id => some (q, id)
  | _ => none

/-- The sampler sees an instruction issue: it may become a sample, which awaits completion or, for an instruction that leaves the
Steward, is written at once (R354, R355). -/
def sampleIssue (r : RoomId) (f : Fis) (predOff : Bool) (ends : Ends) (s : State) : State :=
  if s.fld (rreg r Reg.winSampCtl) 0 1 = 0 then s
  else
    let m := s.room r
    let sm := m.sampler
    let n := sampleInterval s r
    let hit := sm.count == sm.lfsr.toNat % n
    let next : Sampler :=
      if sm.count + 1 < n then { sm with count := sm.count + 1 } else { sm with count := 0, lfsr := lfsrNext sm.lfsr }
    let s1 := s.modRoom r (fun m => { m with sampler := next })
    let full := s.fld (rreg r Reg.winSampStatus) 0 6 = 32 ∧ s.fld (rreg r Reg.winSampCtl) 6 1 = 0
    if hit && !decide full then
      let stall := stallBefore s r
      let x : Sample := { pc := m.stew.pc, opcode := ((encodeFis f).toNat / 2 ^ 56) + 2 ^ 8 * ((encodeFis f).toNat / 2 ^ 48 % 256),
                          stall := stall.1, predOff := predOff, issuedAt := winCycles s r, stalled := stall.2,
                          step := stepOf s r % 2 ^ 32, waits := ends.waits }
      if ends = .now then writeSample r x false s1
      else if sm.awaiting.length < 4 then
        s1.modRoom r (fun m => { m with sampler := { m.sampler with awaiting := m.sampler.awaiting ++ [x] } })
      else s1.satFld (rreg r Reg.winSampStatus) 16 16 1
    else s1

/-- An instruction issues, predicated off or not: the counters' event 0x01, and the sampler (R348, R354). -/
def noteIssue (r : RoomId) (f : Fis) (predOff : Bool) (ends : Ends) (s : State) : State :=
  sampleIssue r f predOff ends (s.modRoom r (fun m => { m with issues := m.issues + 1 }))

/-- A sampled instruction that awaited completion completes: its record is written (R354). -/
def sampleDone (r : RoomId) (waits : Option (Fin 5 × Nat)) (s : State) : State :=
  match (s.room r).sampler.awaiting.find? (fun x => x.waits == waits) with
  | none => s
  | some x =>
    writeSample r x false (s.modRoom r (fun m =>
      { m with sampler := { m.sampler with awaiting := m.sampler.awaiting.filter (fun y => y.waits != waits) } }))

/-- A fault flushes the samples that await completion (R355). -/
def sampleFlush (r : RoomId) (s : State) : State :=
  let l := (s.room r).sampler.awaiting
  l.foldl (fun s x => writeSample r x true s) (s.modRoom r (fun m => { m with sampler := { m.sampler with awaiting := [] } }))

/-! ## The program counter and stalls -/

/-- The Steward is free to issue again after an instruction: stall accounting is cleared. -/
def Stew.unstall (w : Stew) : Stew := { w with stall := .none, waiting := .nothing, bpPass := false, gone := none }

/-- The instruction has left the Steward: the program counter moves to a given place (R257). -/
def leaveTo (r : RoomId) (f : Fis) (pc : Nat) : Op Unit :=
  modify (fun s => (noteIssue r f false .now s).modStew r (fun w => { w.unstall with pc := pc }))

/-- The instruction has left the Steward: on to the next one. -/
def leave (r : RoomId) (f : Fis) : Op Unit := do leaveTo r f (((← get).room r).stew.pc + 8)

/-- The release of a blocking arrival lets the Steward go on behind it: a sample of it is complete, and its stall stands before the
next issue (R207, R354). -/
def released (r : RoomId) (s : State) : State :=
  let s1 := sampleDone r none s
  s1.modStew r (fun w => { w.unstall with pc := w.pc + 8, running := true, gone := some (w.stall, winCycles s r - w.stallFrom) })

/-- The Steward stalls before or within an instruction, which issues again when what it waits for may have come. -/
def stallOn (r : RoomId) (c : Stall) (f : Fis) : Op Unit :=
  modify (fun s => s.modStew r (fun w =>
    { w with stall := c, waiting := .again f,
             stallFrom := if w.stall = .none then winCycles s r else w.stallFrom }))

/-! ## Queues and tallies -/

/-- Entries that a unit queue holds (R256). -/
def queueDepth : Nat := 16

/-- One unit queue. -/
def Room.queue (m : Room) (q : Fin 5) : UQueue := m.queues.get q

/-- Changes one unit queue. -/
def State.modQueue (s : State) (r : RoomId) (q : Fin 5) (f : UQueue → UQueue) : State :=
  s.modRoom r (fun m => { m with queues := m.queues.set q (f (m.queues.get q)) })

/-- Whether a tally has reached a wait's target (R258). -/
def tallyOk (m : Room) (w : Option (Fin 5 × BitVec 16)) : Bool :=
  match w with
  | none => true
  | some (q, target) => decide (((m.queue q).tally - target).toNat < 2 ^ 15)

/-- The wait of a format-U instruction, its target taken at issue (R258); queue 7 is none. -/
def waitOf (m : Room) (u : FmtU) : Option (Fin 5 × BitVec 16) :=
  if h : u.waitQ.toNat < 5 then
    let q : Fin 5 := ⟨u.waitQ.toNat, h⟩
    some (q, (m.queue q).issued - u.k.setWidth 16)
  else none

/-- Leading posting instructions that are complete leave the list and count in the tally (R258). -/
def countPosts : List (Nat × Bool) → BitVec 16 → List (Nat × Bool) × BitVec 16
  | (_, true) :: t, n => countPosts t (n + 1)
  | l, n => (l, n)

/-- A unit instruction is complete: its post, if it has one, counts when it is a leading one (R258, R259). -/
def finishEntry (r : RoomId) (q : Fin 5) (id : Nat) (s : State) : State :=
  sampleDone r (some (q, id)) (s.modQueue r q (fun x =>
    let (posts, tally) := countPosts (x.posts.map (fun p => if p.1 = id then (p.1, true) else p)) x.tally
    { x with posts := posts, tally := tally }))

/-! ## The shape of a format-U instruction -/

/-- What a format-U instruction's operand field names (R270). -/
inductive UField where
  /-- Not used: it must be 0 (log entry 19). -/
  | unused
  | d | a | s
  /-- An immediate field of so many bits. -/
  | imm (bits : Nat)
  /-- A d register read only when a bit of the immediate is set; otherwise ignored (R84). -/
  | dIf (bit : Nat)
  deriving DecidableEq, Repr

/-- The operand fields of a format-U instruction and the width of its immediate (R270). -/
structure UShape where
  ra : UField := .unused
  rb : UField := .unused
  rc : UField := .unused
  imm : Nat := 0
  deriving DecidableEq, Repr

/-- Whether a 4-bit operand field is one that the shape allows (R261). -/
def UField.ok (k : UField) (v : BitVec 4) : Bool :=
  match k with
  | .unused => v == 0
  | .imm n => decide (v.toNat < 2 ^ n)
  | _ => true

/-- Whether the fields of a format-U instruction are ones its shape allows (R261). -/
def UShape.ok (p : UShape) (u : FmtU) : Bool :=
  decide (u.waitQ.toNat ≠ 5) && decide (u.waitQ.toNat ≠ 6) && p.ra.ok u.ra && p.rb.ok u.rb && p.rc.ok u.rc &&
    decide (u.imm.toNat < 2 ^ p.imm)

/-- Bits of the immediate. -/
def FmtU.field (u : FmtU) (lo w : Nat) : Nat := bitsOf u.imm.toNat lo w

/-- One operand as the queue entry copies it (R256): the words of a descriptor, or the value of a register or field. -/
def captureField (m : Room) (f : Fis) (u : FmtU) (k : UField) (v : BitVec 4) : Op (List Nat) :=
  match k with
  | .unused => pure []
  | .imm _ => pure [v.toNat]
  | .a => pure [(m.stew.areg.get (Fin.ofNat 16 v.toNat)).toNat]
  | .s => pure [(m.stew.read (.s (Fin.ofNat 32 v.toNat))).toNat]
  | .d => captureDesc m v.toNat f
  | .dIf b => if u.imm.getLsbD b then captureDesc m v.toNat f else pure []

/-- The predicate of a format-U instruction holds or is not enabled (R260). -/
def predOn (m : Room) (u : FmtU) : Bool := !u.pen || m.stew.preg.get (Fin.ofNat 8 u.pred.toNat)

/-- A predicated-off instruction: one issue cycle and nothing else (R260). -/
def leavePredOff (r : RoomId) (f : Fis) : Op Unit :=
  modify (fun s => (noteIssue r f true .now s).modStew r (fun w => { w.unstall with pc := w.pc + 8 }))

/-- A format-U instruction that the Steward executes: its shape, its predicate and its wait, then its own effect
(R258-R261). -/
def stewardU (r : RoomId) (f : Fis) (u : FmtU) (p : UShape) (k : Op Unit) : Op Unit := do
  if !p.ok u then illegalFis f
  else
    let m := (← get).room r
    if !predOn m u then leavePredOff r f
    else if !tallyOk m (waitOf m u) then stallOn r .tally f
    else k

/-- A unit instruction: its shape, its predicate, its operands and the checks made at issue; then a queue entry, or a
stall while the queue is full (R256, R258, R260, R266). -/
def unitU (r : RoomId) (q : Fin 5) (f : Fis) (u : FmtU) (p : UShape) (check : QEntry → Op Unit) : Op Unit := do
  if !p.ok u then illegalFis f
  else
    let m := (← get).room r
    if !predOn m u then leavePredOff r f
    else
      let ra ← captureField m f u p.ra u.ra
      let rb ← captureField m f u p.rb u.rb
      let rc ← captureField m f u p.rc u.rc
      let e : QEntry := { id := m.nextId, op := f, ra := ra, rb := rb, rc := rc, pc := m.stew.pc, wait := waitOf m u, post := u.post, roles := m.roles }
      check e
      let m := (← get).room r
      if queueDepth ≤ (m.queue q).entries.length then stallOn r .queueFull f
      else
        modify (fun s =>
          let s1 := s.modRoom r (fun m => { m with nextId := m.nextId + 1 })
          let s2 := s1.modQueue r q (fun x =>
            { x with entries := x.entries ++ [e], issued := if u.post then x.issued + 1 else x.issued,
                     posts := if u.post then x.posts ++ [(e.id, false)] else x.posts })
          (noteIssue r f false (.unit q e.id) s2).modStew r (fun w => { w.unstall with pc := w.pc + 8 }))

end Sys2Proof.Machine
end

