-- ==== Sys2Proof/Machine/Ledger.lean ====
section
/-! DEFINITION. The Ledger (10_streams.md, R228-R230): its entries' fields, which entries are open, and what a read of an
entry with a double-bit error does; the counts that Threshold keeps over its streams. -/

namespace Sys2Proof.Machine

/-- Fields of a Ledger entry: offset and size (R228). -/
structure LedField where
  off : Nat
  size : Nat

abbrev Led.state : LedField := ⟨0x00, 1⟩
abbrev Led.kind : LedField := ⟨0x01, 1⟩
abbrev Led.gen : LedField := ⟨0x02, 2⟩
abbrev Led.ctx : LedField := ⟨0x04, 1⟩
abbrev Led.room : LedField := ⟨0x05, 1⟩
abbrev Led.row : LedField := ⟨0x06, 1⟩
abbrev Led.job : LedField := ⟨0x08, 4⟩
abbrev Led.partner : LedField := ⟨0x0C, 2⟩
abbrev Led.demand : LedField := ⟨0x0E, 2⟩
abbrev Led.attic : LedField := ⟨0x10, 8⟩
abbrev Led.fed : LedField := ⟨0x18, 8⟩
abbrev Led.consumed : LedField := ⟨0x20, 8⟩
abbrev Led.origin : LedField := ⟨0x28, 8⟩
abbrev Led.winLen : LedField := ⟨0x30, 8⟩
abbrev Led.window : LedField := ⟨0x38, 8⟩
abbrev Led.oldest : LedField := ⟨0x40, 8⟩
abbrev Led.lastStep : LedField := ⟨0x48, 8⟩
abbrev Led.late : LedField := ⟨0x50, 4⟩
abbrev Led.refused : LedField := ⟨0x54, 4⟩
abbrev Led.miss : LedField := ⟨0x58, 4⟩
abbrev Led.reserved : LedField := ⟨0x5C, 2⟩
abbrev Led.held : LedField := ⟨0x5E, 2⟩
abbrev Led.anchor : LedField := ⟨0x60, 8⟩
abbrev Led.lastMove : LedField := ⟨0x68, 8⟩

/-- The states of an entry (R228). -/
abbrev Led.FREE : Nat := 0
abbrev Led.IDLE : Nat := 1
abbrev Led.READY : Nat := 2
abbrev Led.ACTIVE : Nat := 3
abbrev Led.PARKED : Nat := 4
abbrev Led.FAULTED : Nat := 5

/-- Entries of the Ledger (R228). -/
def ledgerSize : Nat := 4096

/-- A field of an entry. -/
def State.led (s : State) (i : Nat) (f : LedField) : Nat := s.thr.ledger.getN (256 * i + f.off) f.size

/-- The DRAM key of a stream's Attic record: its address in the context of its entry (R188, R228). -/
def State.atticKey (s : State) (i : Nat) : Nat := ctxBase (s.led i Led.ctx) + s.led i Led.attic % 2 ^ 48

/-- Writes a field of an entry; its word has fresh check bits (R177). -/
def State.putLed (s : State) (i : Nat) (f : LedField) (v : Nat) : State :=
  { s with thr := { s.thr with
      ledger := s.thr.ledger.putN (256 * i + f.off) f.size (v % 2 ^ (8 * f.size)),
      ledgerEcc := s.thr.ledgerEcc.filter (fun e => e.1 != (256 * i + f.off) / 8) } }

/-- Changes Threshold's state. -/
def State.modThr (s : State) (f : Thr → Thr) : State := { s with thr := f s.thr }

/-- The index of every entry that has a byte set, in order: those not listed are all zero, and so FREE. -/
def listedEntries (m : Memory) : List Nat :=
  (m.foldl (fun acc c => let i := c.1 / 256; if acc.head? = some i then acc else i :: acc) []).reverse

/-- The entries that are not FREE, in order. -/
def State.streams (s : State) : List Nat := (listedEntries s.thr.ledger).filter (fun i => s.led i Led.state != Led.FREE)

/-- A stream's class: 0 LIVE, 1 INTERACTIVE, 2 BACKGROUND, 3 BULK (R228). -/
def State.classOf (s : State) (i : Nat) : Nat := s.led i Led.kind % 4

/-- Whether a stream is windowed (R228). -/
def State.windowed (s : State) (i : Nat) : Bool := bitAt (s.led i Led.kind) 2

/-- The partner of a duplex member (R247). -/
def State.partner (s : State) (i : Nat) : Option Nat :=
  if bitAt (s.led i Led.kind) 3 then some (s.led i Led.partner) else none

/-- The members that a decision about a stream covers: itself and its duplex partner, P first (R249). -/
def State.unit (s : State) (i : Nat) : List Nat :=
  match s.partner i with
  | none => [i]
  | some p => if bitAt (s.led i Led.kind) 4 then [p, i] else [i, p]

/-- Windows of a stream that are due and not consumed (R245). -/
def State.dueOf (s : State) (i : Nat) : List DueWindow := s.thr.due.filter (fun d => d.index == i)

/-- Positions of a stream that are fed and not consumed. -/
def State.backlog (s : State) (i : Nat) : Nat := s.led i Led.fed - s.led i Led.consumed

/-- Whether a stream has a pending position: for a windowed one, a due window (R245). -/
def State.hasPending (s : State) (i : Nat) : Bool :=
  if s.windowed i then !(s.dueOf i).isEmpty else decide (0 < s.backlog i)

/-- Pending positions of a class (R234, R237): of the streams that are not PARKED or FAULTED. -/
def State.pendingOf (s : State) (c : Nat) : Nat :=
  ((s.streams.filter (fun i => s.classOf i == c && decide (s.led i Led.state ≤ Led.ACTIVE))).map s.backlog).foldl (· + ·) 0

/-- Writes a class's pending count and its peak into its register (R234). -/
def notePending (c : Nat) (s : State) : State :=
  let k := Reg.thrClasscPending + 0x10 * c
  let p := min (2 ^ 16 - 1) (s.pendingOf c)
  (s.setFld k 0 16 p).setFld k 16 16 (max (s.fld k 16 16) p)

/-- Open LIVE streams (R233). -/
def State.liveStreams (s : State) : Nat := (s.streams.filter (fun i => s.classOf i == 0)).length

/-- LIVE demand of a job, in 1/256 row (R233). -/
def State.liveDemand (s : State) (job : Nat) : Nat :=
  ((s.streams.filter (fun i => s.classOf i == 0 && s.led i Led.job == job)).map (fun i => s.led i Led.demand)).foldl (· + ·) 0

/-- Rewrites the counts of streams in THR_STATUS and THR_LIVE, and every class's pending positions. -/
def noteStreams (s : State) : State :=
  let n := s.streams.length
  let live := s.liveStreams
  let jobs := (s.streams.map (fun i => s.led i Led.job)).map s.liveDemand
  let s1 := ((s.setFld Reg.thrStatus 3 13 (ledgerSize - n)).setFld Reg.thrStatus 16 7 live)
  let s2 := (s1.setFld Reg.thrLive 0 7 live).setFld Reg.thrLive 16 15 (jobs.foldl max 0)
  (List.range 4).foldl (fun s c => notePending c s) s2

/-- A THR_EVENT bit is set, and source 21 raised (R302). -/
def thrEvent (bit : Nat) (s : State) : State := raiseSource 21 (s.orReg Reg.thrEvent (2 ^ bit))

/-- The job of a stream: the slot whose job has the entry's number and context. -/
def State.jobOf (s : State) (i : Nat) : Option SlotId :=
  (List.finRange 8).find? (fun j =>
    let b := s.jobs.get j
    b.st != .free && b.number == s.led i Led.job && b.ctx.val == s.led i Led.ctx)

/-- The streams of a job. -/
def State.streamsOf (s : State) (j : SlotId) : List Nat := s.streams.filter (fun i => s.jobOf i == some j)

/-- Whether a job is running: it may fault (R230, R288). -/
def JobState.live : JobState → Bool
  | .loading => true | .running => true | .restarting => true
  | _ => false

/-- Threshold reads an entry. One that meets a double-bit error becomes FAULTED with fresh check bits; the stream's job, if
it is running, raises SRAM_UNCORRECTABLE (R230). A single-bit error is corrected (R178). -/
def readEntry (i : Nat) (s : State) : State :=
  let hit := s.thr.ledgerEcc.filter (fun e => e.1 / 32 == i)
  if hit.isEmpty then s
  else
    let clean := s.modThr (fun t => { t with ledgerEcc := t.ledgerEcc.filter (fun e => e.1 / 32 != i) })
    match hit.find? (fun e => decide (2 ≤ e.2)) with
    | none => clean
    | some e =>
      let s1 := thrEvent 0 (clean.putLed i Led.state Led.FAULTED)
      match s.jobOf i with
      | none => noteStreams s1
      | some j =>
        if (s.jobs.get j).st.live then
          (noteStreams s1).addFault { code := .sramUncorrectable, source := 0x22, room := none, slot := some j, ledger := i,
                                      pc := 0xFFFFFFFF, capture := [6, 0, e.1, i] }
        else noteStreams s1

/-- Sets a field of an entry. A field narrower than its word reads the word first: an entry that this finds with a double-bit error
becomes FAULTED, and the write is lost with its other fields (R177, R230). -/
def State.setLed (s : State) (i : Nat) (f : LedField) (v : Nat) : State :=
  if f.size < 8 ∧ s.thr.ledgerEcc.any (fun e => e.1 == (256 * i + f.off) / 8 && decide (2 ≤ e.2)) then readEntry i s
  else s.putLed i f v

/-- Adds to a field of an entry, saturating. -/
def State.satLed (s : State) (i : Nat) (f : LedField) (n : Nat) : State :=
  s.setLed i f (satAdd (2 ^ (8 * f.size) - 1) (s.led i f) n)

/-- An entry becomes FREE: everything but its generation is cleared (R228, R229). -/
def freeEntry (i : Nat) (s : State) : State :=
  let g := s.led i Led.gen
  let s1 := s.modThr (fun t =>
    { t with ledger := t.ledger.putN (256 * i) 256 (g * 2 ^ 16), ledgerEcc := t.ledgerEcc.filter (fun e => e.1 / 32 != i), closing := t.closing.filter (· != i),
             due := t.due.filter (fun d => d.index != i), ahead := t.ahead.filter (fun a => a.1 != i),
             marks := t.marks.filter (fun m => m.index != i), movedMs := t.movedMs.filter (fun m => m.1 != i),
             noOrigin := t.noOrigin.filter (· != i), noCkpt := t.noCkpt.filter (· != i) })
  noteStreams s1

/-- Threshold reads the entries of a job's streams. -/
def readEntries (is : List Nat) (s : State) : State := is.foldl (fun s i => readEntry i s) s

end Sys2Proof.Machine
end

