-- ==== Sys2Proof/Machine/Larder.lean ====
section
/-! DEFINITION. The Larder (07_parlour.md, R160, R163, R170, R171, R173): its header and page table in DRAM, the free slots
that Threshold holds, taking and returning pages, victims, and spilled pages. Which free page number and which free slot
Threshold takes is open (log entry 38). -/

namespace Sys2Proof.Machine

/-! ## Pages -/

/-- Head dimension of a code (R161, R269). -/
def headDim : Nat → Option Nat
  | 0 => some 64 | 1 => some 128 | 2 => some 256
  | _ => none

/-- Element format of a page tag (R160). -/
def tagFmt : Nat → Option Fmt
  | 1 => some .bf16 | 2 => some .e4m3 | 3 => some .int8 | 4 => some .int4 | 5 => some .fp4
  | _ => none

/-- Whether a tag allows a scale form: 0 E8M0, 1 BF16, 2 none (R160). -/
def tagForm (tag form : Nat) : Bool :=
  match tag with
  | 1 => form == 2
  | 2 => decide (form ≤ 2)
  | 3 | 4 | 5 => decide (form ≤ 1)
  | _ => false

/-- Bytes of a scale of a form. -/
def formSize : Nat → Nat
  | 0 => 1 | 1 => 2
  | _ => 0

/-- Bytes of the elements of one token. -/
def tokenBytes (dim tag : Nat) : Nat := ((tagFmt tag).getD .bf16).runBytes dim
/-- Bytes of the scales of one token. -/
def tokenScales (dim form : Nat) : Nat := dim / 32 * formSize form
/-- Bytes of a page (R160). -/
def pageBytes (dim tag form : Nat) : Nat := 64 + 2 * 64 * (tokenBytes dim tag + tokenScales dim form)
/-- Offset of the K elements, K scales, V elements and V scales of a page (R160). -/
def pageSection (dim tag form n : Nat) : Nat :=
  let e := 64 * tokenBytes dim tag
  let c := 64 * tokenScales dim form
  64 + (if n = 0 then 0 else if n = 1 then e else if n = 2 then e + c else 2 * e + c)

/-! ## The Larder in DRAM -/

/-- A Larder header (R163); its addresses are DRAM keys of the job's context. -/
structure LarderHdr where
  addr : Nat
  spill : Bool
  classes : Nat
  table : Nat
  tier : Nat
  tierSize : Nat
  deriving DecidableEq, Repr

/-- Reads a Larder header. -/
def larderHdr (s : State) (a : Nat) : LarderHdr :=
  { addr := a, spill := s.dnum (a + 6) 1 == 1, classes := min 4 (s.dnum (a + 7) 1),
    table := inCtx a (s.dnum (a + 8) 8), tier := inCtx a (s.dnum (a + 0x10) 8),
    tierSize := s.dnum (a + 0x18) 8 }

/-- Class n: first page number, page count and slot size in bytes. -/
def larderClass (s : State) (h : LarderHdr) (n : Nat) : Nat × Nat × Nat :=
  let v := s.dnum (h.addr + 0x20 + 8 * n) 8
  (bitsOf v 0 24, bitsOf v 24 24, 64 * bitsOf v 48 16)

/-- Key of a page's table entry. -/
def LarderHdr.entry (h : LarderHdr) (p : Nat) : Nat := dramKey (h.table + 16 * p)

/-- The address, the state and the owner of a page, its position base and its tag (R163). -/
structure PageEntry where
  addr : Nat
  state : Nat
  count : Nat
  base : Nat
  owner : Nat
  layer : Nat
  headTag : Nat
  deriving DecidableEq, Repr

/-- Reads a page table entry. -/
def pageEntry (s : State) (h : LarderHdr) (p : Nat) : PageEntry :=
  let a := h.entry p
  { addr := inCtx a (s.dnum a 6), state := s.dnum (a + 6) 1, count := s.dnum (a + 7) 1, base := s.dnum (a + 8) 4,
    owner := s.dnum (a + 0xC) 2, layer := s.dnum (a + 0xE) 1, headTag := s.dnum (a + 0xF) 1 }

/-- Writes a page table entry. -/
def setPageEntry (h : LarderHdr) (p : Nat) (e : PageEntry) (s : State) : State :=
  let bs := bytesOfNat 6 (e.addr % 2 ^ 48) ++ bytesOfNat 1 e.state ++ bytesOfNat 1 e.count ++ bytesOfNat 4 e.base ++
    bytesOfNat 2 e.owner ++ bytesOfNat 1 e.layer ++ bytesOfNat 1 e.headTag
  hubWrite (h.entry p) bs s

/-- Page numbers of a class. -/
def classPages (s : State) (h : LarderHdr) (n : Nat) : List Nat :=
  let (first, count, _) := larderClass s h n
  (List.range count).map (fun i => first + i)

/-- Every page number of a Larder. -/
def larderPages (s : State) (h : LarderHdr) : List Nat := (List.range h.classes).flatMap (classPages s h)

/-- The class of a page number. -/
def pageClass (s : State) (h : LarderHdr) (p : Nat) : Option Nat :=
  (List.range h.classes).find? (fun n => let (first, count, _) := larderClass s h n; decide (first ≤ p ∧ p < first + count))

/-! ## Threshold's free slots -/

/-- The free slots of a class of a Larder. -/
def State.freeSlots (s : State) (a n : Nat) : List Nat :=
  match s.thr.larders.find? (fun l => l.addr == a) with
  | some l => l.free.getD n []
  | none => []

/-- Replaces the free slots of a class of a Larder. -/
def State.setFreeSlots (s : State) (a n : Nat) (l : List Nat) : State :=
  s.modThr (fun t => { t with larders := t.larders.map (fun x =>
    if x.addr = a then { x with free := modifyAt (fun _ => l) x.free n } else x) })

/-- A Larder comes into use: its FREE pages' slots are Threshold's free lists, unless they are held already. -/
def openLarder (a : Nat) (s : State) : State :=
  if a = 0 ∨ s.thr.larders.any (fun l => l.addr == a) then s
  else
    let h := larderHdr s a
    let free := (List.range 4).map (fun n => if n < h.classes then
      ((classPages s h n).map (pageEntry s h)).filterMap (fun e => if e.state = 0 ∧ e.addr % 2 ^ 48 ≠ 0 then some e.addr else none) else [])
    s.modThr (fun t => { t with larders := t.larders ++ [{ addr := a, free := free }] })

/-- A Larder that no job uses any longer is forgotten. -/
def closeLarders (s : State) : State :=
  s.modThr (fun t => { t with larders := t.larders.filter (fun l =>
    (List.finRange 8).any (fun j => (s.jobs.get j).st != .free && (s.jobs.get j).desc.larder == l.addr)) })

/-- The Larder of a room's job; none when it has none. -/
def roomLarder (s : State) (r : RoomId) : Option LarderHdr :=
  match (s.room r).job with
  | some j => let a := (s.jobs.get j).desc.larder
              if a = 0 then none else some (larderHdr s a)
  | none => none

/-- Whether a page is RESIDENT. -/
def pageResident (s : State) (h : Option LarderHdr) (p : Nat) : Bool :=
  match h with
  | some h => (pageEntry s h p).state == 1
  | none => false

/-- Pages that a stream's owner field counts as held change by n (R228). -/
def addHeld (i : Nat) (up : Bool) (s : State) : State :=
  if i < ledgerSize ∧ s.led i Led.state ≠ Led.FREE then
    s.setLed i Led.held (if up then s.led i Led.held + 1 else s.led i Led.held - 1)
  else s

/-! ## Victims -/

/-- Whether the ring of a stream's log still holds position 0 (R172, R252). -/
def ringFromZero (s : State) (i : Nat) : Bool :=
  decide (s.led i Led.fed ≤ s.dnum (s.atticKey i + 0x28) 4)

/-- The streams that may lose pages, in order: BULK, BACKGROUND, INTERACTIVE, and within a class the stream placed longest
ago (R171, R238). -/
def victimStreams (s : State) : List Nat :=
  let ok (c : Nat) : List Nat := sortBy (fun a b => decide (s.led a Led.lastStep ≤ s.led b Led.lastStep))
    (s.streams.filter (fun i => s.classOf i == c && s.led i Led.state != Led.ACTIVE && ringFromZero s i))
  ok 3 ++ ok 2 ++ ok 1

/-- Whether a page is a list's pinned sink (R167, R171, log entry 39). -/
def pagePinned (s : State) (h : LarderHdr) (p : Nat) : Bool := s.thr.larders.any (fun l => l.addr == h.addr && l.pinned.contains p)

/-- Changes what Threshold holds of a Larder. -/
def State.modLarder (s : State) (a : Nat) (f : Larder → Larder) : State :=
  s.modThr (fun t => { t with larders := t.larders.map (fun x => if x.addr = a then f x else x) })

/-- A `pa.pageset` shows whether the first page of its list is a pinned sink (R167). -/
def notePinned (h : LarderHdr) (p : Nat) (sink : Bool) (s : State) : State :=
  s.modLarder h.addr (fun l => { l with pinned := l.pinned.filter (· != p) ++ (if sink then [p] else []) })

/-- The victim page of a stream in a class: its RESIDENT page of lowest position base that is not pinned (R171). -/
def victimPage (s : State) (h : LarderHdr) (n i : Nat) : Option Nat :=
  let own := (classPages s h n).filter (fun p => let e := pageEntry s h p; e.state == 1 && e.owner == i && !pagePinned s h p)
  own.foldl (fun best p => match best with
    | none => some p
    | some b => if (pageEntry s h p).base < (pageEntry s h b).base then some p else some b) none

/-- Where a spilled page lies in the spill tier (log entry 38). -/
def spillAddr (s : State) (h : LarderHdr) (p : Nat) : Nat :=
  h.tier + p * ((List.range h.classes).map (fun n => (larderClass s h n).2.2)).foldl max 0

/-- Whether a page can become a victim: in spill mode its place must lie in the tier. -/
def canSpill (s : State) (h : LarderHdr) (p size : Nat) : Bool :=
  !h.spill || decide (spillAddr s h p + size ≤ h.tier + h.tierSize)

/-- A page with bytes becomes DROPPED: its score is kept, and what its header had (R171, R172). -/
def dropPage (h : LarderHdr) (p : Nat) (s : State) : State :=
  let e := pageEntry s h p
  let keep := (p, s.dnum (e.addr + 5) 1, s.dnum (e.addr + 7) 1)
  (setPageEntry h p { e with addr := e.addr / 2 ^ 16 * 2 ^ 16 + s.dnum (e.addr + 0x10) 2, state := 2 } s).modLarder h.addr
    (fun l => { l with dropped := l.dropped.filter (fun d => d.1 != p) ++ [keep] })

/-- The slot of a page that was RESIDENT is free. -/
def freePageSlot (h : LarderHdr) (n : Nat) (e : PageEntry) (s : State) : State :=
  addHeld e.owner false (s.setFreeSlots h.addr n (s.freeSlots h.addr n ++ [e.addr]))

/-- A page becomes a victim: DROPPED with its score kept, or SPILLED with its bytes copied; its slot is free (R171). -/
def takeVictim (h : LarderHdr) (n p : Nat) (s : State) : State :=
  let e := pageEntry s h p
  let size := (larderClass s h n).2.2
  let s1 :=
    if h.spill then
      let a := spillAddr s h p
      (setPageEntry h p { e with addr := a, state := 3 } (hubWrite a (s.dbytes e.addr size) s)).satFld Reg.thrLarder 16 16 1
    else (dropPage h p s).satFld Reg.thrLarder 0 16 1
  freePageSlot h n e s1

/-- The page of a class that becomes a victim next (R171). -/
def victimOf (s : State) (h : LarderHdr) (n : Nat) : Option Nat :=
  (victimStreams s).findSome? (fun i => (victimPage s h n i).filter (fun p => canSpill s h p (larderClass s h n).2.2))

/-- With a class's free list empty, one victim is taken if there is one (R171). -/
def makeRoom (h : LarderHdr) (n : Nat) (s : State) : State :=
  if !(s.freeSlots h.addr n).isEmpty then s
  else
    match victimOf s h n with
    | some p => takeVictim h n p s
    | none => s

/-! ## Taking and returning -/

/-- Takes a free slot of a class, if there is one or a victim gives one. -/
def takeSlot (h : LarderHdr) (n : Nat) (s : State) : Option Nat × State :=
  let s1 := makeRoom h n s
  match pickOf (s1.freeSlots h.addr n) s1 with
  | (some a, s2) => (some a, s2.setFreeSlots h.addr n ((s2.freeSlots h.addr n).erase a))
  | (none, s2) => (none, s2)

/-- Pages that other streams of a Larder may still take within their reservations (R173). -/
def heldBack (s : State) (h : LarderHdr) (i : Nat) : Nat :=
  let js := (List.finRange 8).filter (fun j => (s.jobs.get j).st != .free && (s.jobs.get j).desc.larder == h.addr)
  ((js.flatMap s.streamsOf).map (fun x => if x = i then 0 else s.led x Led.reserved - s.led x Led.held)).foldl (· + ·) 0

/-- The classes whose slots hold a page of so many bytes, smallest slot first (R163). -/
def classesFor (s : State) (h : LarderHdr) (size : Nat) : List Nat :=
  sortBy (fun a b => decide ((larderClass s h a).2.2 ≤ (larderClass s h b).2.2))
    ((List.range h.classes).filter (fun n => decide (size ≤ (larderClass s h n).2.2)))

/-- Takes a page of a class: a FREE number of the class and a slot, RESIDENT from then on (R163, R168). -/
def takeIn (h : LarderHdr) (e : PageEntry) (n : Nat) (s : State) : Option Nat × State :=
  match pickOf ((classPages s h n).filter (fun p => (pageEntry s h p).state == 0)) s with
  | (none, s1) => (none, s1)
  | (some p, s1) =>
    match takeSlot h n s1 with
    | (none, s2) => (none, s2)
    | (some a, s2) => (some p, addHeld e.owner true (setPageEntry h p { e with addr := a, state := 1 } s2))

/-- The first class of a list that has a page. -/
def takeFirst (h : LarderHdr) (e : PageEntry) : List Nat → State → Option Nat × State
  | [], s => (none, s)
  | n :: t, s =>
    match takeIn h e n s with
    | (none, s1) => takeFirst h e t s1
    | x => x

/-- Takes a page for its owner (R163, R173). Within the owner's reservation it comes from the smallest class that has one; beyond
it, from the smallest class alone, and what the other reservations need is held back unless a victim gives its slot (log entry 121). -/
def takePage (h : LarderHdr) (size : Nat) (e : PageEntry) (s : State) : Option Nat × State :=
  match classesFor s h size with
  | [] => (none, s)
  | n :: t =>
    if s.led e.owner Led.held < s.led e.owner Led.reserved then takeFirst h e (n :: t) s
    else if heldBack s h e.owner < (s.freeSlots h.addr n).length then takeIn h e n s
    else
      match victimOf s h n with
      | some p => takeIn h e n (takeVictim h n p s)
      | none => (none, s)

/-- A page returns to the free list (R170). -/
def returnPage (h : LarderHdr) (p : Nat) (s : State) : State :=
  let e := pageEntry s h p
  match pageClass s h p with
  | none => s
  | some n =>
    let s1 := (setPageEntry h p { e with state := 0 } s).modLarder h.addr (fun l =>
      { l with pinned := l.pinned.filter (· != p), dropped := l.dropped.filter (fun d => d.1 != p) })
    if e.state = 1 then freePageSlot h n e s1 else s1

/-- Returns every page that a job's step freed (R170). -/
def returnFreed (j : SlotId) (s : State) : State :=
  let b := s.jobs.get j
  let s1 := if b.desc.larder = 0 then s else b.freed.foldl (fun s p => returnPage (larderHdr s b.desc.larder) p s) s
  { s1 with jobs := s1.jobs.set j { (s1.jobs.get j) with freed := [] } }

/-- A spilled page is fetched back into a new slot (R171). -/
def prefetchPage (h : LarderHdr) (p : Nat) (s : State) : State :=
  let e := pageEntry s h p
  match pageClass s h p with
  | none => s
  | some n =>
    if e.state ≠ 3 then s
    else
      match takeSlot h n s with
      | (none, s1) => s1
      | (some a, s1) =>
        let s2 := hubWrite a (s1.dbytes e.addr (larderClass s1 h n).2.2) s1
        addHeld e.owner true (setPageEntry h p { e with addr := a, state := 1 } s2)

/-- Bytes whose values the spec leaves open: one free choice each. -/
def freeBytes (n : Nat) (s : State) : List Byte × State :=
  ((List.range n).map (fun i => BitVec.ofNat 8 (Config.pick (s.free + i))), { s with free := s.free + n })

/-- The scale form and the head dimension's code of a page that is recomputed: as its header had them when it was dropped; of a page
that Threshold has not dropped itself, any that its tag allows (R160, R161, log entry 40). -/
def droppedForm (h : LarderHdr) (p tag : Nat) (s : State) : (Nat × Nat) × State :=
  match (s.thr.larders.find? (fun l => l.addr == h.addr)).bind (fun l => l.dropped.find? (fun d => d.1 == p)) with
  | some d => (d.2, s)
  | none =>
    let (form, s1) := pickOf ((List.range 3).filter (tagForm tag)) s
    let (dim, s2) := pickOf [0, 1, 2] s1
    ((form.getD 0, dim.getD 0), s2)

/-- A recompute chunk regenerates a dropped page in a new slot: its header as recorded, its keys and values free, since
they agree with the originals only within a bound on sums that no page holds (R122, R172, log entry 40). -/
def recomputePage (h : LarderHdr) (p : Nat) (s : State) : State :=
  let e := pageEntry s h p
  match pageClass s h p with
  | none => s
  | some n =>
    if e.state ≠ 2 then s
    else
      match takeSlot h n s with
      | (none, s1) => s1
      | (some a, s1) =>
        let score := e.addr % 2 ^ 16
        let (fd, s2) := droppedForm h p (e.headTag / 16) s1
        let (body, s3) := freeBytes ((larderClass s1 h n).2.2 - 64) s2
        let head := bytesOfNat 4 0x45474150 ++ bytesOfNat 1 (e.headTag / 16) ++ bytesOfNat 1 fd.1 ++ bytesOfNat 1 e.count ++
          bytesOfNat 1 fd.2 ++ bytesOfNat 8 (64 * e.base) ++ bytesOfNat 2 score ++ bytesOfNat 2 0 ++ bytesOfNat 4 p ++
          bytesOfNat 2 e.owner ++ bytesOfNat 1 e.layer ++ bytesOfNat 1 (e.headTag % 16) ++ bytesOfNat 36 0
        let s4 := (hubWrite a (head ++ body) s3).modLarder h.addr (fun l => { l with dropped := l.dropped.filter (fun d => d.1 != p) })
        addHeld e.owner true (setPageEntry h p { e with addr := a, state := 1 } s4)

/-- A stream comes back from its anchor, which holds no pages (R327): with a log from position 0 its pages are DROPPED, to be regenerated
from the log (R172); else they are gone (log entry 132). -/
def pagesFromAnchor (i : Nat) (fromZero : Bool) (s : State) : State :=
  s.thr.larders.foldl (fun s l =>
    let h := larderHdr s l.addr
    ((larderPages s h).filter (fun p => let e := pageEntry s h p; e.state != 0 && e.owner == i)).foldl (fun s p =>
      let e := pageEntry s h p
      if !fromZero then returnPage h p s
      else if e.state = 1 then freePageSlot h ((pageClass s h p).getD 0) e (dropPage h p s)
      else if e.state = 3 then dropPage h p s
      else s) s) s

/-- The pages of a stream's lists that are not RESIDENT, by state. -/
def pagesIn (s : State) (h : LarderHdr) (i st : Nat) : List Nat :=
  (larderPages s h).filter (fun p => let e := pageEntry s h p; e.state == st && e.owner == i)

/-- Whether a stream's pages are all RESIDENT: it may be placed (R171). -/
def pagesReady (s : State) (j : SlotId) (i : Nat) : Bool :=
  let a := (s.jobs.get j).desc.larder
  a == 0 || (let h := larderHdr s a
             (pagesIn s h i 2).isEmpty && (pagesIn s h i 3).isEmpty)

end Sys2Proof.Machine
end

