-- ==== Sys2Proof/Machine/Images.lean ====
section
/-! DEFINITION. Job images in DRAM (11_instruction_set.md, R272-R276, R278): the job descriptor, the step-program image,
the schedule image and the sync table, and the checks that admission makes of them. -/

namespace Sys2Proof.Machine

/-- A magic, version 1 and a CRC-32C over an image but its own four bytes (R128, R272, R274, R275). -/
def imageOk (s : State) (a magic crcAt size : Nat) : Bool :=
  s.dnum a 4 == magic && s.dnum (a + 4) 2 == 1 && decide (crcAt + 4 ≤ size) &&
    s.dnum (a + crcAt) 4 == crc32c (s.dbytes a crcAt ++ s.dbytes (a + crcAt + 4) (size - crcAt - 4))

/-- The fields of a job descriptor (R272), at a DRAM key; the images that it names lie in the same context (R188). -/
def jobDesc (s : State) (a : Nat) : JobDesc :=
  let f (off n : Nat) : Nat := s.dnum (a + off) n
  let larder := f 0x20 8 % 2 ^ 48
  { addr := a, ctx := f 6 1 % 32, resident := bitAt (f 7 1) 0, ckpt := bitAt (f 7 1) 1,
    prog := inCtx a (f 8 8), sched := inCtx a (f 0x10 8), sync := inCtx a (f 0x18 8), larder := if larder = 0 then 0 else inCtx a larder,
    pantryBase := f 0x28 4, pantrySize := f 0x2C 4, lampOff := f 0x30 4, weightOff := f 0x34 4, weightSize := f 0x38 4,
    chans := f 0x3C 1, stepCh := f 0x3D 1, rooms := f 0x3E 1, parts := f 0x3F 1, chest0 := f 0x40 4, partSize := f 0x44 4,
    stepOff := f 0x48 4, panes := (List.range 16).map (fun i => f (0x50 + 8 * i) 8) }

/-- The fields of a schedule image (R275). -/
def schedOf (s : State) (a : Nat) : Sched :=
  let f (off n : Nat) : Nat := s.dnum (a + off) n
  { gangs := (List.range (f 6 1)).map (fun g => f (0x40 + 4 * g) 4), rows := f 7 1, latency := f 8 4,
    stepTime := f 0xC 4 % 2 ^ 24, readClaim := f 0x10 2, writeClaim := f 0x12 2, positions := f 0x14 2,
    larderPages := f 0x16 2, paneBytes := f 0x18 4, interval := f 0x1C 4 }

/-- One entry of a step-program image's room table (R274): code offset and length, data offset and length. -/
structure RoomImage where
  code : Nat
  codeLen : Nat
  data : Nat
  dataLen : Nat
  deriving DecidableEq, Repr

/-- The room table's entry of a logical room. -/
def roomImage (s : State) (prog l : Nat) : RoomImage :=
  let f (w : Nat) : Nat := s.dnum (prog + 0x40 + 16 * l + 4 * w) 4
  ⟨f 0, f 1, f 2, f 3⟩

/-- Bytes of a step-program image. -/
def progSize (s : State) (prog : Nat) : Nat := s.dnum (prog + 8) 4

/-- The regions of the valid panes of a pane table: store, start and end (R273). -/
def paneRegions (panes : List Nat) : List (Nat × Nat × Nat) :=
  (panes.filter (fun e => bitAt e 45)).flatMap (fun e =>
    let size := 64 * bitsOf e 28 15
    [(bitsOf e 43 1, 64 * bitsOf e 0 14, 64 * bitsOf e 0 14 + size), (bitsOf e 43 1, 64 * bitsOf e 14 14, 64 * bitsOf e 14 14 + size)])

/-- Whether no two regions overlap (R278). -/
def apart : List (Nat × Nat × Nat) → Bool
  | [] => true
  | a :: t => t.all (fun b => a.1 != b.1 || decide (a.2.2 ≤ b.2.1) || decide (b.2.2 ≤ a.2.1)) && apart t

/-- An entry of a sync table (R276). -/
structure SyncEntry where
  handle : Nat
  kind : Nat
  home : Nat
  value : Nat
  deriving DecidableEq, Repr

/-- Reads entry i of a sync table. -/
def syncEntry (s : State) (a i : Nat) : SyncEntry :=
  let e := s.dnum (a + 8 + 8 * i) 8
  ⟨bitsOf e 0 10, bitsOf e 10 4, bitsOf e 14 5, bitsOf e 32 32⟩

/-- The entries of a sync table. -/
def syncTable (s : State) (a : Nat) : List SyncEntry := (List.range (s.dnum a 2)).map (syncEntry s a)

/-- Whether a sync table is sound (R276). -/
def syncSound (s : State) (a rooms : Nat) : Bool :=
  let n := s.dnum a 2
  let es := syncTable s a
  decide (n ≤ 1024) && s.dnum (a + 2) 6 == 0 &&
    (List.range n).all (fun i => s.dnum (a + 8 + 8 * i) 8 / 2 ^ 19 % 2 ^ 13 == 0) &&
    es.all (fun e => decide (1 ≤ e.kind ∧ e.kind ≤ 3) && decide (e.home < rooms)) &&
    (es.map SyncEntry.handle).eraseDups.length == n

/-- Fields outside the ranges that R272, R274 and R275 give them fail the check of their image (log entry 44). -/
def fieldsOk (s : State) (d : JobDesc) (c : Sched) : Bool :=
  let size := progSize s d.prog
  decide (1 ≤ d.rooms ∧ d.rooms ≤ 32) && decide (1 ≤ d.chans ∧ d.chans ≤ 8) && decide (d.stepCh < d.chans) &&
    decide (d.parts ≤ 32) && s.dnum (d.prog + 6) 1 == d.rooms && decide (0x40 + 16 * d.rooms ≤ size) &&
    decide (1 ≤ c.gangs.length ∧ c.gangs.length ≤ 16) && decide (1 ≤ c.rows ∧ c.rows ≤ 64) &&
    (c.positions == 0 || decide (16 ≤ c.positions ∧ c.positions ≤ 256)) &&
    (List.range d.rooms).all (fun l =>
      let e := roomImage s d.prog l
      e.codeLen % 8 == 0 && decide (e.code + e.codeLen ≤ size) && decide (e.data + e.dataLen ≤ size))

/-- The checks of R278 on the images that a submission names. -/
def imagesOk (s : State) (a : Nat) : Bool :=
  let d := jobDesc s a
  let c := schedOf s d.sched
  imageOk s a 0x44424F4A 0xFC 0x100 && imageOk s d.prog 0x50534946 0x3C (progSize s d.prog) &&
    imageOk s d.sched 0x44484353 0x3C (0x40 + 4 * s.dnum (d.sched + 6) 1) && fieldsOk s d c &&
    (List.range d.rooms).all (fun l => decide ((roomImage s d.prog l).codeLen ≤ 0x10000)) &&
    apart (paneRegions d.panes) && syncSound s d.sync d.rooms

end Sys2Proof.Machine
end

