-- ==== Sys2Proof/Machine/Meters.lean ====
section
/-! DEFINITION. The block meters (15_window_study.md, R350): the route of a packet (R10, R11), and the 64 B units that pass the
memory ports and the Hall links in the present window (log entry 53). -/

namespace Sys2Proof.Machine

/-- Hops between two rooms under dimension-order routing (R10, R11). -/
def hops (a b : Nat) : Nat :=
  let d (x y : Nat) : Nat := if x ≤ y then y - x else x - y
  d (a % 4) (b % 4) + d (a / 4) (b / 4)

/-- The link directions, 2i + d, that a packet takes from one room to another: along the row first (R11, R350). -/
def linkPath (a b : Nat) : List Nat :=
  let (ca, ra, cb, rb) := (a % 4, a / 4, b % 4, b / 4)
  let span (x y : Nat) : List Nat := (List.range (max x y - min x y)).map (fun i => min x y + i)
  (span ca cb).map (fun c => 2 * (ra * 3 + c) + b2n (decide (cb < ca))) ++
    (span ra rb).map (fun r => 2 * (24 + r * 4 + cb) + b2n (decide (rb < ra)))

/-- The hub's link that is nearest a room, and its room (R10, R369). -/
def hubLink (r : Nat) : Nat × Nat :=
  [(52, 13), (53, 14), (54, 17), (55, 18)].foldl (fun b x => if hops r x.2 < hops r b.2 then x else b) (52, 13)

/-- The link directions from the hub to a room, and from a room to the hub. -/
def fromHub (r : Nat) : List Nat := let (l, a) := hubLink r
  (2 * l) :: linkPath a r
def toHub (r : Nat) : List Nat := let (l, a) := hubLink r
  linkPath r a ++ [2 * l + 1]

/-- Whether the block meters (R350): a window of 0 stops it. -/
def metering (s : State) : Bool := s.fld Reg.winMeterCtl 0 24 != 0

/-- Adds units to meters, saturating (R350). -/
def addMeters (ms : List Nat) (units : Nat) (l : List (Nat × Nat)) : List (Nat × Nat) :=
  ms.foldl (fun l m => sset 0 l m (min (2 ^ 32 - 1) (sget 0 l m + units))) l

/-- Bytes pass a list of link directions. -/
def meterLinks (path : List Nat) (bytes : Nat) (s : State) : State :=
  if metering s then { s with win := { s.win with links := addMeters path (ceilDiv bytes 64) s.win.links } } else s

/-- A line passes a memory port: two units. -/
def meterPort (port : Nat) (write : Bool) (s : State) : State :=
  if metering s then { s with win := { s.win with ports := addMeters [2 * port + b2n write] 2 s.win.ports } } else s

/-- A room's line passes a memory port, and the Hall between the hub and the room. -/
def meterLine (port : Nat) (write : Bool) (r : Nat) (s : State) : State :=
  meterLinks (if write then toHub r else fromHub r) 128 (meterPort port write s)

/-- Bytes pass from a room to the target of a remote operation, or back: the Pantry is at the hub. -/
def meterOp (src : RoomId) (room : Option RoomId) (back : Bool) (bytes : Nat) (s : State) : State :=
  match room, back with
  | some t, false => meterLinks (linkPath src.val t.val) bytes s
  | some t, true => meterLinks (linkPath t.val src.val) bytes s
  | none, false => meterLinks (toHub src.val) bytes s
  | none, true => meterLinks (fromHub src.val) bytes s

/-- The links of a multicast packet's tree (R198): it leaves the hub once, by the attachment nearest the first of its receivers (log
entry 124), and each receiver's path goes on from there. -/
def mcastTree (rooms : List Nat) : List Nat :=
  match rooms with
  | [] => []
  | r :: _ => let (l, a) := hubLink r
              (2 * l :: rooms.flatMap (linkPath a)).eraseDups

/-- A multicast packet passes each link of its tree once (R198). -/
def meterTree (rooms : List Nat) (bytes : Nat) (s : State) : State := meterLinks (mcastTree rooms) bytes s

end Sys2Proof.Machine
end

