-- ==== Sys2Proof/Machine/Hall.lean ====
section
/-! DEFINITION. The Hall's remote operations (08_memory_movement.md): hops, packets on their way, what each does at its
target, and its acknowledgement (R11, R13, R196, R197). -/

namespace Sys2Proof.Machine

/-- Whether an operation was sent by the hub, as packets of a multicast are. -/
def HallOp.hub (o : HallOp) : Bool :=
  match o.owner with
  | .mcast _ => true
  | _ => false

/-- Whether two operations come from one source and go to one target: the Hall delivers them in order (R11). -/
def HallOp.sameWay (a b : HallOp) : Bool := a.room == b.room && a.hub == b.hub && (a.hub || a.src == b.src)

/-- Whether the operation at a place of the list is the first one not yet applied from its source to its target. -/
def hallFirst (l : List HallOp) (n : Nat) : Bool :=
  match l[n]? with
  | none => false
  | some o => !o.done && (l.take n).all (fun p => p.done || !p.sameWay o)

/-- Each word of `w` bytes is replaced by the wrapping sum with a list of addends (R196). -/
def addWords (w : Nat) : List Nat → List Nat → List Byte
  | x :: xs, y :: ys => bytesOfNat w ((x + y) % 2 ^ (8 * w)) ++ addWords w xs ys
  | _, _ => []

/-- What an operation does at its target: the bytes it brings back, for a read-return (R196). -/
def hallAct (o : HallOp) : Op (List Byte) :=
  match o.act with
  | .write bs => do storeBytes o.room o.store o.off bs; pure []
  | .add ws int64 => do
    let w := if int64 then 8 else 4
    let old ← loadBytes o.room o.store o.off (w * ws.length)
    storeBytes o.room o.store o.off (addWords w ws ((chunksOf w old).map natOfBytes))
    pure []
  | .read n => loadBytes o.room o.store o.off n

/-- The bytes of a multicast packet have landed at its receiver (R200). -/
def mcastLanded (o : HallOp) (s : State) : State :=
  match o.owner, o.room, o.act with
  | .mcast id, some r, .write bs =>
    { s with mcasts := s.mcasts.map (fun m => if m.id = id then
        { m with recv := m.recv.map (fun x => if x.room = r then { x with acked := x.acked + bs.length } else x) } else m) }
  | _, _, _ => s

/-- The bytes of an operation's data that pass the Hall: a multicast's are metered as it is sent. -/
def meterAct (o : HallOp) (s : State) : State :=
  if o.hub then s
  else match o.act with
    | .write bs => meterOp o.src o.room false bs.length s
    | .add ws int64 => meterOp o.src o.room false (ws.length * (if int64 then 8 else 4)) s
    | .read n => meterOp o.src o.room true n s

/-- Applies the operation at a place of the list: what it does at its target, and that it is done. A fault there is raised
in the room that issued it (R179). -/
def hallApply (n : Nat) (s : State) : State :=
  match s.hall[n]? with
  | none => s
  | some o =>
    match hallAct o s with
    | .ok reply s0 =>
      let s1 := meterAct o s0
      let s2 := mcastLanded o { s1 with hall := modifyAt (fun x => { x with done := true, reply := reply }) s1.hall n }
      if o.hub then { s2 with hall := s2.hall.eraseIdx n } else s2
    | .error e s1 => raise o.src o.pc e { s1 with hall := s1.hall.eraseIdx n }

/-- Applies every operation on its way from a room to a target, in order: what a load of that room from that target
follows (R11). -/
def hallFlushTo (r : RoomId) (target : Option RoomId) : Nat → State → State
  | 0, s => s
  | k + 1, s =>
    match s.hall.findIdx? (fun o => !o.done && !o.hub && o.src == r && o.room == target) with
    | none => s
    | some n => hallFlushTo r target k (hallApply n s)

/-- Applies every operation on its way from a room to a target. -/
def hallFlush (r : RoomId) (target : Option RoomId) (s : State) : State := hallFlushTo r target s.hall.length s

/-- The room that a place belongs to, as a target of the Hall. -/
def Place.target : Place → Option RoomId
  | .room r _ _ => some r
  | _ => none

/-- Whether a place is served in the issuing room itself and never enters the Hall (R19). -/
def Place.isLocal (p : Place) (r : RoomId) : Bool :=
  match p with
  | .room q _ _ => q == r
  | _ => false

/-- The store and offset of a place. -/
def Place.at_ : Place → Store × Nat
  | .room _ st off => (st, off)
  | .pantry off => (.pantry, off)
  | .sync h => (.pantry, h)

/-- Bytes of one packet of the Hall, at most (R196). -/
def packetBytes : Nat := 256

/-- Sends bytes to a place as remote writes of at most 256 B each (R196). -/
def sendWrites (r : RoomId) (p : Place) (bs : List Byte) (w : Owner) (pc : Nat) (s : State) : State :=
  let (st, off) := p.at_
  { s with hall := s.hall ++ (chunksOf packetBytes bs).zipIdx.map (fun c =>
      { src := r, room := p.target, store := st, off := off + packetBytes * c.2, act := .write c.1, owner := w, pc := pc }) }

/-- The acknowledgement of an applied operation returns to its source: it leaves the list, and a queue entry whose last
operation it was is complete (R197). -/
def hallAck (n : Nat) (s : State) : State :=
  match s.hall[n]? with
  | none => s
  | some o =>
    if !o.done then s
    else
      let s1 := { s with hall := s.hall.eraseIdx n }
      match o.owner with
      | .entry id => if s1.hall.any (fun x => x.src == o.src && x.owner == .entry id) then s1 else finishEntry o.src 4 id s1
      | _ => s1

end Sys2Proof.Machine
end

