-- ==== Sys2Proof/Machine/Landing.lean ====
section
/-! DEFINITION. The Landing (09_landing.md): sync words and their operations (R213-R215), watches and wakes (R218-R222),
abandonment, binding and clearing (R223-R225), and the barrier wires (R205-R210). -/

namespace Sys2Proof.Machine

/-! ## Sync words -/

/-- The physical sync words (R212). -/
def syncWords : Nat := 16384

/-- The word at a physical index (R213). -/
def State.word (s : State) (w : Nat) : Word64 := sget 0 s.land.words w
/-- Replaces a word, with fresh check bits (R177, R180). -/
def State.setWord (s : State) (w : Nat) (v : Word64) : State :=
  { s with land := { s.land with words := sset 0 s.land.words w v, ecc := sset 0 s.land.ecc w 0 } }

/-- [63:60] kind: 0 free, 1 counter, 2 flag, 3 claim (R213). -/
def wordKind (v : Word64) : Nat := bitsOf v.toNat 60 4
/-- [58] abandoned. -/
def wordAbandoned (v : Word64) : Bool := v.getLsbD 58
/-- [31:0] value. -/
def wordValue (v : Word64) : Nat := bitsOf v.toNat 0 32
/-- [55:51] host context of the owner. -/
def wordCtx (v : Word64) : Nat := bitsOf v.toNat 51 5
/-- [50:32] the owning job's number, or 0x7_FFFF. -/
def wordJob (v : Word64) : Nat := bitsOf v.toNat 32 19
/-- The word with another value. -/
def wordWith (v : Word64) (x : Nat) : Word64 := BitVec.ofNat 64 (setBits v.toNat 0 32 x)
/-- The word with one of its state bits set. -/
def wordSet (v : Word64) (bit : Nat) : Word64 := v ||| BitVec.ofNat 64 (2 ^ bit)

/-- A bound word (R213). -/
def mkWord (kind ctx job value : Nat) : Word64 :=
  BitVec.ofNat 64 (kind % 16 * 2 ^ 60 + ctx % 32 * 2 ^ 51 + job % 2 ^ 19 * 2 ^ 32 + value % 2 ^ 32)

/-- The owner field of a word that a host context owns itself (R213). -/
def hostJob : Nat := 0x7FFFF

/-- The job slot that owns a word (R213). -/
def ownerSlot (s : State) (v : Word64) : Option SlotId :=
  (List.finRange 8).find? (fun j =>
    let b := s.jobs.get j
    b.st != .free && wordJob v != hostJob && b.number == wordJob v && b.ctx.val == wordCtx v)

/-! ## Wakes -/

/-- Writes 8 B to an address of a host context through a memory port: a watch message (R222). -/
def hostMessage (c : Ctx) (a v : Nat) (s : State) : State := hubWrite (ctxBase c.val + a) (bytesOfNat 8 v) s

/-- Issues a wake: a room slot holds it from now on, a host slot delivers it (R220-R222). -/
def wake (who : WatchFor) (value status : Nat) (s : State) : State :=
  let s1 := s.count64 Reg.landWakes 1
  match who with
  | .room r k => s1.modRoom r (fun m => { m with slots := m.slots.set k (.coming (BitVec.ofNat 32 value) status) })
  | .host c k =>
    let o (x : Nat) : Nat := ctxKey c (x + 0x20 * k.val)
    let ctl := (s.reg (o Reg.landHWslotsCtl)).toNat
    let s2 := ((s1.setFld (o Reg.landHWslotsStatus) 0 2 status).setReg (o Reg.landHWslotsValue)
      (BitVec.ofNat 32 value)).setFld (o Reg.landHWslotsCtl) 16 1 0
    if bitAt ctl 12 then
      let a := s.reg64 (o Reg.landHWslotsMsg) % 2 ^ 48 / 8 * 8
      hostMessage c a (value % 2 ^ 32 + k.val * 2 ^ 32 + status % 4 * 2 ^ 38 + c.val * 2 ^ 40) s2
    else raiseCause (bitsOf ctl 13 3) 18 s2

/-- A wake with status 2 or 3: the spec gives it no value, so the value that it carries is free (log entry 26). -/
def wakeEnd (who : WatchFor) (status : Nat) (s : State) : State :=
  let (v, s1) := pickFree s
  wake who (v % 2 ^ 32) status s1

/-- Whether a watch's condition holds for a value (R218). -/
def condHolds (cond v thr : Nat) : Bool :=
  match cond with
  | 0 => decide (thr ≤ v)
  | 1 => decide (v < thr)
  | 2 => v == thr
  | _ => v != thr

/-- Disarms watches: they leave the Landing's list. -/
def State.dropWatches (s : State) (p : Watch → Bool) : State :=
  { s with land := { s.land with watches := s.land.watches.filter (fun x => !p x) } }

/-- Claim watches take claims in the order of registration while the value lasts (R220). -/
def serveClaims (w : Nat) : List Watch → State → State
  | [], s => s
  | x :: t, s =>
    let v := wordValue (s.word w)
    if v = 0 then s
    else
      let s1 := s.setWord w (wordWith (s.word w) (v - 1))
      serveClaims w t (wake x.who (v - 1) 1 (s1.dropWatches (fun y => y == x)))

/-- The watches of a word are evaluated after an operation on it (R220). -/
def evalWatches (w : Nat) (s : State) : State :=
  let on := s.land.watches.filter (fun x => x.word == w)
  let v := s.word w
  if wordKind v = 3 then serveClaims w on s
  else
    let hit := on.filter (fun x => condHolds x.cond (wordValue v) x.thr)
    hit.foldl (fun s x => wake x.who (wordValue v) 1 s) (s.dropWatches (fun x => hit.contains x))

/-- A word becomes ABANDONED: every watch armed on it wakes with status 2 and takes nothing (R223). -/
def abandonWord (w : Nat) (s : State) : State :=
  let on := s.land.watches.filter (fun x => x.word == w)
  let s1 := (s.setWord w (wordSet (s.word w) 58)).dropWatches (fun x => x.word == w)
  on.foldl (fun s x => wakeEnd x.who 2 s) s1

/-- A word returns to the free pool with kind 0 and value 0 (R225). -/
def freeWord (w : Nat) (s : State) : State := s.setWord w 0

/-! ## Operations -/

/-- How an operation on a word ended (R214, R215, R223). -/
inductive SyncEnd where
  | done | kindError | high | low | dropped | free
  deriving DecidableEq, Repr

/-- A new value held to the range of a counter or a claim (R215). -/
def holdValue (v : Word64) (x : Int) : Word64 × SyncEnd :=
  if x > 0xFFFFFFFF then (wordSet (wordWith v 0xFFFFFFFF) 56, .high)
  else if x < 0 then (wordSet (wordWith v 0) 57, .low)
  else (wordWith v x.toNat, .done)

/-- What an operation makes of a word, by its kind (R214). -/
def syncResult (v : Word64) (act : SyncDo) : Word64 × SyncEnd :=
  match act, wordKind v with
  | .signal, 1 => holdValue v ((wordValue v : Int) + 1)
  | .signal, 2 => (wordWith v 1, .done)
  | .signal, 3 => holdValue v ((wordValue v : Int) + 1)
  | .add n, 1 => holdValue v ((wordValue v : Int) + n)
  | .add n, 3 => if n < 0 then (v, .kindError) else holdValue v ((wordValue v : Int) + n)
  | .set n, 2 => (wordWith v n, .done)
  | _, 0 => (v, .free)
  | _, _ => (v, .kindError)

/-- A signal, add or set reaches a word (R214, R215, R220, R223). -/
def syncApply (w : Nat) (act : SyncDo) (s : State) : State × SyncEnd :=
  let v := s.word w
  if wordKind v ≠ 0 ∧ wordAbandoned v then (s.satFld Reg.landAbandonDrops 0 32 1, .dropped)
  else
    let (v', e) := syncResult v act
    match e with
    | .kindError => (s, .kindError)
    | .free => (s, .free)
    | .dropped => (s, .dropped)
    | .done => (evalWatches w (s.setWord w v'), .done)
    | e => (evalWatches w ((s.setWord w v').satFld Reg.landSatEvents 0 32 1), e)

/-- A watch reaches its word: it wakes at once when the word is ABANDONED or its condition holds, else it is registered
(R219, R223). -/
def registerWatch (x : Watch) (s : State) : State :=
  let v := s.word x.word
  if wordAbandoned v then wakeEnd x.who 2 s
  else evalWatches x.word { s with land := { s.land with watches := s.land.watches ++ [x] } }

/-- Errors in the words of the sync store that a read meets (R177-R179): the code of the word's own error, 0 for none. -/
def syncEcc (s : State) (w : Nat) : Nat := sget 0 s.land.ecc w

/-- The error of a sync word that a room's access meets is corrected or, with two bits, stops the room and the job that owns the
word (R178, R179, R227). -/
def checkSyncWord (r : RoomId) (w : Nat) : Op Unit := do
  let s ← get
  let e : Err := ⟨.sramUncorrectable, [7, w / 512, w % 512]⟩
  if 2 ≤ syncEcc s w then
    match ownerSlot s (s.word w) with
    | some j => if (s.room r).job ≠ some j then set (hubFault 0x21 j e s)
    | none => pure ()
    throw e
  else set { s with land := { s.land with ecc := sset 0 s.land.ecc w 0 } }

/-- A room's operation is applied at its word's home: its faults are raised in that room (R214, R215, R219). -/
def applySyncOp (o : SyncOp) : Op Unit := do
  checkSyncWord o.room o.word
  match o.act with
  | .watch slot cond thr => modify (registerWatch ⟨o.word, .room o.room slot, cond, thr⟩)
  | act =>
    let (s1, e) := syncApply o.word act (← get)
    set s1
    match e with
    | .kindError | .free => illegal [o.instr]
    | .high => throw ⟨.syncOverflow, [o.handle, o.word, (s1.word o.word).toNat]⟩
    | .low => throw ⟨.syncUnderflow, [o.handle, o.word, (s1.word o.word).toNat]⟩
    | _ => pure ()

/-- Applies the operation at a place of the Landing's list. -/
def syncOpAt (n : Nat) (s : State) : State :=
  match s.land.ops[n]? with
  | none => s
  | some o => runOp o.room o.pc (applySyncOp o) { s with land := { s.land with ops := s.land.ops.eraseIdx n } }

/-- Whether the operation at a place is the first of its room on its word (R214). -/
def syncFirst (l : List SyncOp) (n : Nat) : Bool :=
  match l[n]? with
  | none => false
  | some o => (l.take n).all (fun p => p.room != o.room || p.word != o.word)

/-- Applies a room's operations on their way to one word, in order. -/
def syncFlush (r : RoomId) (w : Nat) : Nat → State → State
  | 0, s => s
  | k + 1, s =>
    match s.land.ops.findIdx? (fun o => o.room == r && o.word == w) with
    | none => s
    | some n => syncFlush r w k (syncOpAt n s)

/-- The host context of the job that a room runs. -/
def roomCtx (s : State) (r : RoomId) : Nat :=
  match (s.room r).job with
  | some j => (s.jobs.get j).ctx.val
  | none => 0

/-- The 64-bit word of the Keyring that holds an entry of a context (R177, R179). -/
def keyPlace (c h : Nat) : Nat := (c * 1024 + h) / 2

/-- Whether the Keyring word of an entry has a double-bit error (R179). -/
def keyBad (s : State) (c h : Nat) : Bool := decide (2 ≤ sget 0 s.land.krEcc (keyPlace c h))

/-- The Keyring word of an entry is read and its single-bit error corrected (R178); one with two bits in error keeps it. -/
def keyFix (c h : Nat) (s : State) : State :=
  if keyBad s c h then s else { s with land := { s.land with krEcc := sset 0 s.land.krEcc (keyPlace c h) 0 } }

/-- Writes an entry of the Keyring: half a word, so the word is read first (R177, log entry 122). -/
def keyWrite (c h v : Nat) (s : State) : State :=
  let s1 := keyFix c h s
  { s1 with land := { s1.land with keyring := sset 0 s1.land.keyring (c * 1024 + h) v } }

/-- The physical word of a handle in the context of a room's job; HANDLE_INVALID when it is not bound (R20, R21). -/
def roomWord (r : RoomId) (h : Nat) : Op Nat := do
  let s ← get
  let c := roomCtx s r
  if keyBad s c h then throw ⟨.sramUncorrectable, [8, 0, keyPlace c h]⟩
  else
    set (keyFix c h s)
    match s.keyWord c h with
    | some w => pure w
    | none => throw ⟨.handleInvalid, [h, c]⟩

/-- A room's operation on a handle sets out for the word's home (R214). -/
def sendSync (r : RoomId) (f : Fis) (h : Nat) (act : SyncDo) : Op Unit := do
  let w ← roomWord r h
  modify (fun s => { s with land := { s.land with ops := s.land.ops ++ [⟨r, h, w, act, (s.room r).stew.pc, (encodeFis f).toNat⟩] } })

/-! ## Binding -/

/-- The slice that a word lies in: its home (R212). -/
def wordHome (w : Nat) : Nat := w / 512

/-- The lowest free word of a slice (R212). -/
def freeIn (s : State) (slice : Nat) : Option Nat :=
  ((List.range 512).map (fun i => slice * 512 + i)).find? (fun w => wordKind (s.word w) == 0)

/-- The slices in the order in which a word looks for room: fewest hops first, ties to the lower room (R212). -/
def slicesFrom (want : Nat) : List Nat :=
  (List.range 11).flatMap (fun h => (List.range 32).filter (fun r => hops want r == h))

/-- The free word that a binding with a wanted home takes (R212). -/
def findWord (s : State) (want : Nat) : Option Nat := (slicesFrom want).findSome? (freeIn s)

/-- Words that are not free. -/
def usedWords (s : State) : Nat := (s.land.words.filter (fun p => wordKind p.2 != 0)).length

/-- Binds a handle of a context: a free word, its Keyring entry, and the word itself (R212, R213, R224); none when no word
is free. -/
def bindHandle (c h kind job home want value : Nat) (s : State) : Option State :=
  match findWord s want with
  | none => none
  | some w =>
    let s2 := keyWrite c h (w % 2 ^ 14 + 2 ^ 14 + home % 32 * 2 ^ 15) (s.setWord w (mkWord kind c job value))
    some (if wordHome w = want then s2 else s2.satFld Reg.landRehomeMiss 0 32 1)

/-- Invalidates a Keyring entry. -/
def dropHandle (c h : Nat) (s : State) : State := keyWrite c h 0 s

/-- The words that satisfy a condition, in ascending order. -/
def wordsWhere (s : State) (p : Word64 → Bool) : List Nat :=
  (s.land.words.filter (fun x => wordKind x.2 != 0 && p x.2)).map Prod.fst

/-- A job's words become ABANDONED, and its operations on their way are dropped (R223, R290). -/
def abandonJob (c number : Nat) (s : State) : State :=
  (wordsWhere s (fun v => wordCtx v == c && wordJob v == number)).foldl (fun s w => abandonWord w s) s

/-- Frees every word of a job, its watches waking with status 2, and its Keyring entries (R223). -/
def freeJobWords (c number : Nat) (s : State) : State :=
  let ws := wordsWhere s (fun v => wordCtx v == c && wordJob v == number)
  let s1 := ws.foldl (fun s w => freeWord w (abandonWord w s)) s
  let keys := s1.land.keyring.filter (fun e => e.1 / 1024 == c && ws.contains (bitsOf e.2 0 14))
  keys.foldl (fun s e => dropHandle c (e.1 % 1024) s) s1

/-- Disarms one host slot, waking it with a status when it was armed (R221, R225). -/
def endHostSlot (c : Ctx) (k : Fin 64) (status : Nat) (s : State) : State :=
  if s.land.watches.any (fun x => x.who == .host c k) then
    wakeEnd (.host c k) status (s.dropWatches (fun x => x.who == .host c k))
  else s

/-- Clears a host context (R225): its words are abandoned and freed, its slots disarmed with status 2, its Keyring entries
invalidated. -/
def clearContext (c : Ctx) (s : State) : State :=
  let ws := wordsWhere s (fun v => wordCtx v == c.val)
  let s1 := ws.foldl (fun s w => abandonWord w s) s
  let s2 := (List.finRange 64).foldl (fun s k => endHostSlot c k 2 s) s1
  let s3 := ws.foldl (fun s w => freeWord w s) s2
  { s3 with land := { s3.land with keyring := s3.land.keyring.filter (fun e => e.1 / 1024 != c.val),
                                   krEcc := s3.land.krEcc.filter (fun e => e.1 / 512 != c.val) } }

/-! ## Barriers -/

/-- One barrier channel. -/
def State.bar (s : State) (ch : ChanId) : Barrier := s.land.bars.get ch
/-- Changes one barrier channel. -/
def State.modBar (s : State) (ch : ChanId) (f : Barrier → Barrier) : State :=
  { s with land := { s.land with bars := s.land.bars.set ch (f (s.land.bars.get ch)) } }

/-- The members of a channel that have not arrived in the current epoch, the Porch in bit 32 (R206). -/
def barMissing (s : State) (ch : ChanId) : Nat :=
  let b := s.bar ch
  let rooms := (List.finRange 32).foldl (fun n (r : RoomId) =>
    if b.members.getLsbD r.val && (s.room r).sense.get ch != b.e then n + 2 ^ r.val else n) 0
  rooms + (if b.members.getLsbD 32 && b.porch != b.e then 2 ^ 32 else 0)

/-- The member mask written for a channel, in force from its next release (R209). -/
def writtenMembers (s : State) (ch : ChanId) : BitVec 33 :=
  BitVec.ofNat 33 (s.reg64 (Reg.landBarnMembers + 0x20 * ch.val) % 2 ^ 33)

/-- A room arrives: its sense bit toggles (R206). -/
def arriveBar (r : RoomId) (ch : ChanId) (s : State) : State :=
  (s.modRoom r (fun m => { m with sense := m.sense.set ch (!m.sense.get ch), awaiting := m.awaiting.set ch true })).modBar ch
    (fun b => { b with arrived := b.arrived || b.members.getLsbD r.val })

/-- The physical channel that a room's channel map gives a logical one (R271). -/
def mapChan (s : State) (r : RoomId) (l : Nat) : Option ChanId :=
  let v := s.fld (rreg r Reg.roomChmap) (4 * l) 4
  if bitAt v 3 then some (Fin.ofNat 8 (v % 8)) else none

/-- Members that the written mask adds or removes: an added room's sense becomes the opposite of E (R209). -/
def joinMembers (ch : ChanId) (s : State) : State :=
  let b := s.bar ch
  let new := writtenMembers s ch
  let s1 := (List.finRange 32).foldl (fun s (r : RoomId) =>
    if new.getLsbD r.val && !b.members.getLsbD r.val then
      s.modRoom r (fun m => { m with sense := m.sense.set ch (!b.e), awaiting := m.awaiting.set ch false })
    else s) s
  let porch := if new.getLsbD 32 && !b.members.getLsbD 32 then !b.e else b.porch
  s1.modBar ch (fun x => { x with members := new, porch := porch })

/-- A channel releases: E toggles, the epoch counts, every member's arrival has its release, and the mask written for it
takes effect (R206, R209). -/
def releaseBar (ch : ChanId) (s : State) : State :=
  let b := s.bar ch
  let s1 := s.modBar ch (fun x => { x with e := !b.e, arrived := false })
  let s2 := s1.setReg (Reg.landBarnEpoch + 0x20 * ch.val) (s1.reg (Reg.landBarnEpoch + 0x20 * ch.val) + 1)
  let s3 := (List.finRange 32).foldl (fun s (r : RoomId) =>
    if b.members.getLsbD r.val then s.modRoom r (fun m => { m with awaiting := m.awaiting.set ch false }) else s) s2
  joinMembers ch s3

end Sys2Proof.Machine
end

