-- ==== Sys2Proof/Machine/Scalar.lean ====
section
/-! DEFINITION. The Steward's scalar, memory, branch and system instructions (R255, R262-R264, R270), one definition for
each: what it does once it issues. -/

namespace Sys2Proof.Machine

/-- Writes a scalar result into the register that a field names (R255). -/
def putScalar (r : RoomId) (n : RegName) (v : Word64) : Op Unit := modify (fun s => s.modStew r (fun w => w.write n v))

/-- An arithmetic instruction in either form: rd takes rs1 op rs2, or rs1 op the sign-extended immediate (R262). -/
def arith (op : Word64 → Word64 → Word64) (r : RoomId) (f : Fis) (x : FmtRI) : Op Unit := do
  let w := ((← get).room r).stew
  match x with
  | .r g =>
    if g.rsv ≠ 0 then illegalFis f
    else
      let rd ← regField f g.rd
      let a ← regField f g.rs1
      let b ← regField f g.rs2
      putScalar r rd (op (w.read a) (w.read b))
      leave r f
  | .i g =>
    if g.rsv || g.hi then illegalFis f
    else
      let rd ← regField f g.rd
      let a ← regField f g.rs1
      putScalar r rd (op (w.read a) (g.imm.signExtend 64))
      leave r f

/-- `add`: 64-bit wrapping sum. -/
def doAdd (r : RoomId) (x : FmtRI) : Op Unit := arith (· + ·) r (.add x) x
/-- `sub`: 64-bit wrapping difference. -/
def doSub (r : RoomId) (x : FmtRI) : Op Unit := arith (· - ·) r (.sub x) x
/-- `and` -/
def doAnd (r : RoomId) (x : FmtRI) : Op Unit := arith (· &&& ·) r (.and x) x
/-- `or` -/
def doOr (r : RoomId) (x : FmtRI) : Op Unit := arith (· ||| ·) r (.or x) x
/-- `xor` -/
def doXor (r : RoomId) (x : FmtRI) : Op Unit := arith (· ^^^ ·) r (.xor x) x
/-- `shl`: by the low 6 bits of the second operand. -/
def doShl (r : RoomId) (x : FmtRI) : Op Unit := arith (fun a b => a <<< (b.toNat % 64)) r (.shl x) x
/-- `shr`: logical, by the low 6 bits of the second operand. -/
def doShr (r : RoomId) (x : FmtRI) : Op Unit := arith (fun a b => a >>> (b.toNat % 64)) r (.shr x) x
/-- `mul`: the low 64 bits of the product. -/
def doMul (r : RoomId) (x : FmtRI) : Op Unit := arith (· * ·) r (.mul x) x

/-- `li`: the sign-extended immediate; with hi, the high half from the immediate and the low half kept (R262). Its rs1
field is not used and must be 0 (log entry 19). -/
def doLi (r : RoomId) (g : FmtI) : Op Unit := do
  if g.rsv ∨ g.rs1 ≠ 0 then illegalFis (.li g)
  else
    let rd ← regField (.li g) g.rd
    let old := ((← get).room r).stew.read rd
    putScalar r rd (if g.hi then g.imm ++ old.setWidth 32 else g.imm.signExtend 64)
    leave r (.li g)

/-- Bytes of a width code of `ld` and `st` (R262). -/
def widthBytes (w : BitVec 3) : Option Nat :=
  match w.toNat with
  | 0 => some 1 | 1 => some 2 | 2 => some 4 | 3 => some 8 | 4 => some 32
  | _ => none

/-- The address of an `ld` or `st`: a[base] + offset (R262). -/
def memAddr (w : Stew) (g : FmtM) : Nat := (w.areg.get (Fin.ofNat 16 g.base.toNat) + g.off).toNat

/-- The register, width and aligned address of an `ld` or `st` (R262, R263). -/
def memForm (r : RoomId) (f : Fis) (g : FmtM) : Op (RegName × Nat × Nat) := do
  match widthBytes g.width with
  | none => illegalFis f
  | some n =>
    if g.rsv ≠ 0 then illegalFis f
    else
      let rt ← regField f g.rt
      let isD := match rt with | .d _ => true | _ => false
      if n = 32 && !isD then illegalFis f
      else
        let a := memAddr ((← get).room r).stew g
        if a % n ≠ 0 then badAddr a else pure (rt, n, a)

/-- A whole d register takes 32 bytes (R255). -/
def putD (r : RoomId) (rt : RegName) (v : Nat) : Op Unit :=
  match rt with
  | .d i => modify (fun s => s.modStew r (fun w => { w with dreg := w.dreg.set i (BitVec.ofNat 256 v) }))
  | _ => pure ()

/-- `ld` (R262, R263): zero-extended; from sync space the whole word (R214); from another room or the Pantry after the
room's own remote operations on the way there (R11). -/
def doLd (r : RoomId) (g : FmtM) : Op Unit := do
  let (rt, n, a) ← memForm r (.ld g) g
  let p ← decodeAddr r a n
  match p with
  | .sync h =>
    let w ← roomWord r h
    modify (fun s => syncFlush r w s.land.ops.length s)
    checkSyncWord r w
    let v := (← get).word w
    if n = 32 then putD r rt v.toNat else putScalar r rt v
  | _ =>
    if !p.isLocal r then modify (hallFlush r p.target)
    let v := natOfBytes (← loadPlace p n)
    if n = 32 then putD r rt v else putScalar r rt (BitVec.ofNat 64 v)
  leave r (.ld g)

/-- The bytes that an `st` stores. -/
def stBytes (w : Stew) (rt : RegName) (n : Nat) : List Byte :=
  match rt with
  | .d i => if n = 32 then bytesOfNat 32 (w.dreg.get i).toNat else bytesOfNat n (w.read rt).toNat
  | _ => bytesOfNat n (w.read rt).toNat

/-- `st` (R262, R263): a local store lands at once, another is a remote write of class H, and sync space is illegal. -/
def doSt (r : RoomId) (g : FmtM) : Op Unit := do
  let (rt, n, a) ← memForm r (.st g) g
  let p ← decodeAddr r a n
  let w := ((← get).room r).stew
  match p with
  | .sync _ => illegalFis (.st g)
  | _ =>
    if p.isLocal r then storePlace p (stBytes w rt n)
    else modify (sendWrites r p (stBytes w rt n) .store w.pc)
  leave r (.st g)

/-- The target of a branch, inside the room's code and 8 B aligned, or ILLEGAL_INSTRUCTION (R261, R264). -/
def branchTo (f : Fis) (w : Stew) (t : Int) : Op Nat :=
  let o := t - w.codeBase
  if o < 0 ∨ (w.codeLen : Int) ≤ o ∨ o % 8 ≠ 0 then illegalFis f else pure t.toNat

/-- The place that a branch offset names (R261). -/
def branchAt (w : Stew) (g : FmtB) : Int := (w.pc : Int) + g.off.toInt

/-- `br`: always taken. -/
def doBr (r : RoomId) (g : FmtB) : Op Unit := do
  if g.rsv ≠ 0 ∨ g.rs ≠ 0 then illegalFis (.br g)
  else
    let w := ((← get).room r).stew
    leaveTo r (.br g) (← branchTo (.br g) w (branchAt w g))

/-- A branch on whether an s or p register is zero (R262): not checked against its target when it falls through (R264). -/
def condBranch (r : RoomId) (f : Fis) (g : FmtB) (onZero : Bool) : Op Unit := do
  if g.rsv ≠ 0 then illegalFis f
  else
    let n ← regField f g.rs
    match n with
    | .s _ | .p _ =>
      let w := ((← get).room r).stew
      if (w.read n == 0) == onZero then leaveTo r f (← branchTo f w (branchAt w g)) else leave r f
    | _ => illegalFis f

/-- `bz` -/
def doBz (r : RoomId) (g : FmtB) : Op Unit := condBranch r (.bz g) g true
/-- `bnz` -/
def doBnz (r : RoomId) (g : FmtB) : Op Unit := condBranch r (.bnz g) g false

/-- `loop`: a counter of 0 falls through and stays 0; another is decremented, and the branch is taken while it is nonzero
(R262). Nothing executes when the target is outside the code (R264). -/
def doLoop (r : RoomId) (g : FmtB) : Op Unit := do
  if g.rsv ≠ 0 then illegalFis (.loop g)
  else
    let n ← regField (.loop g) g.rs
    match n with
    | .c i =>
      let w := ((← get).room r).stew
      let v := w.creg.get i
      if v = 0 then leave r (.loop g)
      else if v = 1 then
        putScalar r n 0
        leave r (.loop g)
      else
        let t ← branchTo (.loop g) w (branchAt w g)
        putScalar r n ((v - 1).setWidth 64)
        leaveTo r (.loop g) t
    | _ => illegalFis (.loop g)

/-- `call`: the next offset goes on the return stack of 8 entries (R262, R264). -/
def doCall (r : RoomId) (g : FmtB) : Op Unit := do
  if g.rsv ≠ 0 ∨ g.rs ≠ 0 then illegalFis (.call g)
  else
    let w := ((← get).room r).stew
    let t ← branchTo (.call g) w (branchAt w g)
    if 8 ≤ w.stack.length then illegalFis (.call g)
    else
      modify (fun s => s.modStew r (fun w => { w with stack := (w.pc + 8) :: w.stack }))
      leaveTo r (.call g) t

/-- `ret`: the top of the return stack (R262, R264). -/
def doRet (r : RoomId) (g : FmtB) : Op Unit := do
  if g.rsv ≠ 0 ∨ g.rs ≠ 0 ∨ g.off ≠ 0 then illegalFis (.ret g)
  else
    let w := ((← get).room r).stew
    match w.stack with
    | [] => illegalFis (.ret g)
    | t :: rest =>
      let t ← branchTo (.ret g) w t
      modify (fun s => s.modStew r (fun w => { w with stack := rest }))
      leaveTo r (.ret g) t

/-- `nop` -/
def doNop (r : RoomId) (u : FmtU) : Op Unit := stewardU r (.nop u) u {} (leave r (.nop u))

/-- `trace`: a type 1 record with the tag and the value of an s register (R360). -/
def doTrace (r : RoomId) (u : FmtU) : Op Unit :=
  stewardU r (.trace u) u { ra := .s, imm := 24 } (do
    let v := (((← get).room r).stew.read (.s (Fin.ofNat 32 u.ra.toNat))).toNat
    modify (emitTrace 1 r.val u.imm.toNat v)
    leave r (.trace u))

/-- `fault`: ILLEGAL_INSTRUCTION with the code and the deliberate bit in the unit capture (R270, R291). -/
def doFault (r : RoomId) (u : FmtU) : Op Unit :=
  stewardU r (.fault u) u { imm := 16 } (illegal [(encodeFis (.fault u)).toNat, u.imm.toNat, 1])

end Sys2Proof.Machine
end

