-- ==== Sys2Proof/Machine/Dumbwaiter.lean ====
section
/-! DEFINITION. The Dumbwaiter (08_memory_movement.md): programs (R181-R186), DRAM lines and tags (R188-R190), launches
(R191-R195), puts and adds (R196, R197), multicast (R199-R201), and the `dw.` instructions (R270). -/

namespace Sys2Proof.Machine

/-! ## Programs -/

/-- A signed number in the low `w` bits of `n` bytes at a place of an instruction. -/
def opInt (b : List Byte) (at_ n : Nat) : Int := signedOf (natOfBytes ((b.drop at_).take n)) (8 * n)
/-- A number in `n` bytes at a place of an instruction. -/
def opNat (b : List Byte) (at_ n : Nat) : Nat := natOfBytes ((b.drop at_).take n)

/-- A MOVE whose fields are sound (R184, R185); values outside the ranges of R181 are not (log entry 20). -/
def moveOk (src dst : Option Fmt) (op n rows : Nat) (transpose : Bool) : Bool :=
  match src, dst with
  | some a, some b =>
    decide (op ≤ 3) && decide (1 ≤ n ∧ n ≤ 65536) &&
    (if op = 0 ∨ op = 3 then a == b else if op = 2 then a == .f32 && b == .bf16 else true) &&
    (!transpose || (decide (1 ≤ rows ∧ rows ≤ 64 ∧ n % rows = 0) && (b.bits == 8 || b.bits == 16 || b.bits == 32)))
  | _, _ => false

/-- One instruction of 16 bytes (R181); none for a reserved opcode or field. -/
def DwOp.ofBytes (b : List Byte) : Option DwOp :=
  let b1 := opNat b 1 1
  let b2 := opNat b 2 1
  let lvl (x : DwOp) : Option DwOp := if b2 ≤ 5 then some x else none
  match opNat b 0 1 with
  | 0 => some .end_
  | 1 => if bitsOf b1 1 3 ≤ 3 then some (.base (bitAt b1 0) (bitsOf b1 1 3) b2 (opNat b 8 8)) else none
  | 2 => let v := opInt b 8 8
         if v.natAbs < 2 ^ 47 then lvl (.stride (bitAt b1 0) b2 v) else none
  | 3 => let c := opNat b 4 4
         if 1 ≤ c ∧ c ≤ 2 ^ 24 then lvl (.loop b2 c) else none
  | 4 => lvl (.next b2)
  | 5 => let k := opNat b 3 1
         let page := bitAt b1 1
         if 1 ≤ k ∧ k ≤ 32 then lvl (.gather (bitAt b1 0) page b2 k (opNat b 4 4) (opNat b 8 8)) else none
  | 6 => let f := opNat b 3 1
         let n := opNat b 4 4
         let rows := opNat b 8 2
         if moveOk (Fmt.ofCode b1) (Fmt.ofCode b2) (bitsOf f 0 3) n rows (bitAt f 6) then
           some (.move b1 b2 (bitsOf f 0 3) (bitAt f 3) (bitAt f 4) (bitAt f 5) (bitAt f 6) n rows (opInt b 12 4))
         else none
  | 7 => if b1 ≤ 15 then some (.mcast b1) else none
  | _ => none

/-- The nesting of R182, innermost level first: none when an instruction breaks it. -/
def nestStep (open_ : List Nat) : DwOp → Option (List Nat)
  | .loop l _ => if open_.contains l then none else some (l :: open_)
  | .next l => if open_.head? = some l then some open_.tail else none
  | _ => some open_

/-- Whether an instruction is sound for the job: a pane pair that is valid (R182), a gang that has a group (R271). -/
def opSound (m : Room) (groups : Nat) : DwOp → Bool
  | .base _ space pair _ => decide (space < 2) || (paneAddr m m.roles pair false).isSome
  | .mcast g => bitAt groups g
  | _ => true

/-- Fetches and checks a whole program, up to its END: at most 64 instructions (R181, R182). -/
def fetchProg (r : RoomId) (f : Fis) : Nat → Nat → List Nat → Op (List DwOp)
  | 0, _, _ => illegalFis f
  | k + 1, a, open_ => do
    let b ← loadAt r a 16
    let s ← get
    match DwOp.ofBytes b with
    | none => illegalFis f
    | some op =>
      if !opSound (s.room r) (s.reg (rreg r Reg.roomGrpvalid)).toNat op then illegalFis f
      else
        match nestStep open_ op with
        | none => illegalFis f
        | some o =>
          match op with
          | .end_ => pure [.end_]
          | _ => do pure (op :: (← fetchProg r f k (addrPlus a 16) o))

/-- Where LOOP and NEXT lead, and the open loops then (R182). -/
def ctlStep (ix : Nat) (open_ : List (Nat × Nat × Nat × Nat)) : DwOp → Nat × List (Nat × Nat × Nat × Nat)
  | .loop l c => (ix + 1, (l, 0, c, ix + 1) :: open_)
  | .next _ =>
    match open_ with
    | (l, i, c, top) :: t => if i + 1 < c then (top, (l, i + 1, c, top) :: t) else (ix + 1, t)
    | [] => (ix + 1, [])
  | _ => (ix + 1, open_)

/-- A bound on the steps of a program: no level is open twice, so its body runs at most the product of its counts. -/
def progFuel (prog : List DwOp) : Nat :=
  prog.foldl (fun n op => match op with | .loop _ c => n * (c + 1) | _ => n) (prog.length + 1) + 1

/-- Bytes that one MOVE writes. -/
def moveBytes : DwOp → Nat
  | .move _ d op _ _ _ _ n _ _ => (match Fmt.ofCode d with | some f => f.runBytes n | none => 0) * (if op = 2 then 3 else 1)
  | _ => 0

/-- Bytes that the rest of a program writes, from a place in it. -/
def restBytes (prog : List DwOp) : Nat → Nat → List (Nat × Nat × Nat × Nat) → Nat
  | 0, _, _ => 0
  | k + 1, ix, open_ =>
    match prog[ix]? with
    | none | some .end_ => 0
    | some op => let (ix', o) := ctlStep ix open_ op
                 moveBytes op + restBytes prog k ix' o

/-! ## Channels -/

/-- One channel of a room's Dumbwaiter. -/
def Room.chan (m : Room) (ch : Fin 4) : Option Launch := m.chans.get ch

/-- Changes the launch of one channel. -/
def State.modChan (s : State) (r : RoomId) (ch : Fin 4) (f : Launch → Launch) : State :=
  s.modRoom r (fun m => { m with chans := m.chans.set ch ((m.chans.get ch).map f) })

/-- The bytes at a DRAM address, from lines that have landed. -/
def bytesFrom (lines : List (Nat × List Byte)) (a n : Nat) : Option (List Byte) :=
  (linesOf a n).foldr (fun l acc =>
    match lines.find? (fun p => p.1 == l), acc with
    | some p, some t => some (p.2 ++ t)
    | _, _ => none) (some []) |>.map (fun bs => (bs.drop (a % lineBytes)).take n)

/-- The launch that a channel runs; one that is not there moves nothing. -/
def getLaunch (r : RoomId) (ch : Fin 4) : Op Launch := do
  match ((← get).room r).chan ch with
  | some l => pure l
  | none => badAddr 0

/-- The lines of ranges of DRAM, each once. -/
def rangeLines (ranges : List (Nat × Nat)) : List Nat := (ranges.flatMap (fun p => linesOf p.1 p.2)).eraseDups

/-- A launch asks for the lines of ranges of DRAM that it neither holds nor has asked for (R188). -/
def Launch.ask (l : Launch) (ranges : List (Nat × Nat)) : Launch :=
  { l with want := l.want ++ (rangeLines ranges).filter (fun x =>
      !(l.lines.any (fun y => y.1 == x)) && !l.want.contains x && !l.flight.contains x) }

/-- Bytes of DRAM that the launch needs: none while a line of them is still to come, which it then asks for (R188). -/
def dramGet (r : RoomId) (ch : Fin 4) (ranges : List (Nat × Nat)) : Op (Option (List (List Byte))) := do
  let l ← getLaunch r ch
  match ranges.mapM (fun p => bytesFrom l.lines p.1 p.2) with
  | some bs => pure (some bs)
  | none =>
    modify (fun s => s.modChan r ch (fun l => l.ask ranges))
    pure none

/-- Remote operations of a launch still in the Hall's list. -/
def State.launchOps (s : State) (r : RoomId) (id : Nat) : List HallOp :=
  s.hall.filter (fun o => o.src == r && o.owner == Owner.launch id)

/-- The reads of read-returns. -/
def HallOp.isRead (o : HallOp) : Bool :=
  match o.act with
  | .read _ => true
  | _ => false

/-- A read-return of bytes at a place, in packets (R196). -/
def readPackets (r : RoomId) (l : Launch) (p : Place) (n : Nat) : List HallOp :=
  (List.range (ceilDiv n packetBytes)).map (fun i =>
    { src := r, room := p.target, store := p.at_.1, off := p.at_.2 + packetBytes * i,
      act := .read (min packetBytes (n - packetBytes * i)), owner := .launch l.id, pc := l.pc })

/-- Bytes at internal addresses: read at once when all lie in the room, else by read-returns; none while those are on
their way (R196). -/
def internalGet (r : RoomId) (ch : Fin 4) (ranges : List (Nat × Nat)) : Op (Option (List (List Byte))) := do
  let l ← getLaunch r ch
  let places ← ranges.mapM (fun p => do
    let q ← decodeAddr r p.1 p.2
    match q with
    | .sync _ => badAddr p.1
    | q => pure (q, p.2))
  if places.all (fun p => p.1.isLocal r) then
    pure (some (← places.mapM (fun p => loadPlace p.1 p.2)))
  else if !l.asked then
    modify (fun s =>
      let s1 := s.modChan r ch (fun l => { l with asked := true })
      { s1 with hall := s1.hall ++ places.flatMap (fun p => readPackets r l p.1 p.2) })
    pure none
  else
    let s ← get
    let mine := (s.launchOps r l.id).filter HallOp.isRead
    if mine.all (fun o => o.done) then
      let all := mine.flatMap (fun o => o.reply)
      set { s with hall := s.hall.filter (fun o => !(o.src == r && o.owner == Owner.launch l.id && o.isRead)) }
      let cut := ranges.foldl (fun (acc : List (List Byte) × List Byte) p => (acc.1 ++ [acc.2.take p.2], acc.2.drop p.2)) ([], all)
      modify (fun s => s.count64 (rreg r Reg.dwReadBytes) all.length)
      pure (some cut.1)
    else pure none

/-- Bytes of one side's space. -/
def sideGet (r : RoomId) (ch : Fin 4) (dram : Bool) (ranges : List (Nat × Nat)) : Op (Option (List (List Byte))) :=
  if dram then dramGet r ch ranges else internalGet r ch ranges

/-! ## Addresses of a run -/

/-- The entry j of an index table: its low index bits (R182). -/
def tableIndex (r : RoomId) (table bits j : Nat) : Op Nat := do pure (bitsOf (← loadNat r (addrPlus table (4 * j)) 4) 0 bits)

/-- A term of a side's address: none while a page table entry is on its way (R182, R183). -/
def termValue (r : RoomId) (ch : Fin 4) (base : Nat) (i : Nat) : DwTerm → Op (Option Int)
  | .stride v => pure (some (i * v))
  | .gather false bits table mult => do pure (some ((← tableIndex r table bits i) * signedOf mult 64))
  | .gather true bits table pt => do
    let n ← tableIndex r table bits i
    match ← dramGet r ch [(dramAddr (pt + 16 * n), 16)] with
    | some [e] =>
      if opNat e 6 1 ≠ 1 then throw ⟨.addressFault, [i, n]⟩
      else pure (some ((bitsOf (natOfBytes e) 0 48 : Int) - base))
    | _ => pure none

/-- The sum of a side's terms over the open levels. -/
def termSum (r : RoomId) (ch : Fin 4) (base : Nat) (terms : List (Nat × DwTerm)) :
    List (Nat × Nat × Nat × Nat) → Op (Option Int)
  | [] => pure (some 0)
  | (l, i, _, _) :: t => do
    let x ← match terms.find? (fun p => p.1 == l) with
      | some p => termValue r ch base i p.2
      | none => pure (some 0)
    let y ← termSum r ch base terms t
    match x, y with
    | some x, some y => pure (some (x + y))
    | _, _ => pure none

/-- The address of one side of a run (R182). -/
def sideAddr (r : RoomId) (ch : Fin 4) (b : DwBase) (terms : List (Nat × DwTerm))
    (open_ : List (Nat × Nat × Nat × Nat)) : Op (Option Nat) := do
  match ← termSum r ch b.addr terms open_ with
  | some x => pure (some (if b.dram then dramAddr (b.addr + x) else wrapTo (b.addr + x) 32))
  | none => pure none

/-! ## What a run makes of its elements -/

/-- A MOVE's fields. -/
structure Run where
  src : Fmt
  dst : Fmt
  op : Nat
  sat : Bool
  scaled : Bool
  bf16 : Bool
  transpose : Bool
  n : Nat
  rows : Nat
  off : Int
  deriving DecidableEq, Repr

/-- The fields of a MOVE. -/
def DwOp.run : DwOp → Option Run
  | .move src dst op sat scaled bf16 transpose n rows off =>
    some { src := (Fmt.ofCode src).getD .int8, dst := (Fmt.ofCode dst).getD .int8, op := op, sat := sat, scaled := scaled,
           bf16 := bf16, transpose := transpose, n := n, rows := rows, off := off }
  | _ => none

/-- Elements of one row of a run: a run that is not transposed is one row (R41, R185). -/
def Run.cols (c : Run) : Nat := if c.transpose then c.n / c.rows else c.n

/-- The block of an element of a run: blocks start anew with each row (R41). -/
def Run.block (c : Run) (i : Nat) : Nat := i / c.cols * ceilDiv c.cols 32 + i % c.cols / 32

/-- Bytes of a run's scales, when its elements are scaled (R41, R184). -/
def Run.scaleBytes (c : Run) : Nat :=
  if c.scaled && c.op == 1 then c.n / c.cols * ceilDiv c.cols 32 * (if c.bf16 then 2 else 1) else 0

/-- What a run reads from an address on: its elements and, scaled, its scales (R184). -/
def Run.reads (c : Run) (dram : Bool) (a : Nat) : List (Nat × Nat) :=
  (a, c.src.runBytes c.n) ::
    (if c.scaleBytes = 0 then [] else [(if dram then dramAddr (a + c.off) else wrapTo (a + c.off) 32, c.scaleBytes)])

/-- Elements in column-major order: (i, j) lands at j × rows + i (R185). -/
def transposed (rows : Nat) (l : List Nat) : List Nat :=
  let cols := l.length / rows
  (List.range l.length).map (fun q => l.getD (q % rows * cols + q / rows) 0)

/-- One element of a `convert` (R184). -/
def convertEl (c : Run) (scales : Nat) (i raw : Nat) : Nat × Flags :=
  let x := readOpd c.src raw
  let w := if c.bf16 then 16 else 8
  let y := if c.scaled then scaledOpd x (scaleOpd c.bf16 (bitsOf scales (w * c.block i) w)) else x
  let (v, f) := convert c.dst c.sat y.v
  (v, y.fl.or f)

/-- The raw elements of each destination plane and the flags of the conversions (R184-R186). -/
def runEls (c : Run) (run scales : List Byte) : List (List Nat) × Flags :=
  let v := natOfBytes run
  let raws := (List.range c.n).map (c.src.elemAt v)
  let t (l : List Nat) : List Nat := if c.transpose then transposed c.rows l else l
  match c.op with
  | 0 => ([t raws], {})
  | 1 =>
    let es := raws.zipIdx.map (fun p => convertEl c (natOfBytes scales) p.2 p.1)
    ([t (es.map Prod.fst)], es.foldl (fun f e => f.or e.2) {})
  | 2 =>
    let es := raws.map (fun x => splitBf16 (readOpd .f32 x))
    ([t (es.map (fun e => encodeExact .bf16 e.1.1)), t (es.map (fun e => encodeExact .bf16 e.1.2.1)),
      t (es.map (fun e => encodeExact .bf16 e.1.2.2))], es.foldl (fun f e => f.or e.2) {})
  | _ => ([t (raws.map (fun x => x ^^^ 2 ^ (c.src.bits - 1)))], {})

/-- The bytes of a plane; the upper half of the last byte of an odd 4-bit run is one that the spec does not give: free
(log entry 21). -/
def planeBytes (f : Fmt) (els : List Nat) (s : State) : List Byte × State :=
  let bs := f.pack els
  if els.length * f.bits % 8 = 0 then (bs, s)
  else
    let (x, s1) := pickFree s
    (bs.take (bs.length - 1) ++ [BitVec.ofNat 8 ((bs.getLastD 0).toNat % 16 + 16 * (x % 16))], s1)

/-- Whether a Pantry region is still held by a multicast (R201). -/
def pantryHeld (s : State) (off n : Nat) : Bool :=
  s.mcasts.any (fun m => match m.held with | some (o, k) => overlap (off, off + n) (o, o + k) | none => false)

/-- The alignment of an internal endpoint of a run (R184). -/
def checkRun (a n : Nat) : Op Unit := if a % 8 ≠ 0 ∨ (a + n) % 8 ≠ 0 then badAddr a else pure ()

/-! ## Multicast -/

/-- The attached receivers of a physical group: its members that are not fenced (R199). -/
def groupRooms (s : State) (g : Nat) : List Receiver :=
  let m := (s.reg (Reg.hallMcastGroupg + 4 * g)).toNat
  ((List.finRange 32).filter (fun r => bitAt m r.val && !s.fenced.getLsbD r.val)).map (fun r => { room := r })

/-- The Shelf offset that a multicast's destination names; its logical room is ignored (R199). -/
def mcastDest (a n : Nat) : Op Nat :=
  if bitsOf a 30 2 ≠ 0 ∨ bitsOf a 21 4 ≠ 0 ∨ Store.size .shelf < bitsOf a 0 21 + n then badAddr a else pure (bitsOf a 0 21)

/-- Starts a multicast, which holds the Pantry region that it reads until it has landed (R201). -/
def startMcast (r : RoomId) (w : Owner) (pc : Nat) (src : McastSrc) (held : Option (Nat × Nat)) (off size g : Nat) (s : State) : State :=
  let m : Mcast := { id := s.nextMcast, src := r, owner := w, pc := pc, from_ := src, held := held, store := .shelf, off := off,
                     size := size, recv := groupRooms s g }
  { s.count64 (rreg r Reg.dwWriteBytes) size with mcasts := s.mcasts ++ [m], nextMcast := s.nextMcast + 1 }

/-! ## Running a program -/

/-- Writes one plane of a run: to DRAM line by line, to the room's own stores at once, elsewhere by remote writes, and
after MCAST to every member of the group, holding what the run reads of the Pantry. -/
def putPlane (r : RoomId) (ch : Fin 4) (held : Option (Nat × Nat)) (dram : Bool) (a : Nat) (bs : List Byte) : Op Unit := do
  let l ← getLaunch r ch
  if dram then modify (fun s => s.modChan r ch (fun l => { l with writes := l.writes ++ lineWrites a bs }))
  else
    match l.group with
    | some g =>
      let off ← mcastDest a bs.length
      modify (startMcast r (.launch l.id) l.pc (.bytes bs) held off bs.length g)
    | none =>
      let p ← decodeAddr r a bs.length
      if p.isLocal r then storePlace p bs
      else modify (fun s => (sendWrites r p bs (.launch l.id) l.pc s).count64 (rreg r Reg.dwWriteBytes) bs.length)

/-- The addresses of the planes of a run's destination (R184). -/
def planeAddrs (c : Run) (dram : Bool) (a : Nat) : List Nat :=
  (List.range (if c.op = 2 then 3 else 1)).map (fun (k : Nat) =>
    if dram then dramAddr (a + k * c.off) else wrapTo (a + k * c.off) 32)

/-- Whether a plane must wait for a multicast to release its Pantry region (R201). -/
def planeWaits (r : RoomId) (l : Launch) (dram : Bool) (n a : Nat) : Op Bool := do
  if dram then pure false
  else
    checkRun a n
    match l.group with
    | some _ => pure false
    | none =>
      match ← decodeAddr r a n with
      | .pantry off => pure (pantryHeld (← get) off n)
      | .sync _ => badAddr a
      | _ => pure false

/-- The Pantry region that a run reads, if it reads one (R201). -/
def runHeld (r : RoomId) (dram : Bool) (a n : Nat) : Op (Option (Nat × Nat)) := do
  if dram then pure none
  else
    match ← decodeAddr r a n with
    | .pantry off => pure (some (off, n))
    | _ => pure none

/-- What a run that has been transferred leaves of the lines that landed: none; in a staging slot, those of later runs (R203). -/
def Launch.spent (l : Launch) (ranges : List (Nat × Nat)) : List (Nat × List Byte) :=
  if l.slotHeld && !l.dst.dram then l.lines.filter (fun x => !(rangeLines ranges).contains x.1) else []

/-- One MOVE: true when its run has been transferred, false while it waits for data or for a release (R182-R186). -/
def doMove (r : RoomId) (ch : Fin 4) (c : Run) : Op Bool := do
  let l ← getLaunch r ch
  match ← sideAddr r ch l.src l.srcTerms l.open_, ← sideAddr r ch l.dst l.dstTerms l.open_ with
  | some a, some d =>
    let n := c.src.runBytes c.n
    if !l.src.dram then checkRun a n
    let planes := planeAddrs c l.dst.dram d
    let waits ← planes.mapM (planeWaits r l l.dst.dram (c.dst.runBytes c.n))
    if waits.any id then pure false
    else
      let ranges := c.reads l.src.dram a
      match ← sideGet r ch l.src.dram ranges with
      | none => pure false
      | some bs =>
        let (els, fl) := runEls c (bs.getD 0 []) (bs.getD 1 [])
        let held ← runHeld r l.src.dram a n
        (planes.zip els).forM (fun p => do
          let (out, s1) := planeBytes c.dst p.2 (← get)
          set s1
          putPlane r ch held l.dst.dram p.1 out)
        modify (fun s => s.modChan r ch (fun l =>
          { l with flags := l.flags.or fl, lines := if l.src.dram then l.spent ranges else l.lines.filter (fun _ => l.slotHeld), asked := false }))
        pure true
  | _, _ => pure false

/-- The base that a BASE names, with the panes as the launch took them (R181, R194). -/
def baseOf (m : Room) (l : Launch) (space pair addr : Nat) : DwBase :=
  match space with
  | 0 => ⟨true, addr % 2 ^ 48⟩
  | 1 => ⟨false, addr % 2 ^ 32⟩
  | 2 => ⟨false, ((paneAddr m l.roles pair true).getD 0 + addr) % 2 ^ 32⟩
  | _ => ⟨false, ((paneAddr m l.roles pair false).getD 0 + addr) % 2 ^ 32⟩

/-- A term set on a level replaces the one it had (R182). -/
def setTerm (terms : List (Nat × DwTerm)) (level : Nat) (t : DwTerm) : List (Nat × DwTerm) :=
  (level, t) :: terms.filter (fun p => p.1 != level)

/-- A launch after an instruction that moves nothing, or after its MOVE (R182). -/
def nextLaunch (s : State) (r : RoomId) (l : Launch) : DwOp → Launch
  | .end_ => { l with finished := true }
  | .base dst space pair addr =>
    let b := baseOf (s.room r) l space pair addr
    if dst then { l with dst := b, ix := l.ix + 1 } else { l with src := b, ix := l.ix + 1 }
  | .stride dst level v =>
    if dst then { l with dstTerms := setTerm l.dstTerms level (.stride v), ix := l.ix + 1 }
    else { l with srcTerms := setTerm l.srcTerms level (.stride v), ix := l.ix + 1 }
  | .gather dst page level bits table mult =>
    let t := DwTerm.gather page bits table mult
    if dst then { l with dstTerms := setTerm l.dstTerms level t, ix := l.ix + 1 }
    else { l with srcTerms := setTerm l.srcTerms level t, ix := l.ix + 1 }
  | .mcast g => { l with group := some (s.fld (rreg r Reg.roomGrpmap + 4 * (g / 8)) (4 * (g % 8)) 4), ix := l.ix + 1 }
  | op => let (ix, o) := ctlStep l.ix l.open_ op
          { l with ix := ix, open_ := o }

/-- The DRAM lines that a staging slot holds (R203). -/
def slotLines : Nat := 0x10000 / lineBytes

/-- With a staging slot, the reads of the runs to come are asked for, up to 64 KiB ahead: through runs that write no DRAM, and no
further than a page table entry that has not landed (R203, log entry 125). -/
def lookAhead (r : RoomId) (ch : Fin 4) : Nat → Nat → Launch → Op Unit
  | 0, _, _ => pure ()
  | k + 1, room, l => do
    let s ← get
    let op := l.prog.getD l.ix .end_
    match op.run with
    | none => if op = .end_ then pure () else lookAhead r ch k room (nextLaunch s r l op)
    | some c =>
      if !l.src.dram then
        if l.dst.dram then pure () else lookAhead r ch k room (nextLaunch s r l op)
      else
        match sideAddr r ch l.src l.srcTerms l.open_ s with
        | .ok (some a) s1 =>
          let ranges := c.reads true a
          let n := (rangeLines ranges).length
          if room < n then pure ()
          else
            set (s1.modChan r ch (fun l => l.ask ranges))
            if l.dst.dram then pure () else lookAhead r ch k (room - n) (nextLaunch s r l op)
        | .ok none s1 => set s1
        | .error _ _ => pure ()

/-- One instruction of a launch's program: true when it has been executed (R182). -/
def dwStep (r : RoomId) (ch : Fin 4) : Op Bool := do
  let l ← getLaunch r ch
  let op := l.prog.getD l.ix .end_
  let done ← match op.run with
    | some c => do
      if l.slotHeld then lookAhead r ch (64 * slotLines) slotLines l
      doMove r ch c
    | none => pure true
  if done then modify (fun s => s.modChan r ch (fun l => nextLaunch s r l op))
  pure (done && op != .end_)

/-- Steps of a program until it waits or ends. -/
def dwLoop (r : RoomId) (ch : Fin 4) : Nat → Op Unit
  | 0 => pure ()
  | k + 1 => do if ← dwStep r ch then dwLoop r ch k

/-- A channel runs its launch as far as it can. A fault stops the launch there (R204). -/
def dwRun (r : RoomId) (ch : Fin 4) (s : State) : State :=
  match (s.room r).chan ch with
  | none => s
  | some l =>
    if l.finished || l.stopped then s
    else
      match dwLoop r ch (progFuel l.prog) s with
      | .ok _ s' => s'
      | .error e s' => raise r l.pc e (s'.modChan r ch (fun l => { l with stopped := true }))

/-- Every channel of every room runs as far as it can. -/
def dwRunAll (s : State) : State :=
  (List.finRange 32).foldl (fun s r => (List.finRange 4).foldl (fun s ch =>
    if ((s.room r).chan ch).isSome then dwRun r ch s else s) s) s

/-! ## Launches -/

/-- The channel of a launch in the queue. -/
def QEntry.channel (e : QEntry) : Fin 4 := Fin.ofNat 4 (e.rc.headD 0 % 4)

/-- The deadline of a launch in the queue (R191). -/
def QEntry.deadline (e : QEntry) : Nat :=
  match e.op with
  | .dwLaunch u => u.imm.toNat
  | _ => 0

/-- Whether a queue entry is a launch. -/
def QEntry.isLaunch (e : QEntry) : Bool :=
  match e.op with
  | .dwLaunch _ => true
  | _ => false

/-- The launch at the head of a room's Dumbwaiter queue when its channel is free and its wait has been met (R258, R270). -/
def launchReady (m : Room) : Option QEntry :=
  match (m.queue 4).entries with
  | e :: _ => if e.isLaunch && (m.chan e.channel).isNone && tallyOk m e.wait then some e else none
  | [] => none

/-- Asks the pool for a staging slot: whether one was given (R203). -/
def poolSlot (s : State) : Bool × State :=
  let free := s.fld Reg.hallPool 8 8
  if 0 < free then (true, s.setFld Reg.hallPool 8 8 (free - 1)) else (false, s.satFld Reg.hallPoolDenied 0 32 1)

/-- A channel starts a launch: its program is fetched and checked, and its slot asked for (R182, R194, R203). A side that
no BASE has set yet stands at an internal address that the spec does not give: free (log entry 22). -/
def startLaunch (r : RoomId) (e : QEntry) : Op Unit := do
  let prog ← fetchProg r e.op 64 (e.ra.headD 0) []
  modify (fun s =>
    let (b1, s) := pickFree s
    let (b2, s) := pickFree s
    let ext := bitAt (e.rc.headD 0) 2
    let (held, s) := if ext then poolSlot s else (false, s)
    let l : Launch := { id := e.id, pc := e.pc, prog := prog, status := e.rb.headD 0, deadline := e.deadline, roles := e.roles,
                        src := ⟨false, b1 % 2 ^ 32⟩, dst := ⟨false, b2 % 2 ^ 32⟩, denied := ext && !held, slotHeld := held }
    s.modRoom r (fun m => { m with chans := m.chans.set e.channel (some l) }))

/-- The launch at the head of the queue leaves it and starts. -/
def launchStart (r : RoomId) (s : State) : State :=
  match launchReady (s.room r) with
  | none => s
  | some e =>
    let s1 := s.modQueue r 4 (fun q => { q with entries := q.entries.tail })
    match startLaunch r e s1 with
    | .ok _ s2 => dwRun r e.channel s2
    | .error x s2 => raise r e.pc x s2

/-- The write tags that a launch holds. -/
def State.launchTags (s : State) (r : RoomId) (id : Nat) : List TagUse :=
  s.ports.toList.flatMap (fun p => (p.reads ++ p.writes).filter (fun t => t.room == some r && t.launch == id))

/-- Whether every destination write of a launch has landed (R191). -/
def launchLanded (s : State) (r : RoomId) (l : Launch) : Bool :=
  l.finished && !l.stopped && l.writes.isEmpty && (s.launchTags r l.id).isEmpty && (s.launchOps r l.id).isEmpty &&
    !(s.mcasts.any (fun m => m.src == r && m.owner == Owner.launch l.id))

/-- The status word of a launch (R186). -/
def Launch.word (l : Launch) : Nat := l.flags.toNat + 16 * b2n l.denied

/-- A completed launch: its status word is written, its slot returns to the pool, and its channel is free (R186, R191,
R203). -/
def launchComplete (r : RoomId) (ch : Fin 4) (s : State) : State :=
  match (s.room r).chan ch with
  | none => s
  | some l =>
    if !launchLanded s r l then s
    else
      match storeNat r l.status 4 l.word s with
      | .error e s1 => raise r l.pc e (s1.modChan r ch (fun l => { l with stopped := true }))
      | .ok _ s1 =>
        let s2 := if l.slotHeld then s1.setFld Reg.hallPool 8 8 (s1.fld Reg.hallPool 8 8 + 1) else s1
        let k := rreg r Reg.dwChnStatus + 4 * ch.val
        let s3 := ((s2.setFld k 2 4 l.flags.toNat).setFld k 6 1 (b2n l.denied)).setFld k 7 6 l.ix
        finishEntry r 4 l.id (s3.modRoom r (fun m => { m with chans := m.chans.set ch none }))

/-- SCHEDULE_BREACH of a launch: its channel, its place, its deadline, the bytes not yet landed and the largest round trip (R192). -/
def breachErr (s : State) (r : RoomId) (ch : Fin 4) (ix deadline due : Nat) : Err :=
  ⟨.scheduleBreach, [ch.val, ix, deadline, due, s.fld (rreg r Reg.dwRttMax) 0 24]⟩

/-- Bytes of a running launch that have not landed (R192). -/
def launchDue (s : State) (r : RoomId) (l : Launch) : Nat :=
  l.writes.foldl (fun n w => n + (w.bytes.filter Option.isSome).length) 0 +
    (s.launchTags r l.id).foldl (fun n t => n + (t.bytes.filter Option.isSome).length) 0 +
    (s.launchOps r l.id).foldl (fun n o => n + (match o.act with | .write bs => bs.length | _ => 0)) 0 +
    (s.mcasts.filter (fun m => m.src == r && m.owner == Owner.launch l.id)).foldl (fun n m => n + m.size) 0 +
    (if l.finished then 0 else restBytes l.prog (progFuel l.prog) l.ix l.open_)

/-- Bytes that a launch which no channel has started will write: all of its program's; of a program that is not sound, none. -/
def programDue (r : RoomId) (f : Fis) (a : Nat) (s : State) : Nat :=
  match fetchProg r f 64 a [] s with
  | .ok prog _ => restBytes prog (progFuel prog) 0 []
  | .error _ _ => 0

/-- A launch is not complete when the room's step time reaches its deadline (R192). -/
def breach (r : RoomId) (ch : Fin 4) (l : Launch) (s : State) : State :=
  raise r l.pc (breachErr s r ch l.ix l.deadline (launchDue s r l)) (s.modChan r ch (fun l => { l with stopped := true }))

/-- A launch still in the queue when the room's step time reaches its deadline (R192). -/
def breachQueued (r : RoomId) (e : QEntry) (s : State) : State :=
  raise r e.pc (breachErr s r e.channel 0 e.deadline (programDue r e.op (e.ra.headD 0) s)) s

/-! ## Tags -/

/-- Read and write tags that a room holds. -/
def roomTags (s : State) (write : Bool) (r : RoomId) : Nat :=
  s.ports.toList.foldl (fun n p => n + ((if write then p.writes else p.reads).filter (fun t => t.room == some r)).length) 0

/-- The line of a port that a channel would read next: one with no earlier write of the channel to it outstanding
(R190). -/
def readWanted (s : State) (r : RoomId) (ch : Fin 4) (port : Fin 4) : Option Nat :=
  match (s.room r).chan ch with
  | none => none
  | some l =>
    l.want.find? (fun x => linePort x == port && !(l.writes.any (fun w => w.line == x)) &&
      !((s.ports.get port).writes.any (fun t => t.room == some r && t.ch == ch && t.line == x)))

/-- The line write of a port that a channel would issue next. -/
def writeWanted (s : State) (r : RoomId) (ch : Fin 4) (port : Fin 4) : Option LineWrite :=
  match (s.room r).chan ch with
  | none => none
  | some l => l.writes.find? (fun w => linePort w.line == port)

/-- Whether a channel waits for a tag of a port. -/
def tagWanted (s : State) (write : Bool) (port : Fin 4) (r : RoomId) (ch : Fin 4) : Bool :=
  if write then (writeWanted s r ch port).isSome else (readWanted s r ch port).isSome

/-- The room and channel that a free tag of a port goes to: the lowest room above the one the port last granted, and the
channel after the one the room last granted (R189). -/
def tagTarget (s : State) (write : Bool) (port : Fin 4) : Option (RoomId × Fin 4) :=
  let p := s.ports.get port
  let last := if write then p.lastWrite else p.lastRead
  let start := match last with | some r => r.val + 1 | none => 0
  let order := (List.range 32).map (fun i => Fin.ofNat 32 (start + i))
  let limit := if write then 16 else 32
  order.findSome? (fun r =>
    if roomTags s write r < limit then
      let c0 := if write then (s.room r).lastWriteCh else (s.room r).lastReadCh
      let chans := (List.range 4).map (fun i => Fin.ofNat 4 (c0.val + 1 + i))
      (chans.find? (fun ch => tagWanted s write port r ch)).map (fun ch => (r, ch))
    else none)

/-- Changes one memory port. -/
def State.modPort (s : State) (p : Fin 4) (f : Port → Port) : State := { s with ports := s.ports.set p (f (s.ports.get p)) }

/-- Write data beats leave while the channel has credits (R364, R366). -/
def sendBeats (p : Port) : Port :=
  let n := min p.beatsDue p.creditWd
  { p with beatsDue := p.beatsDue - n, creditWd := p.creditWd - n }

/-- The most tags that a room has held since DW_TAGS was read. -/
def notePeak (r : RoomId) (write : Bool) (s : State) : State :=
  let k := rreg r Reg.dwTags
  let n := roomTags s write r
  if write then s.setFld k 22 5 (max (s.fld k 22 5) n) else s.setFld k 16 6 (max (s.fld k 16 6) n)

/-- A free read tag of a port is granted and its request transfers (R189, R364). -/
def grantRead (port : Fin 4) (tag : Nat) (s : State) : State :=
  let p := s.ports.get port
  if p.creditRq = 0 ∨ p.reads.any (fun t => t.tag == tag) then s
  else
    match tagTarget s false port with
    | none => s
    | some (r, ch) =>
      match readWanted s r ch port, (s.room r).chan ch with
      | some x, some l =>
        let s1 := s.modPort port (fun p => { p with creditRq := p.creditRq - 1, lastRead := some r, reads := p.reads ++ [{ tag := tag, room := some r, ch := ch, launch := l.id, line := x, ctx := roomCtx s r, qos := s.fld Reg.hallQos 0 4 }] })
        let s2 := s1.modChan r ch (fun l => { l with want := l.want.erase x, flight := l.flight ++ [x] })
        notePeak r false (s2.modRoom r (fun m => { m with lastReadCh := ch }))
      | _, _ => s

/-- A write request transfers and its four beats of data follow as credits allow (R364, R366). -/
def sendWrite (port : Fin 4) (t : TagUse) (s : State) : State :=
  s.modPort port (fun p => sendBeats { p with creditWq := p.creditWq - 1, beatsDue := p.beatsDue + 4, writes := p.writes ++ [t] })

/-- A write tag goes to a room's channel: its next line write of the port is sent (R189). -/
def grantRoomWrite (port : Fin 4) (tag : Nat) (r : RoomId) (ch : Fin 4) (s : State) : State :=
  match writeWanted s r ch port, (s.room r).chan ch with
  | some w, some l =>
    let s1 := sendWrite port { tag := tag, room := some r, ch := ch, launch := l.id, line := w.line, ctx := roomCtx s r,
                               qos := s.fld Reg.hallQos 0 4, bytes := w.bytes } (s.modPort port (fun p => { p with lastWrite := some r }))
    let s2 := s1.modChan r ch (fun l => { l with writes := l.writes.erase w })
    let s3 := s2.count64 (rreg r Reg.dwWriteBytes) (w.bytes.filter Option.isSome).length
    notePeak r true ((meterLine port.val true r.val s3).modRoom r (fun m => { m with lastWriteCh := ch }))
  | _, _ => s

/-- A write tag goes to the hub: one of its own line writes is sent, in the bulk QoS class (R353, R368). -/
def grantHubWrite (port : Fin 4) (tag : Nat) (h : HubWrite) (s : State) : State :=
  let s1 := sendWrite port { tag := tag, room := none, line := h.w.line, ctx := h.ctx, qos := s.fld Reg.hallQos 4 4, bytes := h.w.bytes } s
  meterPort port.val true { s1 with hubWrites := s1.hubWrites.erase h }

/-- A free write tag of a port is granted, to a room by R189's rotation or to the hub: with both waiting, either (R364, log
entry 110). -/
def grantWrite (port : Fin 4) (tag : Nat) (s : State) : State :=
  let p := s.ports.get port
  if p.creditWq = 0 ∨ 128 ≤ tag ∨ p.writes.any (fun t => t.tag == tag) then s
  else
    match hubWanted s port, tagTarget s true port with
    | none, none => s
    | none, some (r, ch) => grantRoomWrite port tag r ch s
    | some h, none => grantHubWrite port tag h s
    | some h, some (r, ch) =>
      let (n, s1) := pickFree s
      if n % 2 = 0 then grantHubWrite port tag h s1 else grantRoomWrite port tag r ch s1

/-- A transaction's round trip is measured (R193, R368): at its port, against the bound when it is a job's (log entry 123), and in its room
unless the room's job has stopped since. -/
def noteTrip (port : Fin 4) (t : TagUse) (n : Nat) (s : State) : State :=
  let sat := min n (2 ^ 24 - 1)
  let kp := Reg.hallPortkRttMax + 8 * port.val
  let s1 := s.setFld kp 0 24 (max (s.fld kp 0 24) sat)
  match t.room with
  | none => s1
  | some r =>
    let kr := rreg r Reg.dwRttMax
    let s2 := if t.drain then s1 else s1.setFld kr 0 24 (max (s1.fld kr 0 24) sat)
    if s2.fld Reg.hallLatBound 0 16 < n then s2.satFld (Reg.hallPortkLatOver + 8 * port.val) 0 32 1 else s2

/-- An error response stops the job of the room that issued the transaction (R188, R367); the hub's own stop none (log entry 110). -/
def portError (port : Fin 4) (chan : Nat) (t : TagUse) (resp : Nat) (s : State) : State :=
  match t.room with
  | none => s
  | some r =>
    let pc := match (s.room r).chan t.ch with | some l => l.pc | none => 0
    raise r pc ⟨.portError, [port.val, chan, t.ch.val, lineBytes * t.line, resp]⟩
      (s.modChan r t.ch (fun l => { l with stopped := true }))

/-- A line that has landed goes to the launch that asked for it, which goes on (R189). -/
def landLine (port : Fin 4) (t : TagUse) (data : List Byte) (s : State) : State :=
  match t.room with
  | none => s
  | some r =>
    let s1 := meterLine port.val false r.val (s.count64 (rreg r Reg.dwReadBytes) lineBytes)
    dwRun r t.ch (s1.modChan r t.ch (fun l =>
      if l.id = t.launch then { l with flight := l.flight.erase t.line, lines := l.lines ++ [(t.line, data)] } else l))

/-- A response whose tag is not outstanding is discarded and counted (R367). -/
def strayResponse (port : Fin 4) (s : State) : State := s.satFld (Reg.hallPortkProto + 4 * port.val) 0 16 1

/-- A read data beat arrives (R366): beat 3 frees the tag and lands the line, or fails the read. -/
def readBeat (port : Fin 4) (tag beat : Nat) (data : List Byte) (resp rtt : Nat) (s : State) : State :=
  match (s.ports.get port).reads.find? (fun t => t.tag == tag) with
  | none => strayResponse port s
  | some t =>
    let bad := if t.bad = 0 then resp else t.bad
    let beats := t.beats ++ [data]
    if beat ≠ t.beats.length then s
    else if beat < 3 then
      s.modPort port (fun p => { p with reads := p.reads.map (fun x => if x.tag = tag then { x with beats := beats, bad := bad } else x) })
    else
      let s1 := s.modPort port (fun p => { p with reads := p.reads.filter (fun x => x.tag != tag) })
      let s2 := noteTrip port t rtt s1
      if t.drain then s2 else if bad ≠ 0 then portError port 1 t bad s2 else landLine port t beats.flatten s2

/-- A write response arrives (R366): its tag is free, and the write's bytes are in DRAM (log entry 23). -/
def writeAnswer (port : Fin 4) (tag resp rtt : Nat) (s : State) : State :=
  match (s.ports.get port).writes.find? (fun t => t.tag == tag) with
  | none => strayResponse port s
  | some t =>
    let s1 := s.modPort port (fun p => { p with writes := p.writes.filter (fun x => x.tag != tag) })
    let s2 := if resp ≠ 0 then s1 else { s1 with dram := s1.dram.putCells (LineWrite.cells t.ctx ⟨t.line, t.bytes⟩) }
    let s3 := noteTrip port t rtt s2
    if t.drain ∨ resp = 0 then s3 else portError port 4 t resp s3

/-! ## The instructions -/

/-- `dw.launch` issues: a launch whose own deadline has passed breaches at once (R192); otherwise it enters the queue. Its
channel field uses three bits (R270). -/
def doDwLaunch (r : RoomId) (u : FmtU) : Op Unit :=
  unitU r 4 (.dwLaunch u) u { ra := .a, rb := .a, rc := .imm 3, imm := 24 } (fun e => do
    checkAt r (e.ra.headD 0) 16
    checkAt r (e.rb.headD 0) 4
    let s ← get
    if u.imm.toNat < (s.room r).stepTime && !roomDebug s r then
      throw (breachErr s r e.channel 0 e.deadline (programDue r e.op (e.ra.headD 0) s)))

/-- Launches of a room that are not complete on the channels of a mask. -/
def launchesOn (m : Room) (mask : Nat) : Bool :=
  (m.queue 4).entries.any (fun e => e.isLaunch && bitAt mask e.channel.val) ||
    (List.finRange 4).any (fun ch => bitAt mask ch.val && (m.chan ch).isSome)

/-- `dw.wait` (R270). -/
def doDwWait (r : RoomId) (u : FmtU) : Op Unit :=
  stewardU r (.dwWait u) u { imm := 4 } (do
    if launchesOn ((← get).room r) u.imm.toNat then stallOn r .dw (.dwWait u) else leave r (.dwWait u))

/-- Whether a launch writes into a pair's fill pane (R195). -/
def fillsPair (l : Launch) (pair : Nat) : Bool :=
  l.prog.any (fun op => match op with | .base true 2 p _ => p == pair | _ => false)

/-- `dw.swap` (R195): waits for earlier launches that have not started, and for those that write into the pair's fill
pane; then the roles exchange. A pair that is not valid is illegal (log entry 24). -/
def doDwSwap (r : RoomId) (u : FmtU) : Op Unit :=
  stewardU r (.dwSwap u) u { imm := 4 } (do
    let m := (← get).room r
    let p := u.imm.toNat
    if (paneAddr m m.roles p true).isNone then illegalFis (.dwSwap u)
    else if (m.queue 4).entries.any QEntry.isLaunch ||
        (List.finRange 4).any (fun ch => match m.chan ch with | some l => fillsPair l p | none => false) then
      stallOn r .dw (.dwSwap u)
    else
      modify (fun s => s.modRoom r (fun m => { m with roles := m.roles ^^^ BitVec.ofNat 16 (2 ^ p) }))
      leave r (.dwSwap u))

/-- An address of `dw.put` or `dw.add` in sync space is illegal (R196). -/
def notSync (f : Fis) (a : Nat) : Op Unit := if bitsOf a 30 2 = 2 then illegalFis f else pure ()

/-- `dw.put` (R196). -/
def doDwPut (r : RoomId) (u : FmtU) : Op Unit :=
  unitU r 4 (.dwPut u) u { ra := .a, rb := .a, rc := .s } (fun e => do
    let a := e.ra.headD 0
    let b := e.rb.headD 0
    let n := e.rc.headD 0
    notSync (.dwPut u) a
    notSync (.dwPut u) b
    if n < 8 ∨ 65536 < n ∨ n % 8 ≠ 0 then illegalFis (.dwPut u)
    else if a % 8 ≠ 0 then badAddr a
    else if b % 8 ≠ 0 then badAddr b
    else
      checkAt r a n
      checkAt r b n)

/-- The word size and count of a `dw.add` (R270). -/
def addForm (u : FmtU) : Nat × Nat := (if u.imm.getLsbD 5 then 8 else 4, FmtU.field u 0 5 + 1)

/-- `dw.add` (R196). -/
def doDwAdd (r : RoomId) (u : FmtU) : Op Unit :=
  unitU r 4 (.dwAdd u) u { ra := .a, rb := .a, imm := 6 } (fun e => do
    let a := e.ra.headD 0
    let b := e.rb.headD 0
    let (w, n) := addForm u
    notSync (.dwAdd u) a
    notSync (.dwAdd u) b
    if a % w ≠ 0 then badAddr a
    else if b % w ≠ 0 then badAddr b
    else
      checkAt r a (w * n)
      checkAt r b (w * n))

/-- `dw.mcast` (R199, R271): from the Pantry to a Shelf offset, 64 B to 8 MiB (log entry 25). -/
def doDwMcast (r : RoomId) (u : FmtU) : Op Unit :=
  unitU r 4 (.dwMcast u) u { ra := .a, rb := .a, rc := .s, imm := 4 } (fun e => do
    let a := e.ra.headD 0
    let n := e.rc.headD 0
    if !bitAt ((← get).reg (rreg r Reg.roomGrpvalid)).toNat u.imm.toNat then illegalFis (.dwMcast u)
    else if n < 64 ∨ 2 ^ 23 < n then illegalFis (.dwMcast u)
    else
      match ← decodeAddr r a n with
      | .pantry _ => let _ ← mcastDest (e.rb.headD 0) n
      | _ => badAddr a)

/-- A put begins: its bytes are read and sent; one within the room is applied at once (R19, R196). -/
def beginPut (r : RoomId) (e : QEntry) : Op Unit := do
  let n := e.rc.headD 0
  let bs ← loadAt r (e.ra.headD 0) n
  let p ← decodeAddr r (e.rb.headD 0) n
  if p.isLocal r then storePlace p bs
  else modify (fun s => (sendWrites r p bs (.entry e.id) e.pc s).count64 (rreg r Reg.dwWriteBytes) n)

/-- An add begins: its addends are read and sent; one within the room is applied at once (R19, R196). -/
def beginAdd (r : RoomId) (u : FmtU) (e : QEntry) : Op Unit := do
  let (w, n) := addForm u
  let ws := (chunksOf w (← loadAt r (e.ra.headD 0) (w * n))).map natOfBytes
  let p ← decodeAddr r (e.rb.headD 0) (w * n)
  let (st, off) := p.at_
  if p.isLocal r then
    let old ← loadPlace p (w * n)
    storePlace p (addWords w ws ((chunksOf w old).map natOfBytes))
  else
    modify (fun s =>
      { s.count64 (rreg r Reg.dwWriteBytes) (w * n) with
        hall := s.hall ++ [{ src := r, room := p.target, store := st, off := off, act := .add ws (w == 8), owner := .entry e.id, pc := e.pc }] })

/-- A multicast begins (R199). -/
def beginMcast (r : RoomId) (u : FmtU) (e : QEntry) : Op Unit := do
  let n := e.rc.headD 0
  let off ← mcastDest (e.rb.headD 0) n
  modify (fun s =>
    let g := s.fld (rreg r Reg.roomGrpmap + 4 * (u.imm.toNat / 8)) (4 * (u.imm.toNat % 8)) 4
    let src := bitsOf (e.ra.headD 0) 0 30
    startMcast r (.entry e.id) e.pc (.pantry src) (some (src, n)) off n g s)

/-- Whether nothing of an entry is left on its way. -/
def entryLanded (s : State) (r : RoomId) (id : Nat) : Bool :=
  !(s.hall.any (fun o => o.src == r && o.owner == Owner.entry id)) && !(s.mcasts.any (fun m => m.src == r && m.owner == Owner.entry id))

/-! ## Multicast packets -/

/-- The window of a multicast (R200). -/
def mcastWindow : Nat := 0x10000

/-- The bytes of a multicast from a position, at most one packet. -/
def mcastBytes (m : Mcast) (at_ : Nat) : Op (List Byte) :=
  let n := min packetBytes (m.size - at_)
  match m.from_ with
  | .pantry off => loadBytes none .pantry (off + at_) n
  | .bytes b => pure ((b.drop at_).take n)

/-- A packet of a multicast on its way to one receiver. -/
def mcastPacket (m : Mcast) (at_ : Nat) (bs : List Byte) (dst : RoomId) : HallOp :=
  { src := m.src, room := some dst, store := m.store, off := m.off + at_, act := .write bs, owner := .mcast m.id, pc := m.pc }

/-- Replaces a multicast of the list. -/
def State.modMcast (s : State) (id : Nat) (f : Mcast → Mcast) : State :=
  { s with mcasts := s.mcasts.map (fun (m : Mcast) => if m.id = id then f m else m) }

/-- The next packet goes to every attached receiver, while each is less than a window behind (R200). -/
def mcastGroup (m : Mcast) : Op Unit := do
  let att := m.recv.filter (fun x => !x.detached)
  if att.isEmpty ∨ m.size ≤ m.sent ∨ att.any (fun x => decide (mcastWindow ≤ m.sent - x.acked)) then pure ()
  else
    let bs ← mcastBytes m m.sent
    modify (fun s0 =>
      let s := meterTree (att.map (fun (x : Receiver) => x.room.val)) bs.length s0
      { s with hall := s.hall ++ att.map (fun (x : Receiver) => mcastPacket m m.sent bs x.room) }.modMcast m.id (fun (m : Mcast) =>
        { m with sent := m.sent + bs.length, recv := m.recv.map (fun (x : Receiver) => if x.detached then x else { x with sent := m.sent + bs.length }) }))

/-- The next packet of a detached receiver's replay, from what has been sent to it onward (R200). -/
def mcastReplay (m : Mcast) (r : RoomId) : Op Unit := do
  match m.recv.find? (fun x => x.room == r && x.detached) with
  | none => pure ()
  | some x =>
    if m.size ≤ x.sent then pure ()
    else
      let bs ← mcastBytes m x.sent
      modify (fun s0 =>
        let s := meterTree [r.val] bs.length s0
        { s with hall := s.hall ++ [mcastPacket m x.sent bs r] }.modMcast m.id (fun (m : Mcast) =>
          { m with recv := m.recv.map (fun (y : Receiver) => if y.room = r then { y with sent := y.sent + bs.length } else y) }))

/-- A receiver that holds the group at a full window is detached and counted: its replay starts at what has landed, so
packets still on their way to it are dropped (R200). -/
def mcastDetachAt (m : Mcast) (r : RoomId) (s : State) : State :=
  if m.recv.any (fun x => x.room == r && !x.detached && decide (m.sent - x.acked = mcastWindow)) then
    let s1 := { s with hall := s.hall.filter (fun o => !(o.owner == Owner.mcast m.id && o.room == some r)) }
    (s1.satFld Reg.hallMcastDetach 0 32 1).modMcast m.id (fun (m : Mcast) =>
      { m with recv := m.recv.map (fun (x : Receiver) => if x.room = r then { x with detached := true, sent := x.acked } else x) })
  else s

/-- Every byte of a multicast has landed at every receiver (R200). -/
def Mcast.landed (m : Mcast) : Bool := m.recv.all (fun x => decide (m.size ≤ x.acked))

/-- A multicast is complete: its Pantry region is released, its entry is complete, and launches go on (R200, R201). -/
def mcastFinish (m : Mcast) (s : State) : State :=
  if m.landed then
    let s1 := { s with mcasts := s.mcasts.filter (fun x => x.id != m.id) }
    let s2 := match m.owner with
      | .entry id => if entryLanded s1 m.src id then finishEntry m.src 4 id s1 else s1
      | _ => s1
    dwRunAll s2
  else s

end Sys2Proof.Machine
end

