-- ==== Sys2Proof/Machine/Sync.lean ====
section
/-! DEFINITION. The Steward's sync instructions and `halt` (09_landing.md, R206, R207, R214-R221; R257, R270, R271). -/

namespace Sys2Proof.Machine

/-! ## Barriers -/

/-- The Steward waits for the release of an arrival that it has made: the instruction has issued (R207, R257). -/
def awaitRelease (r : RoomId) (f : Fis) (ch : ChanId) (halt : Bool) : Op Unit :=
  modify (fun s =>
    (noteIssue r f false .release s).modStew r (fun w =>
      { w with gone := none, stall := if halt then .halted else .barrier, waiting := .release ch halt, stallFrom := winCycles s r,
               running := !halt }))

/-- The physical channel of a logical one, or ILLEGAL_INSTRUCTION (R271). -/
def needChan (r : RoomId) (f : Fis) (l : Nat) : Op ChanId := do
  match mapChan (← get) r l with
  | some ch => pure ch
  | none => illegalFis f

/-- `sy.arrive` (R206, R207): a second arrival waits for the release of the first. -/
def doSyArrive (r : RoomId) (u : FmtU) : Op Unit :=
  stewardU r (.syArrive u) u { imm := 4 } (do
    let ch ← needChan r (.syArrive u) (FmtU.field u 0 3)
    if ((← get).room r).awaiting.get ch then stallOn r .barrier (.syArrive u)
    else
      modify (arriveBar r ch)
      if u.imm.getLsbD 3 then leave r (.syArrive u) else awaitRelease r (.syArrive u) ch false)

/-! ## Sync words -/

/-- The 32-bit value of an s register as an operand. -/
def sWord (m : Room) (v : BitVec 4) : Nat := bitsOf (m.stew.read (.s (Fin.ofNat 32 v.toNat))).toNat 0 32

/-- `sy.signal` (R214). -/
def doSySignal (r : RoomId) (u : FmtU) : Op Unit :=
  stewardU r (.sySignal u) u { imm := 10 } (do
    sendSync r (.sySignal u) u.imm.toNat .signal
    leave r (.sySignal u))

/-- `sy.add`, with its set flag a set (R214). -/
def doSyAdd (r : RoomId) (u : FmtU) : Op Unit :=
  stewardU r (.syAdd u) u { rb := .s, imm := 11 } (do
    let n := sWord ((← get).room r) u.rb
    sendSync r (.syAdd u) (FmtU.field u 0 10) (if u.imm.getLsbD 10 then .set n else .add (signedOf n 32))
    leave r (.syAdd u))

/-- A room's slot. -/
def State.setSlot (s : State) (r : RoomId) (k : Fin 16) (x : WSlot) : State :=
  s.modRoom r (fun m => { m with slots := m.slots.set k x })

/-- Cancels a watch slot (R221): the result, and what becomes of the slot and of the watch. -/
def cancelSlot (r : RoomId) (k : Fin 16) (s : State) : Nat × State :=
  match (s.room r).slots.get k with
  | .armed =>
    let s1 := s.dropWatches (fun x => x.who == .room r k)
    let drop (o : SyncOp) : Bool := match o.act with | .watch slot _ _ => o.room == r && slot == k | _ => false
    let s2 := { s1 with land := { s1.land with ops := s1.land.ops.filter (fun o => !drop o) } }
    let (v, s3) := pickFree s2
    (0, (s3.count64 Reg.landWakes 1).setSlot r k (.wake (BitVec.ofNat 32 v) 3))
  | .empty => (2, s)
  | _ => (1, s)

/-- `sy.watch` (R218, R219, R221): arms a slot, or with its cancel flag cancels it. A slot that holds a wake is armed anew
and the wake is lost (log entry 27). -/
def doSyWatch (r : RoomId) (u : FmtU) : Op Unit :=
  stewardU r (.syWatch u) u { ra := .s, rc := .s, imm := 17 } (do
    let k : Fin 16 := Fin.ofNat 16 (FmtU.field u 10 4)
    if u.imm.getLsbD 16 then
      let (v, s1) := cancelSlot r k (← get)
      set s1
      putScalar r (.s (Fin.ofNat 32 u.rc.toNat)) (BitVec.ofNat 64 v)
      leave r (.syWatch u)
    else
      let m := (← get).room r
      if m.slots.get k = .armed then illegalFis (.syWatch u)
      else
        sendSync r (.syWatch u) (FmtU.field u 0 10) (.watch k (FmtU.field u 14 2) (sWord m u.ra))
        modify (fun s => s.setSlot r k .armed)
        leave r (.syWatch u))

/-- `sy.wait` in slot form (R221): the result's value and status. -/
def waitSlot (r : RoomId) (u : FmtU) : Op Unit := do
  let k : Fin 16 := Fin.ofNat 16 (FmtU.field u 0 4)
  let put (v : Word) (st : Nat) : Op Unit := do
    modify (fun s => s.setSlot r k .empty)
    putScalar r (.s (Fin.ofNat 32 u.rc.toNat)) (BitVec.ofNat 64 (v.toNat + 2 ^ 32 * (st % 4)))
    leave r (.syWait u)
  match ((← get).room r).slots.get k with
  | .wake v st => put v st
  | .empty => put 0 0
  | _ => stallOn r .sync (.syWait u)

/-- `sy.wait` in barrier form (R207): waits for the release of an arrival still awaited. -/
def waitBarrier (r : RoomId) (u : FmtU) : Op Unit := do
  let ch ← needChan r (.syWait u) (FmtU.field u 5 3)
  if ((← get).room r).awaiting.get ch then stallOn r .barrier (.syWait u) else leave r (.syWait u)

/-- `sy.wait` (R207, R221). -/
def doSyWait (r : RoomId) (u : FmtU) : Op Unit :=
  stewardU r (.syWait u) u { rc := .s, imm := 8 } (do if u.imm.getLsbD 4 then waitBarrier r u else waitSlot r u)

/-! ## Fences and halt -/

/-- Whether a side's addresses move from its base: by a stride or a gather, by the plane stride of a split, or by the offset of
scales (R181, R182). -/
def sideMoves (l : Launch) (dst : Bool) : Bool :=
  l.prog.any (fun op => match op with
    | .stride d _ _ => d == dst
    | .gather d _ _ _ _ _ => d == dst
    | .move _ _ op _ scaled _ _ _ _ off => off != 0 && (if dst then op == 2 else op == 1 && scaled)
    | _ => false)

/-- Classes of the accesses of a base of a program: 1 local, 2 Hall, 4 DRAM (R216). An address that moves from an internal base may
lie in this room or in another, so it counts in both (R17, log entry 28). -/
def baseClass (s : State) (r : RoomId) (l : Launch) : DwOp → Nat
  | .base dst space pair addr =>
    let b := baseOf (s.room r) l space pair addr
    if b.dram then (if dst then 4 else 0)
    else if sideMoves l dst then (if dst then 3 else 2)
    else
      let here := bitsOf b.addr 30 2 = 0 ∧ s.fld (rreg r Reg.roomMapi + 4 * bitsOf b.addr 25 5) 0 6 = r.val + 32
      if here then (if dst then 1 else 0) else 2
  | .mcast _ => 2
  | _ => 0

/-- Whether a launch of a room has writes of a class that a mask names (R216). -/
def launchIn (s : State) (r : RoomId) (mask : Nat) (l : Launch) : Bool :=
  l.prog.any (fun op => (baseClass s r l op &&& mask) != 0)

/-- Whether a unit queue has an instruction that is not complete. -/
def UQueue.busy (q : UQueue) : Bool := !q.entries.isEmpty || q.active.isSome || q.beside.isSome

/-- Remote operations and multicasts of a room that are not complete (R197, R200). -/
def hallBusy (s : State) (r : RoomId) : Bool :=
  s.hall.any (fun o => o.src == r && !o.hub) || s.mcasts.any (fun m => m.src == r)

/-- Whether writes of the classes in a mask, issued by a room, are not complete (R216). A launch in the queue, whose
program is not yet known, counts in every class (log entry 28). -/
def fenceBusy (s : State) (r : RoomId) (mask : Nat) : Bool :=
  let m := s.room r
  let q := (m.queue 4).entries
  let units := (List.finRange 4).any (fun i => (m.queue (i.castLE (by decide))).busy)
  let running := (List.finRange 4).any (fun ch => match m.chan ch with | some l => launchIn s r mask l | none => false)
  (bitAt mask 0 && (units || q.any (fun e => !e.isLaunch))) ||
  (bitAt mask 1 && (hallBusy s r || q.any (fun e => !e.isLaunch))) ||
  (mask != 0 && (running || q.any QEntry.isLaunch))

/-- `sy.fence` (R216). -/
def doSyFence (r : RoomId) (u : FmtU) : Op Unit :=
  stewardU r (.syFence u) u { imm := 3 } (do
    if fenceBusy (← get) r u.imm.toNat then stallOn r .fence (.syFence u) else leave r (.syFence u))

/-- Whether a room still has an instruction in a queue, a launch or a remote operation (R257). -/
def roomBusy (s : State) (r : RoomId) : Bool :=
  let m := s.room r
  m.queues.toList.any UQueue.busy || m.chans.toList.any Option.isSome || hallBusy s r

/-- `halt` (R257): once the room is quiet, it arrives on the step barrier and waits for its release. -/
def doHalt (r : RoomId) (u : FmtU) : Op Unit :=
  stewardU r (.halt u) u {} (do
    let s ← get
    if roomBusy s r then stallOn r .halted (.halt u)
    else
      match (s.room r).job with
      | none => illegalFis (.halt u)
      | some j =>
        let ch ← needChan r (.halt u) (s.jobs.get j).desc.stepCh
        if (s.room r).awaiting.get ch then stallOn r .halted (.halt u)
        else
          modify (arriveBar r ch)
          awaitRelease r (.halt u) ch true)

end Sys2Proof.Machine
end

