-- ==== Sys2Proof/Machine/Floor.lean ====
section
/-! DEFINITION. The Floor (03_floor.md): weight tiles, passes in the normal, window and thin forms, masked rows, drain
slots and their drains, and the `fl.` instructions (R54-R84, R270, R381). A pass takes effect as a whole when the Floor
begins it (log entry 29). -/

namespace Sys2Proof.Machine

/-! ## Modes and operands -/

/-- Fields of an FL_MODE word: mask_dest (R71), fp8_sat (R39), win_shift, which is 0 in the normal form (R79), and ppg (R83). -/
def modeMaskDest (w : Nat) : Bool := bitAt w 0
def modeSat (w : Nat) : Bool := bitAt w 1
def modeShift (w : Nat) : Nat := bitsOf w 2 5
def modePpg (w : Nat) : Nat := bitsOf w 7 3

/-- The FL_MODE word in force. -/
def flMode (s : State) (r : RoomId) : Nat := (s.reg (rreg r Reg.flMode)).toNat
/-- FL_MODE.mask_dest (R71). -/
def flMaskDest (s : State) (r : RoomId) : Bool := modeMaskDest (flMode s r)
/-- FL_MODE.fp8_sat (R39). -/
def flSat (s : State) (r : RoomId) : Bool := modeSat (flMode s r)
/-- FL_MODE.win_shift (R79). -/
def flShift (s : State) (r : RoomId) : Nat := modeShift (flMode s r)
/-- FL_MODE.ppg (R83). -/
def flPpg (s : State) (r : RoomId) : Nat := modePpg (flMode s r)

/-- The formats of a Floor operand (R55). -/
def Fmt.floorOk : Fmt → Bool
  | .int4 | .int8 | .int16 | .fp4 | .e4m3 | .e5m2 | .fp16 | .bf16 => true
  | _ => false

/-- A descriptor of the kind that the instruction takes; another kind is illegal (log entry 30). -/
def needKind (f : Fis) (d : Desc) (kind : Nat) : Op Unit := do
  checkDesc d f
  if d.kind ≠ kind then illegalFis f else pure ()

/-- The format of a Floor operand, or ILLEGAL_INSTRUCTION (R55). -/
def floorFmt (f : Fis) (d : Desc) : Op Fmt := do
  needKind f d 0
  let x ← d.format f
  if x.floorOk then pure x else illegalFis f

/-- Whether an operand is an unscaled integer (R56). -/
def Desc.plainInt (d : Desc) (x : Fmt) : Bool := x.isInt && !d.scaled

/-- A product of a pass: exact, with the flags of its operands and of 0 × ∞ (R42, R90). -/
def product (w x : Opd) : Term :=
  let p := mulX w.v x.v
  ⟨p.1, (w.fl.or x.fl).or (mkFlags p.2 false)⟩

/-- A value that is an integer. -/
def Val.toInt : Val → Int
  | .fin s m e => rneInt s m e
  | _ => 0

/-- One post's group: its result and its events, its first element being element k0 of the reduction. Products that are
not fed are −0, and change nothing (R76, R86, R91). -/
def postGroup (integer : Bool) (ws xs : List Opd) (k0 : Nat) : Val × List Ev :=
  let ts := ws.zipWith product xs
  if integer then
    let (v, e) := groupInt (ts.map (fun t => t.v.toInt)) k0
    (Val.ofInt v, e)
  else groupSum ts k0

/-! ## Regions -/

/-- The byte ranges of rows of `n` bytes. -/
def rowRanges (base stride n rows : Nat) : List (Nat × Nat) :=
  (List.range rows).map (fun i => (addrPlus base (i * stride), addrPlus base (i * stride) + n))

/-- Whether any two ranges of two regions share a byte. -/
def regionsMeet (a b : List (Nat × Nat)) : Bool := a.any (fun x => b.any (fun y => overlap x y))

/-- Partial sums of one row of a slot's span (R74). -/
def Slot.rowAddr (sl : Slot) (span row : Nat) : Nat := addrPlus sl.base (span * sl.spanStride + row * sl.rowStride)

/-- Groups that a slot has completed (R74). -/
def Slot.groups (sl : Slot) : Nat := sl.passes / sl.ppg

/-- Spans of a slot with a number of groups: at least one (R77). -/
def spansOf (groups : Nat) : Nat := max 1 (ceilDiv groups 64)

/-- The partial region of a slot over its first spans. -/
def Slot.region (sl : Slot) (spans : Nat) : List (Nat × Nat) :=
  (List.range spans).flatMap (fun sp => rowRanges (addrPlus sl.base (sp * sl.spanStride)) sl.rowStride (4 * sl.cols) sl.rows)

/-! ## Slots -/

/-- The state of one room's Floor. -/
def State.floor (s : State) (r : RoomId) : Floor := (s.room r).floor
/-- Changes one room's Floor. -/
def State.modFloor (s : State) (r : RoomId) (f : Floor → Floor) : State :=
  s.modRoom r (fun m => { m with floor := f m.floor })
/-- Replaces a slot. -/
def State.setFlSlot (s : State) (r : RoomId) (k : Fin 8) (x : Option Slot) : State :=
  s.modFloor r (fun f => { f with slots := f.slots.set k x })

/-- The fields of a partial descriptor that a slot latches and a later pass must repeat (R73). -/
def slotKey (d : Desc) : List Nat := [d.base, d.stride, d.w5, d.rows, d.w3]

/-- A slot as a pass opens it under an FL_MODE word (R73). -/
def newSlot (mode : Nat) (d : Desc) (integer thin : Bool) : Slot :=
  { base := d.base, rowStride := d.stride, spanStride := d.w5, rows := d.rows, cols := d.cols, desc := slotKey d,
    integer := integer, thin := thin, masked := false, live := [], maskDest := modeMaskDest mode, ppg := modePpg mode,
    passes := 0, flags := {}, allMasked := true, compacted := 0 }

/-- The slot that a pass names with a partial descriptor: opened when it is closed, checked against its latch when it is
open (R73). True when it is opened. -/
def claimSlot (r : RoomId) (f : Fis) (k : Fin 8) (d : Desc) (integer thin : Bool) : Op (Slot × Bool) := do
  let s ← get
  let fmt ← d.format f
  if !((fmt == .int32 && integer) || (fmt == .f32 && !integer)) then illegalFis f
  else
    match (s.floor r).slots.get k with
    | none => pure (newSlot (flMode s r) d integer thin, true)
    | some sl =>
      if sl.desc = slotKey d ∧ sl.integer = integer ∧ sl.thin = thin then pure (sl, false) else illegalFis f

/-- The open second slot of an `fl.thin` (R84). -/
def openSlot (r : RoomId) (f : Fis) (k : Fin 8) (integer thin : Bool) : Op (Slot × Bool) := do
  match ((← get).floor r).slots.get k with
  | none => illegalFis f
  | some sl => if sl.integer = integer ∧ sl.thin = thin then pure (sl, false) else illegalFis f

/-- A pass that takes the slot past 4,096 groups is illegal (R74). -/
def checkGroups (f : Fis) (sl : Slot) (passes : Nat) : Op Unit :=
  if 4096 * sl.ppg < sl.passes + passes then illegalFis f else pure ()

/-- The rows of a mask that are live, in order (R69). -/
def liveRows (mask : List Byte) (rows : Nat) : List Nat :=
  (List.range rows).filter (fun i => (mask.getD (i / 8) 0).getLsbD (i % 8))

/-- The live rows of a pass that reads a mask: its own when a descriptor names one (R69, R70). -/
def readMask (r : RoomId) (f : Fis) (d : Desc) (rows : Nat) : Op (Option (List Nat)) := do
  match d.mask with
  | none => pure none
  | some a =>
    if 8192 < rows then illegalFis f
    else pure (some (liveRows (← loadAt r a (ceilDiv rows 8)) rows))

/-- A slot's mask as its first pass latches it (R70). -/
def Slot.withMask (sl : Slot) (live : Option (List Nat)) (rows : Nat) : Slot :=
  match live with
  | none => sl
  | some l => { sl with masked := true, live := l, compacted := rows - l.length }

/-- Whether a row is one that a slot takes: with a mask, one of its live rows (R70). -/
def Slot.takes (sl : Slot) (row : Nat) : Bool := !sl.masked || sl.live.contains row

/-- The rows that a pass of a slot feeds (R70). -/
def Slot.feeds (sl : Slot) (rows : Nat) : List Nat := if sl.masked then sl.live else List.range rows

/-- The rows that a pass feeds: those of its slot, and with a second slot those that either slot takes (R70, R84, log
entry 113). -/
def fedRows (rows : Nat) : List Slot → List Nat
  | [x] => x.feeds rows
  | l => (List.range rows).filter (fun i => l.any (fun x => x.takes i))

/-! ## The slots at issue

A pass's regions are checked when it issues (R84, R85, R266), against the slots as the instructions still queued will leave
them. -/

/-- FL_MODE and the slots as the queued instructions will leave them. -/
structure FloorPlan where
  mode : Nat
  slots : Vector (Option Slot) 8
  deriving DecidableEq, Repr

/-- The slot that a pass of a plan finds or opens (R73). Its accumulator type is not yet known. -/
def FloorPlan.slot (p : FloorPlan) (k : Fin 8) (d : Desc) (thin : Bool) : Slot := (p.slots.get k).getD (newSlot p.mode d false thin)

/-- A pass, or a load of groups, goes into a slot. -/
def FloorPlan.pass (p : FloorPlan) (k : Fin 8) (sl : Slot) (passes : Nat) : FloorPlan :=
  { p with slots := p.slots.set k (some { sl with passes := sl.passes + passes }) }

/-- The first and the second slot number of a pass. -/
def slotOne (u : FmtU) : Fin 8 := Fin.ofNat 8 (FmtU.field u 0 3)
def slotTwo (u : FmtU) : Fin 8 := Fin.ofNat 8 (FmtU.field u 4 3)

/-- Groups of a load of K elements (R381). -/
def thinGroups (d : Desc) : Nat := ceilDiv d.w3 16

/-- What an instruction of the queue leaves of a plan (R63, R73, R77, R84). -/
def FloorPlan.step (p : FloorPlan) (e : QEntry) : FloorPlan :=
  match e.op with
  | .flMode u => { p with mode := u.imm.toNat }
  | .flDrain u => { p with slots := p.slots.set (Fin.ofNat 8 u.imm.toNat) none }
  | .flRun u =>
    if u.imm.getLsbD 7 then p
    else
      let p1 := p.pass (slotOne u) (p.slot (slotOne u) (Desc.ofWords e.rb) false) 1
      if u.imm.getLsbD 3 then p1.pass (slotTwo u) (p1.slot (slotTwo u) (Desc.ofWords e.rc) false) 1 else p1
  | .flThin u =>
    let g := thinGroups (Desc.ofWords e.ra)
    let x := p.slot (slotOne u) (Desc.ofWords e.rc) true
    let p1 := p.pass (slotOne u) x (g * x.ppg)
    match (if u.imm.getLsbD 3 then p1.slots.get (slotTwo u) else none) with
    | some y => p1.pass (slotTwo u) y (g * y.ppg)
    | none => p1
  | _ => p

/-- The plan of a room's Floor for an instruction that issues now. -/
def floorPlan (s : State) (r : RoomId) : FloorPlan :=
  ((s.room r).queue 0).entries.foldl FloorPlan.step ⟨flMode s r, (s.floor r).slots⟩

/-- A slot that a pass names, with the passes that it adds, as issue checks it. -/
structure SlotUse where
  key : Fin 8
  slot : Slot
  passes : Nat
  deriving DecidableEq, Repr

/-- The partial region of a slot once the pass has run (R74). -/
def SlotUse.region (x : SlotUse) : List (Nat × Nat) := x.slot.region (spansOf (ceilDiv (x.slot.passes + x.passes) x.slot.ppg))

/-- The regions of the slots that a pass adds into, checked at issue: they must exist, must not meet each other, and neither they
nor those of another open slot may meet the activation (R21, R84, R85, R266). -/
def checkSlots (r : RoomId) (rows : Nat) (act : List (Nat × Nat)) (p : FloorPlan) (uses : List SlotUse) : Op Unit := do
  uses.forM (fun x =>
    let lo := x.slot.passes / x.slot.ppg / 64
    let hi := (x.slot.passes + x.passes - 1) / x.slot.ppg / 64
    (List.range (hi + 1 - lo)).forM (fun i => checkRows r (x.slot.rowAddr (lo + i) 0) x.slot.rowStride (4 * x.slot.cols) rows))
  match uses with
  | [x, y] => if regionsMeet x.region y.region then badAddr y.slot.base else pure ()
  | _ => pure ()
  let other := (List.finRange 8).filterMap (fun k =>
    if uses.any (fun x => x.key == k) then none
    else (p.slots.get k).map (fun sl => sl.region (spansOf (ceilDiv sl.passes sl.ppg))))
  match act with
  | [] => pure ()
  | x :: _ => if (uses.map SlotUse.region ++ other).any (fun b => regionsMeet act b) then badAddr x.1 else pure ()

/-- An open slot must be named with the partial descriptor and the form of its latch (R73). -/
def checkLatch (f : Fis) (p : FloorPlan) (k : Fin 8) (d : Desc) (thin : Bool) : Op Unit :=
  match p.slots.get k with
  | some sl => if sl.desc = slotKey d ∧ sl.thin = thin then pure () else illegalFis f
  | none => pure ()

/-- Byte ranges of the rows of an activation. -/
def actRanges (a : Desc) (fmt : Fmt) (rows n : Nat) : List (Nat × Nat) :=
  (List.range rows).map (fun i => (a.rowAddr i, a.rowAddr i + fmt.runBytes n))

/-! ## Results -/

/-- One row of results of a pass: its row index and, by column, the result and its events. -/
abbrev RowOut := Nat × List (Val × List Ev)

/-- The events of a row of results, in the exception record (R103). -/
def recordRow (r : RoomId) (pc tile : Nat) (o : RowOut) : Op Unit :=
  modify (fun s => o.2.zipIdx.foldl (fun s p => recordEvents r .floor pc tile o.1 (p.2 % 32) p.1.2 s) s)

/-- The flags of results. -/
def outFlags (o : List RowOut) : Flags :=
  o.foldl (fun f x => x.2.foldl (fun f y => f.or (evFlags y.2)) f) {}

/-- The raw form of a partial sum. -/
def partRaw (integer : Bool) (v : Val) : Nat := if integer then wrapTo v.toInt 32 else encodeExact .f32 v

/-- A partial sum plus a result, in the accumulator type, with its events (R74, R92). -/
def addPartial (integer : Bool) (old : Nat) (v : Val) (k : Nat) : Val × List Ev :=
  if integer then
    let (x, f) := clampI32 (signedOf old 32 + v.toInt)
    (Val.ofInt x, flagEvs f k)
  else
    let (x, f) := add32 (decodeRaw .f32 old).1 v
    (x, flagEvs f k)

/-- One row of a pass enters a slot: pass number `k` of the slot (R74). The flags of the additions. A row past the slot's latched rows
enters too, and only the latched rows drain (log entry 134). -/
def accumRow (r : RoomId) (pc tile : Nat) (sl : Slot) (k : Nat) (o : RowOut) : Op Flags := do
  let g := k / sl.ppg
  let a := sl.rowAddr (g / 64) o.1
  let vs := (o.2.map Prod.fst).take sl.cols
  let fmt : Fmt := if sl.integer then .int32 else .f32
  if vs.isEmpty then pure {}
  else if g % 64 = 0 ∧ k % sl.ppg = 0 then
    storeRaws r fmt a (vs.map (partRaw sl.integer))
    pure {}
  else
    let old ← loadRaws r fmt a vs.length
    let new := (old.zip vs).map (fun p => addPartial sl.integer p.1 p.2 (16 * g))
    storeRaws r fmt a (new.map (fun p => partRaw sl.integer p.1))
    recordRow r pc tile (o.1, new)
    pure (outFlags [(o.1, new)])

/-- A pass's rows enter a slot, which gathers the flags and counts the passes (R74, R102). -/
def accumulate (r : RoomId) (pc tile : Nat) (key : Fin 8) (sl : Slot) (rows : List (Nat × List RowOut)) (passes : Nat)
    (fl : Flags) (fed : Bool) : Op Unit := do
  let fs ← rows.mapM (fun p => p.2.mapM (fun o => accumRow r pc tile sl p.1 o))
  let f := fs.flatten.foldl Flags.or fl
  modify (fun s => s.setFlSlot r key (some { sl with passes := sl.passes + passes, flags := sl.flags.or f, allMasked := sl.allMasked && !fed }))

/-- A destination row of zeros for a masked row, when the mode says ZERO (R71). -/
def zeroRow (r : RoomId) (zero : Bool) (fmt : Fmt) (a n : Nat) : Op Unit :=
  if zero ∧ n ≠ 0 then storeRaws r fmt a (List.replicate n 0) else pure ()

/-- Writes one destination row from its results, or what a masked row leaves (R38, R39, R71). A conversion that raises a captured
flag is an event at its row and column, with k 0 (R103, log entry 114). -/
def writeRow (r : RoomId) (pc : Nat) (d : Desc) (fmt : Fmt) (sat zero : Bool) (cols : Nat) (out : List (Nat × List Val)) (i : Nat) :
    Op (List Flags) :=
  match out.find? (fun o => o.1 == i) with
  | some o =>
    if o.2.isEmpty then pure []
    else do
      let fs ← storeVals r fmt sat (d.rowAddr i) o.2
      modify (fun s => fs.zipIdx.foldl (fun s p => recordEvents r .floor pc d.tag i (p.2 % 32) (flagEvs p.1 0) s) s)
      pure fs
  | none => do
    zeroRow r zero fmt (d.rowAddr i) cols
    pure []

/-- Writes destination rows from converted results (R38, R39, R71, R78): the flags of the conversions. -/
def writeRows (r : RoomId) (pc : Nat) (d : Desc) (fmt : Fmt) (sat zero : Bool) (rows cols : Nat) (out : List (Nat × List Val)) :
    Op Flags := do
  let fs ← (List.range rows).mapM (writeRow r pc d fmt sat zero cols out)
  pure (fs.flatten.foldl Flags.or {})

/-! ## Counters -/

/-- Bubbles and the lowest credit of a pass depend on timing, which the model leaves out: free values within the bounds
of R64 and R65 (log entry 31). `most` is the most rows that one quarter takes: only a quarter that has used up its credit, and has
rows left, gets bubbles for want of credit. -/
def noteBubbles (r : RoomId) (most : Nat) (s : State) : State :=
  if most = 0 then s
  else
    let (d, s1) := pickFree s
    let (c, s2) := pickFree s1
    let (x, s3) := pickFree s2
    let credit := (s3.floor r).credit
    let held := 1 + x % max 1 (min most credit)
    let c := if credit ≤ held ∧ credit < most then c else 0
    let s4 := (s3.count64 (rreg r Reg.flBubbleDry) d).count64 (rreg r Reg.flBubbleCredit) c
    let s5 := s4.orReg (rreg r Reg.flEvent) ((if 0 < c then 4 else 0) + (if 0 < d then 8 else 0))
    let k := rreg r Reg.flCredit
    s5.setFld k 16 7 (min (s5.fld k 16 7) (credit - held))

/-- Counts one pass, what it fed and what a mask removed. -/
def notePass (r : RoomId) (fed removed most : Nat) : Op Unit :=
  modify (fun s => noteBubbles r most
    (((s.count64 (rreg r Reg.flPasses) 1).count64 (rreg r Reg.flRowsFed) fed).count64 (rreg r Reg.flRowsCompacted) removed))

/-- Quarters that are enabled (R59). -/
def enabledQuarters (s : State) (r : RoomId) : Nat :=
  4 - ((List.range 4).filter (fun q => bitAt (s.reg (rreg r Reg.flCtl)).toNat q)).length

/-! ## `fl.load` -/

/-- Checks of `fl.load` at issue (R55, R266). -/
def checkFlLoad (r : RoomId) (u : FmtU) (e : QEntry) : Op Unit := do
  let d := Desc.ofWords e.ra
  let fmt ← floorFmt (.flLoad u) d
  checkTensor r d fmt (if u.imm.getLsbD 0 then 1 else 32) 16

/-- `fl.load` (R57, R58): the tile enters the shadow registers. -/
def beginFlLoad (r : RoomId) (u : FmtU) (e : QEntry) : Op Unit := do
  let d := Desc.ofWords e.ra
  let fmt ← floorFmt (.flLoad u) d
  let rows ← if u.imm.getLsbD 0 then do
      let row ← loadScaled r d fmt 0 0 16
      pure (List.replicate 32 row)
    else (List.range 32).mapM (fun p => loadScaled r d fmt p 0 16)
  modify (fun s =>
    let s1 := if (s.floor r).shadowFull then s.orReg (rreg r Reg.flEvent) 2 else s
    s1.modFloor r (fun f => { f with shadow := ⟨some (d.plainInt fmt), rows⟩, shadowFull := true }))

/-! ## `fl.run` -/

/-- The runs of a window activation: their count and their length in elements (R266). -/
def windowRuns (f : Fis) (d : Desc) : Op (Nat × Nat) :=
  let n := bitsOf d.w3 0 3
  let len := bitsOf d.w3 8 24
  if n = 0 ∨ 4 < n ∨ len = 0 ∨ bitsOf d.w3 3 5 ≠ 0 then illegalFis f else pure (n, len)

/-- Rows and elements of each row of the activation of an `fl.run` under a window shift (R76, R79). -/
def activationForm (f : Fis) (d : Desc) (shift : Nat) : Op (Nat × Nat) :=
  if shift = 0 then (if d.w3 = 0 ∨ 16 < d.w3 then illegalFis f else pure (d.rows, d.w3)) else windowRuns f d

/-- Checks of `fl.run` at issue (R55, R73, R76, R84, R85, R266). Naming one slot twice is illegal (log entry 115); a direct pass
ignores the slot bits (log entry 116); a row count above 2²⁰ runs (R59, log entry 133). -/
def checkFlRun (r : RoomId) (u : FmtU) (e : QEntry) : Op Unit := do
  let f := Fis.flRun u
  let a := Desc.ofWords e.ra
  let b := Desc.ofWords e.rb
  let fmt ← floorFmt f a
  let p := floorPlan (← get) r
  let shift := modeShift p.mode
  let (rows, n) ← activationForm f a shift
  checkTensor r a fmt rows n
  match a.mask with
  | some m => checkAt r m (max 1 (ceilDiv rows 8))
  | none => pure ()
  if u.imm.getLsbD 7 then
    needKind f b 0
    let df ← b.format f
    checkRows r b.base b.stride (df.runBytes (min b.cols (if shift = 0 then 32 else a.rows))) rows
    checkStatus r b
    checkSlots r rows (actRanges a fmt rows n) p []
  else
    needKind f b 1
    checkLatch f p (slotOne u) b false
    let x : SlotUse := ⟨slotOne u, p.slot (slotOne u) b false, 1⟩
    if u.imm.getLsbD 3 then
      let c := Desc.ofWords e.rc
      needKind f c 1
      if slotOne u = slotTwo u then illegalFis f
      else
        checkLatch f p (slotTwo u) c false
        checkSlots r rows (actRanges a fmt rows n) p [x, ⟨slotTwo u, p.slot (slotTwo u) c false, 1⟩]
    else checkSlots r rows (actRanges a fmt rows n) p [x]

/-- The tile that the pass uses, which the shadow holds when a load has completed since the last pass (R60); a pass without a live row
takes it all the same (log entry 117). -/
def takeTile (r : RoomId) : Op Tile := do
  let fl := (← get).floor r
  if fl.shadowFull then
    modify (fun s => s.modFloor r (fun f => { f with rest := f.shadow, shadowFull := false }))
    pure fl.shadow
  else pure fl.rest

/-- The tile that the next pass will use. -/
def Floor.nextTile (fl : Floor) : Tile := if fl.shadowFull then fl.shadow else fl.rest

/-- The accumulator type of a pass (R56); the +0 rests of reset go with either (log entry 16). -/
def passInteger (t : Tile) (actInt : Bool) (part : Desc) (direct : Bool) : Bool :=
  match t.integer with
  | some i => actInt && i
  | none => actInt && (direct || part.fmt == 3)

/-- The results of one activation row in the normal form: 32 posts, of which the first `cols` are taken (R54, R61). -/
def normalRow (t : Tile) (integer : Bool) (xs : List Opd) (cols k0 : Nat) : List (Val × List Ev) :=
  (t.rows.take cols).map (fun ws => postGroup integer (ws.take xs.length) xs k0)

/-- Window element i of a run: +0 from the run length on (R79). -/
def windowEl (xs : List Opd) (i : Nat) : Opd := xs.getD i ⟨.pz, {}⟩

/-- The results of one run in the window form: output o on post o mod 32 (R79). -/
def windowRow (t : Tile) (integer : Bool) (shift : Nat) (xs : List Opd) (outs k0 : Nat) : List (Val × List Ev) :=
  (List.range outs).map (fun o =>
    postGroup integer (t.rows.getD (o % 32) []) ((List.range 16).map (fun j => windowEl xs (o * shift + j))) k0)

/-- The results of the rows that a pass feeds. -/
def passRows (r : RoomId) (a : Desc) (fmt : Fmt) (shift n : Nat) (t : Tile) (integer : Bool) (cols k0 : Nat)
    (live : List Nat) : Op (List RowOut) :=
  live.mapM (fun i => do
    if shift = 0 then
      let xs ← loadScaled r a fmt i 0 n
      pure (i, normalRow t integer xs cols k0)
    else
      let outs := min a.rows cols
      let xs ← loadScaled r a fmt i 0 (min n (if outs = 0 then 0 else (outs - 1) * shift + 16))
      pure (i, windowRow t integer shift xs outs k0))

/-- Records the events of a pass's results. -/
def recordRows (r : RoomId) (pc tile : Nat) (rows : List RowOut) : Op Unit := rows.forM (recordRow r pc tile)

/-- The slots that an `fl.run` names, opened or checked (R73, R74, R84). -/
def runSlots (r : RoomId) (u : FmtU) (e : QEntry) (integer : Bool) : Op (List (Fin 8 × Slot × Bool)) := do
  let f := Fis.flRun u
  let (s1, o1) ← claimSlot r f (slotOne u) (Desc.ofWords e.rb) integer false
  checkGroups f s1 1
  if u.imm.getLsbD 3 then
    let (s2, o2) ← claimSlot r f (slotTwo u) (Desc.ofWords e.rc) integer false
    checkGroups f s2 1
    pure [(slotOne u, s1, o1), (slotTwo u, s2, o2)]
  else pure [(slotOne u, s1, o1)]

/-- The slots of a pass, those that it opens with the mask that it names (R70, R73, R84): the mask is read when a slot opens. -/
def slotMasks (r : RoomId) (f : Fis) (a : Desc) (rows : Nat) (sls : List (Fin 8 × Slot × Bool)) : Op (List (Fin 8 × Slot)) := do
  let mask ← if sls.any (fun x => x.2.2) then readMask r f a rows else pure none
  pure (sls.map (fun x => (x.1, if x.2.2 then x.2.1.withMask mask rows else x.2.1)))

/-- A direct pass (R78): every result is converted and written, and the pass has its own status word (R102). -/
def runDirect (r : RoomId) (u : FmtU) (e : QEntry) (rows cols : Nat) (live : Option (List Nat)) (out : List RowOut) :
    Op Unit := do
  let d := Desc.ofWords e.rb
  let fmt ← d.format (.flRun u)
  let s ← get
  recordRows r e.pc d.tag out
  let fl ← writeRows r e.pc d fmt (flSat s r) (flMaskDest s r) rows cols (out.map (fun o => (o.1, o.2.map Prod.fst)))
  let gone := match live with | some l => rows - l.length | none => 0
  putStatus r d.status { fl := (outFlags out).or fl, empty := out.isEmpty, compacted := gone }

/-- The results of a pass that a slot takes (R70, R84). -/
def Slot.own (sl : Slot) (out : List RowOut) : List RowOut := out.filter (fun o => sl.takes o.1)

/-- A pass into slots (R73, R74, R84): each takes the rows of its own mask (R70). -/
def runIntoSlots (r : RoomId) (e : QEntry) (sls : List (Fin 8 × Slot)) (out : List RowOut) : Op Unit := do
  let tile := (Desc.ofWords e.rb).tag
  recordRows r e.pc tile out
  sls.forM (fun x =>
    let own := x.2.own out
    accumulate r e.pc tile x.1 x.2 [(x.2.passes, own)] 1 (outFlags own) (!own.isEmpty))

/-- The most rows or feed cycles of one quarter in a pass: no row, no feed (R59, R72, R79). -/
def mostFed (shift fed outs quarters : Nat) : Nat := if fed = 0 then 0 else if shift = 0 then ceilDiv fed quarters else ceilDiv outs 32

/-- `fl.run` (R54-R62, R69-R79, R84). A pass without a live row takes the tile all the same (log entry 117), and a window pass feeds
every run whatever quarters are off (log entry 118). -/
def beginFlRun (r : RoomId) (u : FmtU) (e : QEntry) : Op Unit := do
  let f := Fis.flRun u
  let a := Desc.ofWords e.ra
  let b := Desc.ofWords e.rb
  let fmt ← floorFmt f a
  let s ← get
  let shift := flShift s r
  let direct := u.imm.getLsbD 7
  let (rows, n) ← activationForm f a shift
  if enabledQuarters s r = 0 then illegalFis f
  else
    let tile := (s.floor r).nextTile
    let integer := passInteger tile (a.plainInt fmt) b direct
    let cols := if shift = 0 then min b.cols 32 else min b.cols a.rows
    if direct then
      let mask ← readMask r f a rows
      let fed := mask.getD (List.range rows)
      let t ← takeTile r
      modify (fun s => s.modFloor r (fun f => { f with form := if shift = 0 then 0 else 1 }))
      let out ← passRows r a fmt shift n t integer cols 0 fed
      runDirect r u e rows cols mask out
      notePass r (if shift = 0 then fed.length else fed.length * cols) (rows - fed.length)
        (mostFed shift fed.length a.rows (enabledQuarters s r))
    else
      let sls ← slotMasks r f a rows (← runSlots r u e integer)
      let fed := fedRows rows (sls.map Prod.snd)
      let t ← takeTile r
      modify (fun s => s.modFloor r (fun f => { f with form := if shift = 0 then 0 else 1 }))
      let k0 := match sls with | x :: _ => 16 * x.2.groups | [] => 0
      let out ← passRows r a fmt shift n t integer cols k0 fed
      runIntoSlots r e sls out
      notePass r (if shift = 0 then fed.length else fed.length * cols) (rows - fed.length)
        (mostFed shift fed.length a.rows (enabledQuarters s r))

/-! ## `fl.thin` -/

/-- The K slice of a load of m rows (R80). -/
def thinSlice (m : Nat) : Nat := if m = 1 then 2048 else if m = 2 then 1024 else 512

/-- The rows, K and columns of an `fl.thin`, or ILLEGAL_INSTRUCTION (R82, R381). -/
def thinForm (f : Fis) (a b : Desc) : Op (Nat × Nat × Nat) :=
  if a.rows = 0 ∨ 4 < a.rows ∨ a.w3 = 0 ∨ thinSlice a.rows < a.w3 ∨ b.w3 ≠ a.w3 then illegalFis f
  else pure (a.rows, a.w3, b.rows)

/-- Checks of `fl.thin` at issue (R55, R73, R84, R85, R266, R381). -/
def checkFlThin (r : RoomId) (u : FmtU) (e : QEntry) : Op Unit := do
  let f := Fis.flThin u
  let a := Desc.ofWords e.ra
  let b := Desc.ofWords e.rb
  let c := Desc.ofWords e.rc
  let fa ← floorFmt f a
  let fb ← floorFmt f b
  needKind f c 1
  let (m, k, n) ← thinForm f a b
  checkTensor r a fa m k
  checkTensor r b fb n k
  match a.mask with
  | some x => checkAt r x 1
  | none => pure ()
  let p := floorPlan (← get) r
  checkLatch f p (slotOne u) c true
  let g := thinGroups a
  let x := p.slot (slotOne u) c true
  if u.imm.getLsbD 3 then
    if slotOne u = slotTwo u then illegalFis f
    else
      match p.slots.get (slotTwo u) with
      | none => illegalFis f
      | some y => checkSlots r m (actRanges a fa m k) p [⟨slotOne u, x, g * x.ppg⟩, ⟨slotTwo u, y, g * y.ppg⟩]
  else checkSlots r m (actRanges a fa m k) p [⟨slotOne u, x, g * x.ppg⟩]

/-- The slots of an `fl.thin`; a second slot must be open (R84). -/
def thinSlots (r : RoomId) (u : FmtU) (e : QEntry) (integer : Bool) (groups : Nat) : Op (List (Fin 8 × Slot × Bool)) := do
  let f := Fis.flThin u
  let (s1, o1) ← claimSlot r f (slotOne u) (Desc.ofWords e.rc) integer true
  checkGroups f s1 (groups * s1.ppg)
  if u.imm.getLsbD 3 then
    let (s2, o2) ← openSlot r f (slotTwo u) integer true
    checkGroups f s2 (groups * s2.ppg)
    pure [(slotOne u, s1, o1), (slotTwo u, s2, o2)]
  else pure [(slotOne u, s1, o1)]

/-- The rest registers once the stationary rows of an `fl.thin` have passed through them: which element of those rows a post of
the normal form then holds is open, so each is free (R54, R80, R82, log entry 126). -/
def thinRest (n : Nat) (plain : Bool) (fmt : Fmt) : Tile :=
  ⟨some plain, (List.range 32).map (fun p => (List.range 16).map (fun i => readOpd fmt (Config.pick (n + 16 * p + i) % 2 ^ fmt.bits)))⟩

/-- The stationary rows go through the shadow registers (R58, R82): a tile there that no pass has taken is replaced. -/
def takeThinRows (r : RoomId) (plain : Bool) (fmt : Fmt) (s : State) : State :=
  let s1 := if (s.floor r).shadowFull then s.orReg (rreg r Reg.flEvent) 2 else s
  { s1 with free := s1.free + 512 }.modFloor r (fun f => { f with form := 2, rest := thinRest s1.free plain fmt, shadowFull := false })

/-- The group results of an `fl.thin`: the products of one group of each fed row with each column (R80). -/
def thinGroup (integer : Bool) (base : Nat) (xs : List (Nat × List Opd)) (ws : List (List Opd)) (g : Nat) : List RowOut :=
  xs.map (fun x => (x.1, ws.map (fun w => postGroup integer ((w.drop (16 * g)).take 16) ((x.2.drop (16 * g)).take 16) (16 * (base + g)))))

/-- `fl.thin` (R80-R82, R381): a load of ⌈K ÷ 16⌉ groups, each a group of its slot's order, of ppg passes (log entry 71). Without a
live row nothing is fed (R72). -/
def beginFlThin (r : RoomId) (u : FmtU) (e : QEntry) : Op Unit := do
  let f := Fis.flThin u
  let a := Desc.ofWords e.ra
  let b := Desc.ofWords e.rb
  let fa ← floorFmt f a
  let fb ← floorFmt f b
  let (m, k, n) ← thinForm f a b
  let s ← get
  if enabledQuarters s r ≠ 4 then illegalFis f
  else
    let integer := a.plainInt fa && b.plainInt fb
    let groups := thinGroups a
    let sls ← slotMasks r f a m (← thinSlots r u e integer groups)
    let fed := fedRows m (sls.map Prod.snd)
    if !fed.isEmpty then modify (takeThinRows r (a.plainInt fa) fa)
    let xs ← fed.mapM (fun i => do pure (i, ← loadScaled r a fa i 0 k))
    let ws ← (List.range (if fed.isEmpty then 0 else n)).mapM (fun j => loadScaled r b fb j 0 k)
    let tile := (Desc.ofWords e.rc).tag
    let base := match sls with | x :: _ => x.2.groups | [] => 0
    let out := (List.range groups).map (thinGroup integer base xs ws)
    out.forM (recordRows r e.pc tile)
    sls.forM (fun x =>
      let sl := x.2
      let own := out.map sl.own
      accumulate r e.pc tile x.1 sl (own.zipIdx.map (fun p => ((sl.groups + p.2) * sl.ppg, p.1))) (groups * sl.ppg)
        (own.foldl (fun f o => f.or (outFlags o)) {}) (own.any (fun o => !o.isEmpty)))
    notePass r (if fed.isEmpty then 0 else n) (m - fed.length) (if fed.isEmpty then 0 else n)

/-! ## `fl.drain` and `fl.mode` -/

/-- Checks of `fl.drain` at issue (R29, R85, R266): the destination holds the slot's rows and columns. -/
def checkFlDrain (r : RoomId) (u : FmtU) (e : QEntry) : Op Unit := do
  let d := Desc.ofWords e.ra
  needKind (.flDrain u) d 0
  checkStatus r d
  let fmt ← d.format (.flDrain u)
  match (floorPlan (← get) r).slots.get (Fin.ofNat 8 u.imm.toNat) with
  | none => illegalFis (.flDrain u)
  | some sl => checkRows r d.base d.stride (fmt.runBytes sl.cols) sl.rows

/-- The span partials of one element combined by the tree of R93, with its events. -/
def combineSpans (integer : Bool) (parts : List Nat) : Val × List Ev :=
  if integer then
    let (x, es) := tree addIPart (parts.zipIdx.map (fun p => (⟨signedOf p.1 32, 1024 * p.2⟩ : IPart)))
    (Val.ofInt ((x.map IPart.v).getD 0), es)
  else
    let (x, es) := tree addPart (parts.zipIdx.map (fun p => (⟨(decodeRaw .f32 p.1).1, 1024 * p.2⟩ : Part)))
    ((x.map Part.v).getD .nz, es)

/-- Span partials of a slot: ⌈g ÷ 64⌉ of its completed groups (R77). -/
def Slot.spans (sl : Slot) : Nat := ceilDiv sl.groups 64

/-- The results of one row of a slot. -/
def drainRow (r : RoomId) (sl : Slot) (row : Nat) : Op RowOut := do
  let fmt : Fmt := if sl.integer then .int32 else .f32
  let parts ← (List.range sl.spans).mapM (fun sp => loadRaws r fmt (sl.rowAddr sp row) sl.cols)
  pure (row, (List.range sl.cols).map (fun c => combineSpans sl.integer (parts.map (fun p => p.getD c 0))))

/-- `fl.drain` (R77). -/
def beginFlDrain (r : RoomId) (u : FmtU) (e : QEntry) : Op Unit := do
  let f := Fis.flDrain u
  let d := Desc.ofWords e.ra
  let k : Fin 8 := Fin.ofNat 8 u.imm.toNat
  let fmt ← d.format f
  let s ← get
  match (s.floor r).slots.get k with
  | none => illegalFis f
  | some sl =>
    let out ← (if sl.cols = 0 then [] else sl.feeds sl.rows).mapM (drainRow r sl)
    recordRows r e.pc d.tag out
    let fl ← writeRows r e.pc d fmt (flSat s r) sl.maskDest sl.rows sl.cols (out.map (fun o => (o.1, o.2.map Prod.fst)))
    modify (fun s => s.setFlSlot r k none)
    putStatus r d.status
      { fl := (sl.flags.or (outFlags out)).or fl, empty := sl.allMasked, compacted := sl.compacted }

/-- Checks of `fl.mode` at issue: a shift above 16 and a ppg of 0 or 7 cannot be set. -/
def checkFlMode (u : FmtU) : Op Unit :=
  if 16 < FmtU.field u 2 5 ∨ FmtU.field u 7 3 = 0 ∨ FmtU.field u 7 3 = 7 then illegalFis (.flMode u) else pure ()

/-- `fl.mode` (R63): FL_MODE for the passes that follow. -/
def beginFlMode (r : RoomId) (u : FmtU) : Op Unit :=
  modify (fun s => s.setReg (rreg r Reg.flMode) (BitVec.ofNat 32 u.imm.toNat))

/-- The slots that a queued instruction names (R73, R77, R84). -/
def QEntry.flSlots (e : QEntry) : List (Fin 8) :=
  match e.op with
  | .flRun u => if u.imm.getLsbD 7 then [] else if u.imm.getLsbD 3 then [slotOne u, slotTwo u] else [slotOne u]
  | .flThin u => if u.imm.getLsbD 3 then [slotOne u, slotTwo u] else [slotOne u]
  | .flDrain u => [Fin.ofNat 8 u.imm.toNat]
  | _ => []

/-- Whether an instruction in progress names a slot of another. -/
def slotsMeet (x : Option QEntry) (e : QEntry) : Bool :=
  match x with
  | some y => y.flSlots.any (fun k => e.flSlots.contains k)
  | none => false

/-- Whether a queued instruction is a drain. -/
def QEntry.isDrain (e : QEntry) : Bool :=
  match e.op with
  | .flDrain _ => true
  | _ => false

/-- Whether the head of the Floor's queue may begin: a drain beside the array, once the passes of its slot are complete; anything
else on the array, unless its slot is still being drained (R62, R77). -/
def floorFree (q : UQueue) (e : QEntry) : Bool :=
  if e.isDrain then q.beside.isNone && !slotsMeet q.active e else q.active.isNone && !slotsMeet q.beside e

/-! ## The instructions -/

/-- `fl.load` issues. -/
def doFlLoad (r : RoomId) (u : FmtU) : Op Unit := unitU r 0 (.flLoad u) u { ra := .d, imm := 1 } (checkFlLoad r u)
/-- `fl.run` issues. -/
def doFlRun (r : RoomId) (u : FmtU) : Op Unit :=
  unitU r 0 (.flRun u) u { ra := .d, rb := .d, rc := .dIf 3, imm := 8 } (checkFlRun r u)
/-- `fl.thin` issues. -/
def doFlThin (r : RoomId) (u : FmtU) : Op Unit :=
  unitU r 0 (.flThin u) u { ra := .d, rb := .d, rc := .d, imm := 7 } (checkFlThin r u)
/-- `fl.drain` issues. -/
def doFlDrain (r : RoomId) (u : FmtU) : Op Unit := unitU r 0 (.flDrain u) u { ra := .d, imm := 3 } (checkFlDrain r u)
/-- `fl.mode` issues. -/
def doFlMode (r : RoomId) (u : FmtU) : Op Unit := unitU r 0 (.flMode u) u { imm := 10 } (fun _ => checkFlMode u)

/-- FL_STATUS.busy: a Floor instruction is queued or executing. -/
def floorBusy (s : State) (r : RoomId) : Bool := ((s.room r).queue 0).busy

/-- FL_CREDIT.limit as it acts: 0 as 1, above 64 as 64 (R65). -/
def creditLimit (s : State) (r : RoomId) : Nat := max 1 (min 64 (s.fld (rreg r Reg.flCredit) 0 7))

/-- The Floor is idle: the credit counts take the limit (R65). -/
def floorIdleNow (r : RoomId) (s : State) : State :=
  if floorBusy s r then s
  else
    let n := creditLimit s r
    let k := rreg r Reg.flCredit
    (s.setFld k 16 7 (min (s.fld k 16 7) n)).modFloor r (fun f => { f with credit := n })

end Sys2Proof.Machine
end

