-- ==== Sys2Proof/Machine/LampTables.lean ====
section
/-! DEFINITION. The Lamp's built-in tables (R141): knots, correctly rounded values at the knots and slopes formed from the
rounded values, as binary32 encodings. -/

namespace Sys2Proof.Machine

/-- Knots x of the built-in exp2 table (R141), binary32. -/
def exp2X : List Nat :=
  [0x00000000, 0x3D000000, 0x3D800000, 0x3DC00000, 0x3E000000, 0x3E200000, 0x3E400000, 0x3E600000,
   0x3E800000, 0x3E900000, 0x3EA00000, 0x3EB00000, 0x3EC00000, 0x3ED00000, 0x3EE00000, 0x3EF00000,
   0x3F000000, 0x3F080000, 0x3F100000, 0x3F180000, 0x3F200000, 0x3F280000, 0x3F300000, 0x3F380000,
   0x3F400000, 0x3F480000, 0x3F500000, 0x3F580000, 0x3F600000, 0x3F680000, 0x3F700000, 0x3F780000,
   0x3F800000]

/-- Knots x of the built-in recip table (R141), binary32. -/
def recipX : List Nat :=
  [0x3F800000, 0x3F82CD87, 0x3F85AAC3, 0x3F88980F, 0x3F8B95C2, 0x3F8EA43A, 0x3F91C3D3, 0x3F94F4F0,
   0x3F9837F0, 0x3F9B8D3A, 0x3F9EF532, 0x3FA27043, 0x3FA5FED7, 0x3FA9A15B, 0x3FAD583F, 0x3FB123F6,
   0x3FB504F3, 0x3FB8FBAF, 0x3FBD08A4, 0x3FC12C4D, 0x3FC5672A, 0x3FC9B9BE, 0x3FCE248C, 0x3FD2A81E,
   0x3FD744FD, 0x3FDBFBB8, 0x3FE0CCDF, 0x3FE5B907, 0x3FEAC0C7, 0x3FEFE4BA, 0x3FF5257D, 0x3FFA83B3,
   0x40000000]

/-- Knots x of the built-in rsqrt table (R141), binary32. -/
def rsqrtX : List Nat :=
  [0x3F800000, 0x3F85AAC3, 0x3F8B95C2, 0x3F91C3D3, 0x3F9837F0, 0x3F9EF532, 0x3FA5FED7, 0x3FAD583F,
   0x3FB504F3, 0x3FBD08A4, 0x3FC5672A, 0x3FCE248C, 0x3FD744FD, 0x3FE0CCDF, 0x3FEAC0C7, 0x3FF5257D,
   0x40000000, 0x4005AAC3, 0x400B95C2, 0x4011C3D3, 0x401837F0, 0x401EF532, 0x4025FED7, 0x402D583F,
   0x403504F3, 0x403D08A4, 0x4045672A, 0x404E248C, 0x405744FD, 0x4060CCDF, 0x406AC0C7, 0x4075257D,
   0x40800000]

/-- Knots x of sigmoid, SiLU, softplus and GELU (R141). -/
def smoothX : List Nat :=
  [0xC1000000, 0xC0C00000, 0xC0A00000, 0xC0800000, 0xC0600000, 0xC0400000, 0xC0200000, 0xC0100000,
   0xC0000000, 0xBFE00000, 0xBFC00000, 0xBFA00000, 0xBF800000, 0xBF400000, 0xBF000000, 0xBE800000,
   0x00000000, 0x3E800000, 0x3F000000, 0x3F400000, 0x3F800000, 0x3FA00000, 0x3FC00000, 0x3FE00000,
   0x40000000, 0x40100000, 0x40200000, 0x40400000, 0x40600000, 0x40800000, 0x40A00000, 0x40C00000,
   0x41000000]

/-- Knots y of the built-in exp2 table (R141). -/
def exp2Y : List Nat :=
  [0x3F800000, 0x3F82CD87, 0x3F85AAC3, 0x3F88980F, 0x3F8B95C2, 0x3F8EA43A, 0x3F91C3D3, 0x3F94F4F0,
   0x3F9837F0, 0x3F9B8D3A, 0x3F9EF532, 0x3FA27043, 0x3FA5FED7, 0x3FA9A15B, 0x3FAD583F, 0x3FB123F6,
   0x3FB504F3, 0x3FB8FBAF, 0x3FBD08A4, 0x3FC12C4D, 0x3FC5672A, 0x3FC9B9BE, 0x3FCE248C, 0x3FD2A81E,
   0x3FD744FD, 0x3FDBFBB8, 0x3FE0CCDF, 0x3FE5B907, 0x3FEAC0C7, 0x3FEFE4BA, 0x3FF5257D, 0x3FFA83B3,
   0x40000000]

/-- Slopes of the built-in exp2 table (R141). -/
def exp2S : List Nat :=
  [0x3F3361C0, 0x3F374F00, 0x3F3B5300, 0x3F3F6CC0, 0x3F439E00, 0x3F47E640, 0x3F4C4740, 0x3F50C000,
   0x3F555280, 0x3F59FE00, 0x3F5EC440, 0x3F63A500, 0x3F68A100, 0x3F6DB900, 0x3F72EDC0, 0x3F783F40,
   0x3F7DAF00, 0x3F819EA0, 0x3F847520, 0x3F875BA0, 0x3F8A5280, 0x3F8D59C0, 0x3F907240, 0x3F939BE0,
   0x3F96D760, 0x3F9A24E0, 0x3F9D8500, 0x3FA0F800, 0x3FA47E60, 0x3FA81860, 0x3FABC6C0, 0x3FAF89A0]

/-- Knots y of the built-in recip table (R141). -/
def recipY : List Nat :=
  [0x3F800000, 0x3F7A83B2, 0x3F75257E, 0x3F6FE4B9, 0x3F6AC0C7, 0x3F65B906, 0x3F60CCE0, 0x3F5BFBB7,
   0x3F5744FD, 0x3F52A81D, 0x3F4E248D, 0x3F49B9BE, 0x3F45672A, 0x3F412C4C, 0x3F3D08A4, 0x3F38FBAF,
   0x3F3504F3, 0x3F3123F6, 0x3F2D583F, 0x3F29A15B, 0x3F25FED7, 0x3F227043, 0x3F1EF532, 0x3F1B8D39,
   0x3F1837F0, 0x3F14F4EF, 0x3F11C3D3, 0x3F0EA439, 0x3F0B95C2, 0x3F08980E, 0x3F05AAC3, 0x3F02CD87,
   0x3F000000]

/-- Slopes of the built-in recip table (R141). -/
def recipS : List Nat :=
  [0xBF7A83B6, 0xBF6FE4AE, 0xBF65B903, 0xBF5BFBB6, 0xBF52A830, 0xBF49B9A7, 0xBF412C60, 0xBF38FBB5,
   0xBF3123F4, 0xBF29A143, 0xBF227042, 0xBF1B8D3E, 0xBF14F50B, 0xBF0EA419, 0xBF089816, 0xBF02CD9C,
   0xBEFA838B, 0xBEEFE4AD, 0xBEE5B903, 0xBEDBFBC3, 0xBED2A818, 0xBEC9B9EC, 0xBEC12C4B, 0xBEB8FBA2,
   0xBEB12401, 0xBEA9A15B, 0xBEA27047, 0xBE9B8D19, 0xBE94F506, 0xBE8EA442, 0xBE8897E2, 0xBE82CD9D]

/-- Knots y of the built-in rsqrt table (R141). -/
def rsqrtY : List Nat :=
  [0x3F800000, 0x3F7A83B3, 0x3F75257D, 0x3F6FE4BA, 0x3F6AC0C7, 0x3F65B907, 0x3F60CCDF, 0x3F5BFBB8,
   0x3F5744FD, 0x3F52A81D, 0x3F4E248C, 0x3F49B9BE, 0x3F45672A, 0x3F412C4D, 0x3F3D08A4, 0x3F38FBAF,
   0x3F3504F3, 0x3F3123F6, 0x3F2D583F, 0x3F29A15B, 0x3F25FED7, 0x3F227043, 0x3F1EF532, 0x3F1B8D3A,
   0x3F1837F0, 0x3F14F4F0, 0x3F11C3D3, 0x3F0EA43A, 0x3F0B95C2, 0x3F08980E, 0x3F05AAC3, 0x3F02CD87,
   0x3F000000]

/-- Slopes of the built-in rsqrt table (R141). -/
def rsqrtS : List Nat :=
  [0xBEF7CD32, 0xBEE835E3, 0xBED999D2, 0xBECBE90D, 0xBEBF14BD, 0xBEB30F02, 0xBEA7CB09, 0xBE9D3C8A,
   0xBE935803, 0xBE8A12BB, 0xBE8162D1, 0xBE727DEA, 0xBE633C14, 0xBE54F01F, 0xBE478A9A, 0xBE3AFC87,
   0xBE2F38C4, 0xBE2432A2, 0xBE19DDFC, 0xBE102FAD, 0xBE071D69, 0xBDFD3A40, 0xBDED4B7B, 0xBDDE5DCE,
   0xBDD05FDA, 0xBDC34419, 0xBDB6FA9E, 0xBDAB77B5, 0xBDA0AE0B, 0xBD9691E5, 0xBD8D189C, 0xBD84383F]

/-- Knots y of the built-in sigmoid table (R141). -/
def sigmoidY : List Nat :=
  [0x39AFD1EF, 0x3B220BBC, 0x3BDB4FB4, 0x3C9357D1, 0x3CF02034, 0x3D4241A2, 0x3D9B5B89, 0x3DC34695,
   0x3DF420A9, 0x3E1799AF, 0x3E3ACDC2, 0x3E640B81, 0x3E89B2B1, 0x3EA442B1, 0x3EC14D03, 0x3EE02A67,
   0x3F000000, 0x3F0FEACD, 0x3F1F597F, 0x3F2DDEA8, 0x3F3B26A8, 0x3F46FD20, 0x3F514C90, 0x3F5A1994,
   0x3F617BEB, 0x3F67972D, 0x3F6C948F, 0x3F73DBE6, 0x3F787EFE, 0x3F7B6541, 0x3F7E4961, 0x3F7F5DF4,
   0x3F7FEA06]

/-- Slopes of the built-in sigmoid table (R141). -/
def sigmoidS : List Nat :=
  [0x3A8C117E, 0x3B8A49D6, 0x3C3907C8, 0x3CB990C6, 0x3D146310, 0x3D68EAE0, 0x3D9FAC30, 0x3DC36850,
   0x3DEC4AD4, 0x3E0CD04C, 0x3E24F6FC, 0x3E3D6784, 0x3E548000, 0x3E685290, 0x3E76EB20, 0x3E7EACC8,
   0x3E7EACD0, 0x3E76EB20, 0x3E685290, 0x3E548000, 0x3E3D6780, 0x3E24F700, 0x3E0CD040, 0x3DEC4AE0,
   0x3DC36840, 0x3D9FAC40, 0x3D68EAE0, 0x3D146300, 0x3CB990C0, 0x3C390800, 0x3B8A4980, 0x3A8C1200]

/-- Knots y of the built-in silu table (R141). -/
def siluY : List Nat :=
  [0xBB2FD1EF, 0xBC731199, 0xBD0911D0, 0xBD9357D1, 0xBDD21C2E, 0xBE11B139, 0xBE42326B, 0xBE5BAF67,
   0xBE7420A9, 0xBE84A679, 0xBE8C1A51, 0xBE8E8731, 0xBE89B2B1, 0xBE766409, 0xBE414D03, 0xBDE02A67,
   0x00000000, 0x3E0FEACD, 0x3E9F597F, 0x3F0266FE, 0x3F3B26A8, 0x3F78BC68, 0x3F9CF96C, 0x3FBED662,
   0x3FE17BEB, 0x4002450A, 0x4013DCD9, 0x4036E4EC, 0x40596F1F, 0x407B6541, 0x409EEDDC, 0x40BF8677,
   0x40FFEA06]

/-- Slopes of the built-in silu table (R141). -/
def siluS : List Nat :=
  [0xBBC71D1D, 0xBC989AD4, 0xBD1D9DD2, 0xBD7B1174, 0xBDA28C88, 0xBDC204C8, 0xBDCBE7E0, 0xBDC38A10,
   0xBDA96248, 0xBD6E7B00, 0xBC9B3800, 0x3D1A9000, 0x3DE80AC8, 0x3E545C18, 0x3EA26F9F, 0x3EE02A67,
   0x3F0FEACD, 0x3F2EC831, 0x3F4AE8FA, 0x3F62FEA8, 0x3F765700, 0x3F826CE0, 0x3F8773D8, 0x3F8A9624,
   0x3F8C38A4, 0x3F8CBE78, 0x3F8C204C, 0x3F8A28CC, 0x3F87D888, 0x3F84ECEE, 0x3F82626C, 0x3F80C71E]

/-- Knots y of the built-in softplus table (R141). -/
def softplusY : List Nat :=
  [0x39AFD97B, 0x3B223F1B, 0x3BDC0C6D, 0x3C94AF28, 0x3CF3B726, 0x3D470388, 0x3DA190F1, 0x3DCD3919,
   0x3E01F96B, 0x3E2411CD, 0x3E4E3F48, 0x3E80FCD9, 0x3EA063D6, 0x3EC613F5, 0x3EF2BA38, 0x3F1370C4,
   0x3F317218, 0x3F5370C4, 0x3F795D1C, 0x3F9184FD, 0x3FA818F5, 0x3FC03F36, 0x3FD9C7E9, 0x3FF4823A,
   0x40081F97, 0x401669C9, 0x40250C88, 0x40431C0E, 0x4061E76E, 0x408094AF, 0x40A03703, 0x40C01448,
   0x41000160]

/-- Slopes of the built-in softplus table (R141). -/
def softplusS : List Nat :=
  [0x3A8C43EC, 0x3B8AECE0, 0x3C3B581A, 0x3CBE0FFC, 0x3D1A4FEA, 0x3D783CB4, 0x3DAEA0A0, 0x3DDAE6F4,
   0x3E086188, 0x3E28B5EC, 0x3E4EE9A8, 0x3E7B37E8, 0x3E96C07C, 0x3EB2990C, 0x3ED09D40, 0x3EF00AA0,
   0x3F07FAB0, 0x3F17B160, 0x3F26B378, 0x3F349FC0, 0x3F413208, 0x3F4C4598, 0x3F55D288, 0x3F5DE7A0,
   0x3F64A320, 0x3F6A2BF0, 0x3F707C30, 0x3F765B00, 0x3F7A0F80, 0x3F7D12A0, 0x3F7EEA28, 0x3F7FB9E0]

/-- Knots y of the built-in gelu table (R141). -/
def geluY : List Nat :=
  [0x9D6AD144, 0xAEB996FD, 0xB476146A, 0xB8935102, 0xBA218853, 0xBB6E6150, 0xBC7723FF, 0xBCDED553,
   0xBD39F7C5, 0xBD8FC770, 0xBDCDAD6B, 0xBE0775EE, 0xBE229E91, 0xBE2E1ED2, 0xBE1DFD26, 0xBDCD7702,
   0x00000000, 0x3E19447F, 0x3EB1016D, 0x3F14784C, 0x3F57585C, 0x3F8F1142, 0x3FB32529, 0x3FD70389,
   0x3FFA3042, 0x400E4255, 0x401F08DC, 0x403FC468, 0x405FF5E7, 0x407FFED9, 0x40A00000, 0x40C00000,
   0x41000000]

/-- Slopes of the built-in gelu table (R141). -/
def geluS : List Nat :=
  [0xAE3996FD, 0xB475FD37, 0xB892D5F8, 0xBA8F1E33, 0xBBC5FF3B, 0xBCBB8BAB, 0xBD4686A7, 0xBD951A37,
   0xBDCB2E36, 0xBDF797EC, 0xBE027CE2, 0xBDD94518, 0xBD380410, 0x3D810D60, 0x3E5D0694, 0x3ECD7702,
   0x3F19447F, 0x3F48BE5B, 0x3F6FDE56, 0x3F85C020, 0x3F8D9450, 0x3F904F9C, 0x3F8F7980, 0x3F8CB2E4,
   0x3F8951A0, 0x3F863438, 0x3F82EE30, 0x3F80C5FC, 0x3F8023C8, 0x3F80024E, 0x3F800000, 0x3F800000]

/-- Knots x of the table of log2 on [1, 2] (R156). -/
def log2X : List Nat :=
  [0x3F800000, 0x3F840000, 0x3F880000, 0x3F8C0000, 0x3F900000, 0x3F940000, 0x3F980000, 0x3F9C0000,
   0x3FA00000, 0x3FA40000, 0x3FA80000, 0x3FAC0000, 0x3FB00000, 0x3FB40000, 0x3FB80000, 0x3FBC0000,
   0x3FC00000, 0x3FC40000, 0x3FC80000, 0x3FCC0000, 0x3FD00000, 0x3FD40000, 0x3FD80000, 0x3FDC0000,
   0x3FE00000, 0x3FE40000, 0x3FE80000, 0x3FEC0000, 0x3FF00000, 0x3FF40000, 0x3FF80000, 0x3FFC0000,
   0x40000000]

/-- Knots y of the table of log2 (R156). -/
def log2Y : List Nat :=
  [0x00000000, 0x3D35D69C, 0x3DB31FB8, 0x3E0462C4, 0x3E2E00D2, 0x3E567AF1, 0x3E7DE0B6, 0x3E92203D,
   0x3EA4D3C2, 0x3EB7110E, 0x3EC8DDD4, 0x3EDA3F60, 0x3EEB3A9F, 0x3EFBD42B, 0x3F060828, 0x3F0DF989,
   0x3F15C01A, 0x3F1D5DA0, 0x3F24D3C2, 0x3F2C2411, 0x3F335004, 0x3F3A58FF, 0x3F41404F, 0x3F480731,
   0x3F4EAED0, 0x3F553848, 0x3F5BA4A4, 0x3F61F4E5, 0x3F6829FB, 0x3F6E44CD, 0x3F744636, 0x3F7A2F04,
   0x3F800000]

/-- Slopes of the table of log2 (R156). -/
def log2S : List Nat :=
  [0x3FB5D69C, 0x3FB068D4, 0x3FAB4BA0, 0x3FA67838, 0x3FA1E87C, 0x3F9D9714, 0x3F997F10, 0x3F959C28,
   0x3F91EA60, 0x3F8E6630, 0x3F8B0C60, 0x3F87D9F8, 0x3F84CC60, 0x3F81E128, 0x3F7E2C20, 0x3F78D220,
   0x3F73B0C0, 0x3F6EC440, 0x3F6A09E0, 0x3F657E60, 0x3F611F60, 0x3F5CEA00, 0x3F58DC40, 0x3F54F3E0,
   0x3F512F00, 0x3F4D8B80, 0x3F4A0820, 0x3F46A2C0, 0x3F435A40, 0x3F402D20, 0x3F3D19C0, 0x3F3A1F80]

end Sys2Proof.Machine
end

