-- ==== Sys2Proof/Machine/Stair.lean ====
section
/-! DEFINITION. The Stair (05_stair.md): state tensors (R108), step mode (R110, R111), the modal form (R114), the
privileged channels (R116, R117), folds (R124-R126), state images (R128-R131) and the `sc.` instructions but for the chunk
phases. An instruction takes effect as a whole when the Stair begins it (log entry 29). -/

namespace Sys2Proof.Machine

/-! ## State tensors -/

/-- A state tensor as a descriptor names it (R108, R265). -/
structure Tensor where
  base : Nat
  rbase : Nat
  fmt : Fmt
  comp : Bool
  rows : Nat
  ch : Nat
  n : Nat
  stride : Nat
  tag : Nat
  status : Option Nat
  block : Nat
  deriving DecidableEq, Repr

/-- Elements of one row. -/
def Tensor.count (t : Tensor) : Nat := t.ch * t.n

/-- A region of a state tensor must lie in the issuing room's own Chest (R108). -/
def chestRegion (r : RoomId) (a n : Nat) : Op Unit := do
  match ← decodeAddr r a n with
  | .room p .chest _ => if p = r then pure () else badAddr a
  | _ => badAddr a

/-- Alignment and place of a state tensor (R108). -/
def checkTensorPlace (r : RoomId) (t : Tensor) : Op Unit := do
  if t.base % 64 ≠ 0 ∨ (t.comp ∧ t.rbase % 64 ≠ 0) ∨ (t.fmt = .s24 ∧ t.stride % 192 ≠ 0) then badAddr t.base
  else
    (List.range t.rows).forM (fun i => chestRegion r (addrPlus t.base (i * t.stride)) (t.fmt.runBytes t.count))
    if t.comp then (List.range t.rows).forM (fun i => chestRegion r (addrPlus t.rbase (i * (t.stride / 3))) t.count)

/-- The state tensor of a descriptor, checked as at issue (R106, R108): its format one of those allowed, 1 to 64 rows.
`n` is its elements per channel. -/
def tensorOf (r : RoomId) (f : Fis) (d : Desc) (allowed : List Fmt) (n : Nat) : Op Tensor := do
  needKind f d 2
  let fmt ← d.format f
  if !allowed.contains fmt || (d.residue && fmt != .s24) || d.rows == 0 || decide (64 < d.rows) then illegalFis f
  else
    let t : Tensor := { base := d.base, rbase := d.w5, fmt := fmt, comp := d.residue, rows := d.rows, ch := bitsOf d.w3 0 16,
                        n := n, stride := d.stride, tag := d.tag, status := d.status, block := d.w7 }
    checkTensorPlace r t
    pure t

/-- Elements per channel as a state descriptor gives them. -/
def Desc.perChannel (d : Desc) : Nat := bitsOf d.w3 16 7

/-- A stored element: its raw value and its residue. -/
abbrev El := Nat × Int

/-- The elements of one row of a tensor (R108). -/
def loadState (r : RoomId) (t : Tensor) (i : Nat) : Op (List El) := do
  if t.count = 0 then pure []
  else
    let raws ← loadRaws r t.fmt (addrPlus t.base (i * t.stride)) t.count
    if t.comp then
      let res ← loadAt r (addrPlus t.rbase (i * (t.stride / 3))) t.count
      pure (raws.zip (res.map (fun b => b.toInt)))
    else pure (raws.map (fun x => (x, 0)))

/-- Writes the elements of one row of a tensor. -/
def storeState (r : RoomId) (t : Tensor) (i : Nat) (els : List El) : Op Unit := do
  if t.count = 0 then pure ()
  else
    storeRaws r t.fmt (addrPlus t.base (i * t.stride)) (els.map Prod.fst)
    if t.comp then storeAt r (addrPlus t.rbase (i * (t.stride / 3))) (els.map (fun e => BitVec.ofInt 8 e.2))

/-- The represented value of an element, read as an operand (R124, R33). -/
def repEl (t : Tensor) (e : El) : Opd :=
  let x := readOpd t.fmt e.1
  if t.comp then ⟨repS24 x.v e.2, x.fl⟩ else x

/-- An element as an update stores it: the pair, whether its residue clamped, whether it is infinite or NaN, and the flags
of the update (R107, R113, R124). -/
structure Stored where
  el : El
  clamp : Bool
  bad : Bool
  fl : Flags
  deriving DecidableEq, Repr

/-- The rounding of an exact result into a state element (R107, R46). -/
def storeEl (t : Tensor) (z : Val) (fl : Flags) : Stored :=
  if t.comp then
    let (v, res, c, o) := storeS24 z
    ⟨(encodeExact .s24 v, res), c, !v.isFin, fl.or (mkFlags false o)⟩
  else
    let (raw, f) := convert t.fmt false z
    ⟨(raw, 0), false, !(decodeRaw t.fmt raw).1.isFin, fl.or f⟩

/-- A sum of products, exact, and the flags of forming it: of its operands, of 0 × ∞ and of ∞ − ∞ (R110). -/
def addTerms (a b : Term) : Val × Flags :=
  let s := addX a.v b.v
  (s.1, (a.fl.or b.fl).or (mkFlags s.2 false))

/-- A product as a term. -/
def mulTerm (a b : Opd) : Term := product a b

/-- A term used as an operand. -/
def Term.opd (t : Term) : Opd := ⟨t.v, t.fl⟩

/-- Moves events to the element index of their channel (R113). -/
def shiftEvs (k : Nat) (es : List Ev) : List Ev := es.map (fun e => { e with k := e.k + k })

/-! ## Operand blocks -/

/-- A Stair operand block: its 16 words (R267). -/
def stairBlock (r : RoomId) (t : Tensor) : Op (List Nat) := do
  pure ((chunksOf 4 (← loadAt r t.block 64)).map natOfBytes)

/-- The word that marks an operand as absent (R267). -/
def absentWord : Nat := 0xFFFFFFFF

/-- A word of an operand block; none when it is absent. -/
def blockWord (b : List Nat) (i : Nat) : Option Nat :=
  let w := b.getD i absentWord
  if w = absentWord then none else some w

/-- An operand that the kind or phase reads: illegal when it is absent (R267). -/
def needWord (f : Fis) (b : List Nat) (i : Nat) : Op Nat :=
  match blockWord b i with
  | some a => pure a
  | none => illegalFis f

/-- The format of B or of C (R267, word 15). -/
def bcFormat (f : Fis) (code : Nat) : Op Fmt :=
  match code with
  | 0 => pure .bf16 | 1 => pure .fp16 | 2 => pure .f32
  | _ => illegalFis f

/-- The formats of the inputs x (R107). -/
def inputFmt (f : Fis) (d : Desc) : Op Fmt := do
  needKind f d 0
  let x ← d.format f
  if x == .bf16 || x == .fp16 || x == .f32 then pure x else illegalFis f

/-- The format of a result tensor. -/
def outputFmt (f : Fis) (d : Desc) : Op Fmt := do
  needKind f d 0
  d.format f

/-- A packed array of n operands (R382). -/
def loadArray (r : RoomId) (fmt : Fmt) (a n : Nat) : Op (List Opd) := if n = 0 then pure [] else loadOpds r fmt a n

/-- A packed array's region is checked at issue (R266, R382). -/
def checkArray (r : RoomId) (fmt : Fmt) (a n : Nat) : Op Unit := if n = 0 then pure () else checkAt r a (fmt.runBytes n)

/-- A mask of 64 rows; absent, every bit is 0 (R111, R267). -/
def rowMask (r : RoomId) (a : Option Nat) : Op Nat :=
  match a with
  | some a => loadNat r a 8
  | none => pure 0

/-- A mask's region is checked at issue. -/
def checkMask (r : RoomId) (a : Option Nat) (n : Nat) : Op Unit :=
  match a with
  | some a => checkAt r a n
  | none => pure ()

/-- An operand that is not there. -/
def noOpd : Opd := ⟨.nz, {}⟩

/-! ## Rows of an instruction -/

/-- What one row of an instruction makes: its elements, its outputs, and its events by element index. -/
structure RowMade where
  els : List Stored
  outs : List Val
  evs : List Ev
  deriving DecidableEq, Repr

/-- What an instruction has done so far. -/
structure StairSum where
  fl : Flags := {}
  held : Nat := 0
  deriving DecidableEq, Repr

/-- Counts updates, clamps and states that are not finite (R113, R124). -/
def noteStored (r : RoomId) (els : List Stored) (s : State) : State :=
  let sat := (els.filter (fun e => e.clamp)).length
  let bad := els.any (fun e => e.bad)
  let s1 := (s.count64 (rreg r Reg.scUpdates) els.length).count64 (rreg r Reg.scResidueSat) sat
  s1.orReg (rreg r Reg.scEvent) ((if 0 < sat then 1 else 0) + (if bad then 4 else 0))

/-- Writes one row of outputs, converted once (R107): the events of the conversions. Output number i is of the channel whose first
element is i × `per` (R113, log entry 114). -/
def putOutputs (r : RoomId) (y : Desc) (fmt : Fmt) (per i : Nat) (vs : List Val) : Op (List Ev) := do
  if vs.isEmpty then pure []
  else pure ((← storeVals r fmt false (y.rowAddr i) vs).zipIdx.flatMap (fun q => flagEvs q.1 (per * q.2)))

/-- One row of an instruction under its reset and hold masks (R110, R111): `row` makes one that is not held, from its state elements. -/
def maskedRow (r : RoomId) (e : QEntry) (t : Tensor) (y : Desc) (yf : Fmt) (reset hold : Nat) (row : Nat → List El → Op RowMade)
    (i : Nat) : Op Flags := do
  let zeros : List El := List.replicate t.count (0, 0)
  if bitAt reset i then modify (fun s => s.count64 (rreg r Reg.scResets) 1)
  if bitAt hold i then
    if bitAt reset i then storeState r t i zeros
    pure {}
  else
    let old ← if bitAt reset i then pure zeros else loadState r t i
    let m ← row i old
    storeState r t i (m.els.map (fun x => x.el))
    let evs := m.evs ++ (← putOutputs r y yf t.n i m.outs)
    modify (fun s => recordEvents r .stair e.pc t.tag i 0 evs (noteStored r m.els s))
    pure (evFlags evs)

/-- The rows of an instruction, in ascending order (R110). The status word goes to the output's descriptor (R113). -/
def maskedRows (r : RoomId) (e : QEntry) (t : Tensor) (y : Desc) (yf : Fmt) (reset hold : Nat)
    (row : Nat → List El → Op RowMade) : Op Unit := do
  let fs ← (List.range t.rows).mapM (maskedRow r e t y yf reset hold row)
  let empty := (List.range t.rows).all (fun i => bitAt hold i)
  putStatus r y.status { fl := fs.foldl Flags.or {}, empty := empty }

/-! ## `sc.step` -/

/-- Decay shape, head size and the formats of B and C, from word 15 (R267). -/
structure StepForm where
  shape : Nat
  k : Nat
  b : Fmt
  c : Fmt
  deriving DecidableEq, Repr

/-- Word 15 of an operand block; values that R107 and R267 do not give are illegal (log entry 30). -/
def stepForm (f : Fis) (b : List Nat) : Op StepForm := do
  let w := b.getD 15 0
  let shape := bitsOf w 0 2
  let k := bitsOf w 2 4
  if shape = 3 ∨ (shape = 2 ∧ (k = 0 ∨ 8 < k)) then illegalFis f
  else pure ⟨shape, k, ← bcFormat f (bitsOf w 6 2), ← bcFormat f (bitsOf w 8 2)⟩

/-- Heads of a tensor (R382). -/
def StepForm.heads (p : StepForm) (ch : Nat) : Nat := ceilDiv ch (2 ^ p.k)
/-- Decays of one row (R382). -/
def StepForm.decays (p : StepForm) (ch n : Nat) : Nat := if p.shape = 0 then ch * n else if p.shape = 1 then ch else p.heads ch
/-- Index of the decay of an element (R382). -/
def StepForm.decayAt (p : StepForm) (ch c n per : Nat) : Nat :=
  if p.shape = 0 then c * per + n else if p.shape = 1 then c else if ch = 0 then 0 else c / 2 ^ p.k
/-- Values of Δ of one row: per head for a per-head decay, else per channel (R386). -/
def StepForm.deltas (p : StepForm) (ch : Nat) : Nat := if p.shape = 2 then p.heads ch else ch
/-- Index of a channel's Δ (R386). -/
def StepForm.deltaAt (p : StepForm) (c : Nat) : Nat := if p.shape = 2 then c / 2 ^ p.k else c

/-- g = √(1 − a²), correctly rounded to binary32 from the exact a; |a| > 1 is invalid (R110). -/
def gatedDrive (a : Opd) : Term :=
  match a.v with
  | .nan => ⟨.nan, a.fl⟩
  | .inf _ => ⟨.nan, a.fl.or (mkFlags true false)⟩
  | v => match (subX .one (mulX v v).1).1 with
    | .fin neg m e => if neg ∧ m ≠ 0 then ⟨.nan, a.fl.or (mkFlags true false)⟩ else ⟨sqrt32 m e, a.fl⟩
    | _ => ⟨.nan, a.fl⟩

/-- One element of the gated kind: z = a·h + g·x (R110). -/
def gatedEl (t : Tensor) (a x h : Opd) : Stored :=
  let (z, f) := addTerms (mulTerm a h) (mulTerm (gatedDrive a).opd x)
  storeEl t z f

/-- One row of the gated kind: y is the represented value after the update, rounded to binary32 (R110). -/
def gatedRow (t : Tensor) (p : StepForm) (as xs : List Opd) (old : List El) : RowMade :=
  let made := (List.range t.ch).map (fun c =>
    gatedEl t (as.getD (p.decayAt t.ch c 0 1) noOpd) (xs.getD c noOpd) (repEl t (old.getD c (0, 0))))
  let ys := made.map (fun x => rne32 (repEl t x.el).v)
  ⟨made, ys.map Prod.fst,
   (made.zip ys).zipIdx.flatMap (fun q => flagEvs (q.1.1.fl.or (mkFlags false q.1.2.2)) q.2)⟩

/-- One element of the selective kind: z = a·h + (Δ·x)·B[n] (R110). -/
def ssmEl (t : Tensor) (a d x b h : Opd) : Stored :=
  let (z, f) := addTerms (mulTerm a h) (mulTerm (mulTerm d x).opd b)
  storeEl t z f

/-- The represented value of an element that has just been stored: what reading it raises has been raised. -/
def repNew (t : Tensor) (x : Stored) : Opd := ⟨(repEl t x.el).v, {}⟩

/-- One channel of a row of the selective kind: its elements, its output and its events (R110). An absent D enters as −0
(R267). -/
def ssmChannel (t : Tensor) (p : StepForm) (as ds xs bs cs : List Opd) (dd : Option (List Opd)) (old : List El) (c : Nat) :
    List Stored × Val × List Ev :=
  let x := xs.getD c noOpd
  let d := ds.getD (p.deltaAt c) noOpd
  let els := (List.range t.n).map (fun n =>
    ssmEl t (as.getD (p.decayAt t.ch c n t.n) noOpd) d x (bs.getD n noOpd) (repEl t (old.getD (c * t.n + n) (0, 0))))
  let last : Term := match dd with
    | some l => mulTerm (l.getD c noOpd) x
    | none => ⟨.nz, {}⟩
  let (y, es) := canonSum ((els.zipIdx.map (fun q => mulTerm (cs.getD q.2 noOpd) (repNew t q.1))) ++ [last])
  (els, y, els.zipIdx.flatMap (fun q => flagEvs q.1.fl (c * t.n + q.2)) ++ shiftEvs (c * t.n) es)

/-- One row of the selective kind. -/
def ssmRow (t : Tensor) (p : StepForm) (as ds xs bs cs : List Opd) (dd : Option (List Opd)) (old : List El) : RowMade :=
  let made := (List.range t.ch).map (ssmChannel t p as ds xs bs cs dd old)
  ⟨made.flatMap (fun q => q.1), made.map (fun q => q.2.1), made.flatMap (fun q => q.2.2)⟩

/-- What `sc.step` reads before its rows: the checks of issue (R106-R108, R110, R266, R267). -/
def stepPrep (r : RoomId) (u : FmtU) (e : QEntry) : Op (Tensor × Fmt × Fmt × List Nat × StepForm) := do
  let f := Fis.scStep u
  let d := Desc.ofWords e.ra
  let x := Desc.ofWords e.rb
  let y := Desc.ofWords e.rc
  let gated := u.imm.getLsbD 0
  let n := d.perChannel
  if n = 0 ∨ 64 < n ∨ (gated ∧ n ≠ 1) then illegalFis f
  else
    let t ← tensorOf r f d [.s24, .s16] n
    let xf ← inputFmt f x
    let yf ← outputFmt f y
    let b ← stairBlock r t
    let p ← stepForm f b
    checkTensor r x xf t.rows t.ch
    checkRows r y.base y.stride (yf.runBytes t.ch) t.rows
    checkStatus r y
    checkArray r .f32 (← needWord f b 0) (t.rows * p.decays t.ch t.n)
    if !gated then
      checkArray r .f32 (← needWord f b 1) (t.rows * p.deltas t.ch)
      checkArray r p.b (← needWord f b 2) (t.rows * t.n)
      checkArray r p.c (← needWord f b 3) (t.rows * t.n)
      match blockWord b 4 with
      | some a => checkArray r .f32 a t.ch
      | none => pure ()
    checkMask r (blockWord b 5) 8
    checkMask r (blockWord b 6) 8
    pure (t, xf, yf, b, p)

/-- An optional array of n operands. -/
def loadMaybe (r : RoomId) (a : Option Nat) (n : Nat) : Op (Option (List Opd)) :=
  match a with
  | some a => do pure (some (← loadArray r .f32 a n))
  | none => pure none

/-- What `sc.step` makes of a row (R110). -/
def stepRow (r : RoomId) (gated : Bool) (x : Desc) (xf : Fmt) (t : Tensor) (b : List Nat) (p : StepForm) (i : Nat) (old : List El) :
    Op RowMade := do
  let w (i : Nat) : Nat := b.getD i 0
  let na := p.decays t.ch t.n
  let as ← loadArray r .f32 (addrPlus (w 0) (4 * i * na)) na
  let xs ← loadScaled r x xf i 0 t.ch
  if gated then pure (gatedRow t p as xs old)
  else
    let nd := p.deltas t.ch
    let ds ← loadArray r .f32 (addrPlus (w 1) (4 * i * nd)) nd
    let bs ← loadArray r p.b (addrPlus (w 2) (p.b.bits / 8 * i * t.n)) t.n
    let cs ← loadArray r p.c (addrPlus (w 3) (p.c.bits / 8 * i * t.n)) t.n
    let dd ← loadMaybe r (blockWord b 4) t.ch
    pure (ssmRow t p as ds xs bs cs dd old)

/-- `sc.step` (R110, R111). -/
def beginScStep (r : RoomId) (u : FmtU) (e : QEntry) : Op Unit := do
  let (t, xf, yf, b, p) ← stepPrep r u e
  let reset ← rowMask r (blockWord b 5)
  let hold ← rowMask r (blockWord b 6)
  maskedRows r e t (Desc.ofWords e.rc) yf reset hold (stepRow r (u.imm.getLsbD 0) (Desc.ofWords e.rb) xf t b p)

/-! ## `sc.modal` -/

/-- One mode: its two elements (R114). -/
def modalEls (t : Tensor) (lre lim x sre sim : Opd) : Stored × Stored :=
  let (a, fa) := addTerms (mulTerm lre sre) ⟨(mulX lim.v sim.v).1.negate, (mulTerm lim sim).fl⟩
  let (zr, fr) := addTerms ⟨a, fa⟩ ⟨x.v, x.fl⟩
  let (zi, fi) := addTerms (mulTerm lim sre) (mulTerm lre sim)
  (storeEl t zr fr, storeEl t zi fi)

/-- A term with its sign flipped. -/
def Term.negate (a : Term) : Term := ⟨a.v.negate, a.fl⟩

/-- One channel of the modal form (R114): λ and c are (re, im) pairs of its M modes. -/
def modalChannel (t : Tensor) (m : Nat) (ls cs : List Opd) (dd : Option (List Opd)) (xs : List Opd) (old : List El) (c : Nat) :
    List Stored × Val × List Ev :=
  let x := xs.getD c noOpd
  let at_ (l : List Opd) (i : Nat) : Opd := l.getD (c * 2 * m + i) noOpd
  let h (i : Nat) : Opd := repEl t (old.getD (c * t.n + i) (0, 0))
  let els := (List.range m).flatMap (fun k =>
    let (re, im) := modalEls t (at_ ls (2 * k)) (at_ ls (2 * k + 1)) x (h (2 * k)) (h (2 * k + 1))
    [re, im])
  let terms := els.zipIdx.map (fun q =>
    let w := mulTerm (at_ cs q.2) (repNew t q.1)
    if q.2 % 2 = 1 then w.negate else w)
  let last : Term := match dd with
    | some l => mulTerm (l.getD c noOpd) x
    | none => ⟨.nz, {}⟩
  let (y, es) := canonSum (terms ++ [last])
  (els, y, els.zipIdx.flatMap (fun q => flagEvs q.1.fl (c * t.n + q.2)) ++ shiftEvs (c * t.n) es)

/-- Checks of `sc.modal` at issue (R106, R108, R114, R267). A state of 64 modes has 128 elements per channel, which the
descriptor's 7-bit field gives as 0 (log entry 32). -/
def modalPrep (r : RoomId) (u : FmtU) (e : QEntry) : Op (Tensor × Fmt × Fmt × List Nat) := do
  let f := Fis.scModal u
  let d := Desc.ofWords e.ra
  let x := Desc.ofWords e.rb
  let y := Desc.ofWords e.rc
  let m := u.imm.toNat
  if m = 0 ∨ 64 < m ∨ d.perChannel ≠ 2 * m % 128 then illegalFis f
  else
    let t ← tensorOf r f d [.s24, .s16] (2 * m)
    let xf ← inputFmt f x
    let yf ← outputFmt f y
    let b ← stairBlock r t
    checkTensor r x xf t.rows t.ch
    checkRows r y.base y.stride (yf.runBytes t.ch) t.rows
    checkStatus r y
    checkArray r .f32 (← needWord f b 0) (t.ch * 2 * m)
    checkArray r .f32 (← needWord f b 1) (t.ch * 2 * m)
    match blockWord b 2 with
    | some a => checkArray r .f32 a t.ch
    | none => pure ()
    checkMask r (blockWord b 5) 8
    checkMask r (blockWord b 6) 8
    pure (t, xf, yf, b)

/-- What `sc.modal` makes of a row (R114). -/
def modalRow (r : RoomId) (x : Desc) (xf : Fmt) (t : Tensor) (m : Nat) (ls cs : List Opd) (dd : Option (List Opd)) (i : Nat)
    (old : List El) : Op RowMade := do
  let xs ← loadScaled r x xf i 0 t.ch
  let made := (List.range t.ch).map (modalChannel t m ls cs dd xs old)
  pure ⟨made.flatMap (fun q => q.1), made.map (fun q => q.2.1), made.flatMap (fun q => q.2.2)⟩

/-- `sc.modal` (R114, R115). -/
def beginScModal (r : RoomId) (u : FmtU) (e : QEntry) : Op Unit := do
  let (t, xf, yf, b) ← modalPrep r u e
  let m := u.imm.toNat
  let reset ← rowMask r (blockWord b 5)
  let hold ← rowMask r (blockWord b 6)
  let ls ← loadArray r .f32 (b.getD 0 0) (t.ch * 2 * m)
  let cs ← loadArray r .f32 (b.getD 1 0) (t.ch * 2 * m)
  let dd ← loadMaybe r (blockWord b 2) t.ch
  maskedRows r e t (Desc.ofWords e.rc) yf reset hold (modalRow r (Desc.ofWords e.rb) xf t m ls cs dd)

/-! ## `sc.fir` and `sc.ema` -/

/-- Checks that the two privileged instructions share (R116-R118, R266, R267): the operand in word 0 has `per` values for
each channel. -/
def privPrep (r : RoomId) (f : Fis) (e : QEntry) (n per : Nat) : Op (Tensor × Fmt × Fmt × Nat) := do
  let d := Desc.ofWords e.ra
  let x := Desc.ofWords e.rb
  let y := Desc.ofWords e.rc
  let t ← tensorOf r f d [.s32] n
  if t.ch = 0 ∨ 512 < t.ch then illegalFis f
  else
    let xf ← inputFmt f x
    let yf ← outputFmt f y
    let b ← stairBlock r t
    let a ← needWord f b 0
    checkTensor r x xf t.rows t.ch
    checkRows r y.base y.stride (yf.runBytes t.ch) t.rows
    checkStatus r y
    checkArray r .f32 a (t.ch * per)
    pure (t, xf, yf, a)

/-- One channel of a FIR filter (R116): element n of its history is the input of n + 1 positions ago (log entry 33). -/
def firChannel (t : Tensor) (taps : Nat) (ws xs : List Opd) (old : List El) (c : Nat) : List Stored × Val × List Ev :=
  let x := xs.getD c noOpd
  let hist := (List.range t.n).map (fun i => repEl t (old.getD (c * t.n + i) (0, 0)))
  let line := x :: hist
  let (y, es) := canonSum ((List.range taps).map (fun j => mulTerm (ws.getD (c * taps + j) noOpd) (line.getD j noOpd)))
  (((line.take t.n).map (fun v => storeEl t v.v {})), y, shiftEvs (c * t.n) es)

/-- Checks of `sc.fir` at issue (R116, R118). -/
def firPrep (r : RoomId) (u : FmtU) (e : QEntry) : Op (Tensor × Fmt × Fmt × Nat) := do
  let f := Fis.scFir u
  let l := u.imm.toNat
  if l = 0 ∨ 64 < l ∨ (Desc.ofWords e.ra).perChannel ≠ l - 1 then illegalFis f else privPrep r f e (l - 1) l

/-- What `sc.fir` makes of a row (R116). -/
def firRow (r : RoomId) (x : Desc) (xf : Fmt) (t : Tensor) (taps : Nat) (ws : List Opd) (i : Nat) (old : List El) : Op RowMade := do
  let xs ← loadScaled r x xf i 0 t.ch
  let made := (List.range t.ch).map (firChannel t taps ws xs old)
  pure ⟨made.flatMap (fun q => q.1), made.map (fun q => q.2.1), made.flatMap (fun q => q.2.2)⟩

/-- `sc.fir` (R116). -/
def beginScFir (r : RoomId) (u : FmtU) (e : QEntry) : Op Unit := do
  let (t, xf, yf, a) ← firPrep r u e
  let l := u.imm.toNat
  let ws ← loadArray r .f32 a (t.ch * l)
  maskedRows r e t (Desc.ofWords e.rc) yf 0 0 (firRow r (Desc.ofWords e.rb) xf t l ws)

/-- One channel of an average: h' = rne32(h + α·(x − h)), formed exactly (R117). -/
def emaEl (t : Tensor) (a x h : Opd) : Stored :=
  let d := subX x.v h.v
  let p := mulTerm a ⟨d.1, (x.fl.or h.fl).or (mkFlags d.2 false)⟩
  let (z, f) := addTerms ⟨h.v, {}⟩ p
  storeEl t z f

/-- Checks of `sc.ema` at issue (R106, R117, R118). -/
def emaPrep (r : RoomId) (u : FmtU) (e : QEntry) : Op (Tensor × Fmt × Fmt × Nat) := do
  if (Desc.ofWords e.ra).perChannel ≠ 1 then illegalFis (.scEma u) else privPrep r (.scEma u) e 1 1

/-- What `sc.ema` makes of a row (R117). -/
def emaRow (r : RoomId) (x : Desc) (xf : Fmt) (t : Tensor) (al : List Opd) (i : Nat) (old : List El) : Op RowMade := do
  let xs ← loadScaled r x xf i 0 t.ch
  let made := (List.range t.ch).map (fun c => emaEl t (al.getD c noOpd) (xs.getD c noOpd) (repEl t (old.getD c (0, 0))))
  pure ⟨made, made.map (fun q => (repEl t q.el).v), made.zipIdx.flatMap (fun q => flagEvs q.1.fl q.2)⟩

/-- `sc.ema` (R117). -/
def beginScEma (r : RoomId) (u : FmtU) (e : QEntry) : Op Unit := do
  let (t, xf, yf, a) ← emaPrep r u e
  let al ← loadArray r .f32 a t.ch
  maskedRows r e t (Desc.ofWords e.rc) yf 0 0 (emaRow r (Desc.ofWords e.rb) xf t al)

/-! ## `sc.fold` -/

/-- The formats of every state tensor (R106). -/
def stateFmts : List Fmt := [.s24, .s16, .s32]

/-- Elements per channel of a tensor whose kind the instruction does not say: a field of 0 on a compensated tensor stands
for the 128 of 64 modes (log entry 32). -/
def Desc.plainN (d : Desc) : Nat := if d.residue ∧ d.perChannel = 0 then 128 else d.perChannel

/-- SC_FOLD.period as it acts (R126). -/
def foldPeriod (s : State) (r : RoomId) : Nat := max 16 (min 65536 (s.fld (rreg r Reg.scFold) 0 17))

/-- An element as a fold leaves it: canonical, or with its residue dropped (R125). -/
def foldEl (t : Tensor) (drop : Bool) (e : El) : Stored :=
  let x := repEl t e
  if drop then
    let (raw, f) := convert .s24 false x.v
    ⟨(raw, 0), false, false, x.fl.or f⟩
  else storeEl t x.v x.fl

/-- Checks of `sc.fold` at issue. -/
def foldPrep (r : RoomId) (u : FmtU) (e : QEntry) : Op Tensor := do
  let d := Desc.ofWords e.ra
  let t ← tensorOf r (.scFold u) d stateFmts d.plainN
  checkStatus r d
  pure t

/-- Events of the elements of a row, each at its index (R113). -/
def elEvs (els : List Stored) : List Ev := els.zipIdx.flatMap (fun q => flagEvs q.1.fl q.2)

/-- One row of `sc.fold` (R125). -/
def foldRow (r : RoomId) (e : QEntry) (t : Tensor) (drop : Bool) (i : Nat) : Op Flags := do
  let made := (← loadState r t i).map (foldEl t drop)
  storeState r t i (made.map (fun x => x.el))
  let sat := (made.filter (fun x => x.clamp)).length
  let evs := elEvs made
  modify (fun s =>
    recordEvents r .stair e.pc t.tag i 0 evs
      ((s.count64 (rreg r Reg.scResidueSat) sat).orReg (rreg r Reg.scEvent) (if 0 < sat then 1 else 0)))
  pure (evFlags evs)

/-- `sc.fold` (R125, R126). -/
def beginScFold (r : RoomId) (u : FmtU) (e : QEntry) : Op Unit := do
  let t ← foldPrep r u e
  let s ← get
  if !t.comp || (u.imm.getLsbD 1 && stepOf s r % foldPeriod s r != 0) then pure ()
  else
    let fs ← (List.range t.rows).mapM (foldRow r e t (u.imm.getLsbD 0))
    modify (fun s => s.satFld (rreg r Reg.scFolds) 0 32 1)
    putStatus r t.status { fl := fs.foldl Flags.or {} }

/-! ## State images -/

/-- The magic of a state image (R128). -/
def imageMagic : Nat := 0x4D495453

/-- Elements per channel of an image's tensor, by its kind: for the modal kind a field of 0 is 128 (log entry 32). -/
def imageN (d : Desc) (kind : Nat) : Nat := if kind = 2 ∧ d.perChannel = 0 then 128 else d.perChannel

/-- Checks of `sc.export` at issue (R129, R266). -/
def exportPrep (r : RoomId) (u : FmtU) (e : QEntry) : Op (Tensor × Desc × Bool) := do
  let f := Fis.scExport u
  let d := Desc.ofWords e.ra
  let g := Desc.ofWords e.rb
  let t ← tensorOf r f d stateFmts (imageN d (FmtU.field u 9 3))
  checkDesc g f
  let withRes := t.comp && !u.imm.getLsbD 0
  let n := t.rows * t.count
  let size := 64 + n * (t.fmt.bits / 8) + (if withRes then n else 0)
  if g.rows * g.stride < size then badAddr g.base
  else
    checkAt r g.base size
    checkAt r t.block 64
    checkStatus r g
    pure (t, g, withRes)

/-- An element as the value-only form of an image writes it (R129). -/
def exportEl (t : Tensor) (withRes : Bool) (e : El) : Stored :=
  if t.comp && !withRes then foldEl t true e else ⟨e, false, false, {}⟩

/-- The bytes of an image's header but for its CRC (R128). -/
def imageHeader (t : Tensor) (kind layer first stream step payload : Nat) (withRes canon : Bool) : List Byte :=
  bytesOfNat 4 imageMagic ++ bytesOfNat 2 1 ++ bytesOfNat 1 kind ++ bytesOfNat 1 t.fmt.code ++
  bytesOfNat 1 (b2n withRes + 2 * b2n canon) ++ bytesOfNat 1 0 ++ bytesOfNat 2 layer ++ bytesOfNat 4 t.ch ++
  bytesOfNat 4 t.n ++ bytesOfNat 4 t.rows ++ bytesOfNat 4 first ++ bytesOfNat 4 stream ++ bytesOfNat 8 step ++
  bytesOfNat 4 payload ++ bytesOfNat 16 0

/-- One row as an image holds it: only the value-only form makes events (R113, R129). -/
def exportRow (r : RoomId) (e : QEntry) (t : Tensor) (withRes : Bool) (i : Nat) : Op (List Stored) := do
  let made := (← loadState r t i).map (exportEl t withRes)
  modify (recordEvents r .stair e.pc t.tag i 0 (elEvs made))
  pure made

/-- `sc.export` (R128, R129). -/
def beginScExport (r : RoomId) (u : FmtU) (e : QEntry) : Op Unit := do
  let (t, g, withRes) ← exportPrep r u e
  let rows ← (List.range t.rows).mapM (exportRow r e t withRes)
  let b ← stairBlock r t
  let els := rows.flatten
  let values := rows.flatMap (fun l => t.fmt.pack (l.map (fun x => x.el.1)))
  let res := if withRes then els.map (fun x => BitVec.ofInt 8 x.el.2) else []
  let canon := withRes && els.all (fun x => (storeEl t (repEl t x.el).v {}).el == x.el)
  let payload := values ++ res
  let head := imageHeader t (FmtU.field u 9 3) (FmtU.field u 1 8) (b.getD 14 0) (b.getD 13 0) (stepOf (← get) r)
    payload.length withRes canon
  storeAt r g.base (head ++ bytesOfNat 4 (crc32c (head ++ payload)) ++ payload)
  putStatus r g.status { fl := els.foldl (fun f x => f.or x.fl) {} }

/-- Whether an image's header agrees with the instruction and the destination (R130, check 3). -/
def imageFits (t : Tensor) (want : Nat) (h : List Byte) : Bool :=
  let kind := opNat h 6 1
  let code := opNat h 7 1
  let fl := opNat h 8 1
  kind == want && decide (10 ≤ code ∧ code ≤ 12) && !(bitAt fl 0 && code != 10) && decide (fl < 4) &&
    !(decide (kind ≤ 2) && t.fmt == .s32) && !(decide (3 ≤ kind) && (code != 12 || t.fmt != .s32)) &&
    opNat h 0x14 4 == t.rows && opNat h 0x0C 4 == t.ch && opNat h 0x10 4 == t.n

/-- Bytes of the payload that an image's header calls for. -/
def imagePayload (t : Tensor) (h : List Byte) : Nat :=
  let n := t.rows * t.count
  let w := match Fmt.ofCode (opNat h 7 1) with | some f => f.bits / 8 | none => 0
  n * w + (if bitAt (opNat h 8 1) 0 then n else 0)

/-- The result code of an import's checks before its CRC, in their order (R130). -/
def importCode (t : Tensor) (g : Desc) (want : Nat) (h : List Byte) : Nat :=
  if opNat h 0 4 ≠ imageMagic then 1
  else if opNat h 4 2 ≠ 1 then 2
  else if !imageFits t want h then 3
  else if opNat h 0x28 4 ≠ imagePayload t h ∨ g.rows * g.stride < 64 + imagePayload t h then 5
  else 0

/-- The elements of an image as the destination stores them (R131). -/
def importEls (t : Tensor) (h payload : List Byte) : List Stored :=
  let sf := (Fmt.ofCode (opNat h 7 1)).getD .s32
  let n := t.rows * t.count
  let v := natOfBytes payload
  let src : Tensor := { t with fmt := sf, comp := bitAt (opNat h 8 1) 0 }
  let res := payload.drop (n * (sf.bits / 8))
  (List.range n).map (fun i =>
    let x := repEl src (sf.elemAt v i, (res.getD i 0).toInt)
    storeEl t x.v x.fl)

/-- Checks of `sc.import` at issue (R130, R266). -/
def importPrep (r : RoomId) (u : FmtU) (e : QEntry) : Op (Tensor × Desc) := do
  let f := Fis.scImport u
  let d := Desc.ofWords e.ra
  let g := Desc.ofWords e.rb
  let t ← tensorOf r f d stateFmts (imageN d u.imm.toNat)
  checkDesc g f
  checkAt r g.base (max 64 (g.rows * g.stride))
  checkStatus r d
  pure (t, g)

/-- One imported row: its elements, and their events at its index (R113, R131). -/
def importRow (r : RoomId) (e : QEntry) (t : Tensor) (els : List Stored) (i : Nat) : Op Unit := do
  let row := (els.drop (i * t.count)).take t.count
  storeState r t i (row.map (fun x => x.el))
  modify (recordEvents r .stair e.pc t.tag i 0 (elEvs row))

/-- `sc.import` (R130, R131). -/
def beginScImport (r : RoomId) (u : FmtU) (e : QEntry) : Op Unit := do
  let (t, g) ← importPrep r u e
  let h ← loadAt r g.base 64
  let c0 := importCode t g u.imm.toNat h
  let payload ← if c0 = 0 then loadAt r (addrPlus g.base 64) (imagePayload t h) else pure []
  let code := if c0 = 0 ∧ crc32c (h.take 0x3C ++ payload) ≠ opNat h 0x3C 4 then 4 else c0
  let els := if code = 0 then importEls t h payload else List.replicate (t.rows * t.count) ⟨(0, 0), false, false, {}⟩
  if code = 0 ∨ code = 4 then (List.range t.rows).forM (importRow r e t els)
  let sat := (els.filter (fun x => x.clamp)).length
  modify (fun s =>
    let s1 := (s.count64 (rreg r Reg.scResidueSat) sat).orReg (rreg r Reg.scEvent)
      ((if 0 < sat then 1 else 0) + (if code ≠ 0 then 2 else 0))
    s1.setReg (rreg r Reg.scImportStatus) (BitVec.ofNat 32 (code + 2 ^ 16 * opNat h 4 2)))
  putStatus r t.status { fl := els.foldl (fun f x => f.or x.fl) {}, result := code }

/-! ## The instructions -/

/-- Three descriptors and an immediate. -/
def dddShape (imm : Nat) : UShape := { ra := .d, rb := .d, rc := .d, imm := imm }

/-- `sc.step` issues. -/
def doScStep (r : RoomId) (u : FmtU) : Op Unit :=
  unitU r 1 (.scStep u) u (dddShape 1) (fun e => do let _ ← stepPrep r u e)
/-- `sc.modal` issues. -/
def doScModal (r : RoomId) (u : FmtU) : Op Unit :=
  unitU r 1 (.scModal u) u (dddShape 7) (fun e => do let _ ← modalPrep r u e)
/-- `sc.fir` issues. -/
def doScFir (r : RoomId) (u : FmtU) : Op Unit :=
  unitU r 1 (.scFir u) u (dddShape 7) (fun e => do let _ ← firPrep r u e)
/-- `sc.ema` issues. -/
def doScEma (r : RoomId) (u : FmtU) : Op Unit :=
  unitU r 1 (.scEma u) u (dddShape 0) (fun e => do let _ ← emaPrep r u e)
/-- `sc.fold` issues. -/
def doScFold (r : RoomId) (u : FmtU) : Op Unit :=
  unitU r 1 (.scFold u) u { ra := .d, imm := 2 } (fun e => do let _ ← foldPrep r u e)
/-- `sc.export` issues. -/
def doScExport (r : RoomId) (u : FmtU) : Op Unit :=
  unitU r 1 (.scExport u) u { ra := .d, rb := .d, imm := 12 } (fun e => do let _ ← exportPrep r u e)
/-- `sc.import` issues. -/
def doScImport (r : RoomId) (u : FmtU) : Op Unit :=
  unitU r 1 (.scImport u) u { ra := .d, rb := .d, imm := 3 } (fun e => do let _ ← importPrep r u e)

end Sys2Proof.Machine
end

