-- ==== Sys2Proof/Machine/Lamp.lean ====
section
/-! DEFINITION. The Lamp (06_lamp.md): loadable and built-in tables, `lm.eval`, `lm.sincos`, `lm.stat`, `lm.red` and
`lm.swap`. An instruction takes effect as a whole when the Lamp begins it (log entry 29). -/

namespace Sys2Proof.Machine

/-! ## Tables -/

/-- A table as a lookup sees it: knots, values, slopes, and the two bits of its configuration (R137). -/
structure LampTab where
  xs : List Val
  ys : List Val
  ss : List Val
  extend : Bool := false
  bolier : Bool := false
  deriving DecidableEq, Repr

/-- The value of a binary32 encoding. -/
def f32 (raw : Nat) : Val := (decodeRaw .f32 raw).1

/-- A built-in table. -/
def builtTab (xs ys ss : List Nat) : LampTab := { xs := xs.map f32, ys := ys.map f32, ss := ss.map f32 }

/-- The words of a bank from its bytes, and how each is read: 33 binary32 values, or 17 FP16 values in bits [15:0]
(R137, R151). -/
def bankOf (bs : List Byte) : LampTab :=
  let w (k : Nat) : Nat := natOfBytes ((bs.drop (4 * k)).take 4)
  let cfg := w 99
  if bitAt cfg 1 then
    let h (k : Nat) : Val := (decodeRaw .fp16 (w k % 2 ^ 16)).1
    { xs := (List.range 17).map h, ys := (List.range 17).map (fun i => h (33 + i)),
      ss := (List.range 16).map (fun i => h (66 + i)), extend := bitAt cfg 0, bolier := true }
  else
    { xs := (List.range 33).map (fun i => f32 (w i)), ys := (List.range 33).map (fun i => f32 (w (33 + i))),
      ss := (List.range 32).map (fun i => f32 (w (66 + i))), extend := bitAt cfg 0, bolier := false }

/-- Reads a bank of a loadable table. -/
def loadBank (r : RoomId) (t b : Nat) : Op LampTab := do
  pure (bankOf (← loadBytes (some r) .lamp (t * 0x400 + b * 0x200) 0x190))

/-- Whether the knots rise strictly. -/
def strictlyUp : List Val → Bool
  | a :: b :: t => ltVal a b && strictlyUp (b :: t)
  | _ => true

/-- The check of `lm.swap`: every knot and slope finite and the x values strictly ascending (R145, R151). -/
def LampTab.ok (t : LampTab) : Bool := (t.xs ++ t.ys ++ t.ss).all Val.isFin && strictlyUp t.xs

/-- The largest index with x_k ≤ z, a knot belonging to its right-hand segment; never the last knot (R138). -/
def segIndex (xs : List Val) (z : Val) : Nat :=
  min (xs.length - 2) (xs.zipIdx.foldl (fun k p => if leVal p.1 z then p.2 else k) 0)

/-- y + (z − x) × s, exact, and whether an operation was invalid (R138, R139). -/
def lineX (y z x s : Val) : Val × Bool :=
  let d := subX z x
  let p := mulX d.1 s
  let t := addX y p.1
  (t.1, (d.2 || p.2) || t.2)

/-- y + (z − x) × s rounded once to binary32. -/
def line32 (y z x s : Val) : Val × Flags := round32 (lineX y z x s)

/-- rne16(y + rne16(rne16(z − x) × s)), with three roundings (R151). -/
def line16 (y z x s : Val) : Val × Flags :=
  let d := subX z x
  let (d', o1) := roundFmt .fp16 d.1
  let p := mulX d' s
  let (p', o2) := roundFmt .fp16 p.1
  let t := addX y p'
  let (t', o3) := roundFmt .fp16 t.1
  (t', mkFlags ((d.2 || p.2) || t.2) ((o1 || o2) || o3))

/-- The knots of a table, with +0 for one that is not there. -/
def LampTab.x (t : LampTab) (k : Nat) : Val := t.xs.getD k .pz
/-- Knot values of a table. -/
def LampTab.y (t : LampTab) (k : Nat) : Val := t.ys.getD k .pz
/-- Slopes of a table. -/
def LampTab.s (t : LampTab) (k : Nat) : Val := t.ss.getD k .pz

/-- R138 and R139: `left` and `right` are the end slopes, none to clamp; n segments. -/
def tableEval (t : LampTab) (left right : Option Val) (z : Val) : Val × Flags :=
  let n := t.ss.length
  if z.isNan then (.nan, { nanIn := true })
  else if ltVal z (t.x 0) then
    match left with
    | none => (t.y 0, {})
    | some s => line32 (t.y 0) z (t.x 0) s
  else if leVal (t.x n) z then
    match right with
    | none => (t.y n, {})
    | some s => line32 (t.y n) z (t.x n) s
  else
    let k := segIndex t.xs z
    let (v, f) := line32 (t.y k) z (t.x k) (t.s k)
    (minVal false (maxVal false v (minVal false (t.y k) (t.y (k + 1)))) (maxVal false (t.y k) (t.y (k + 1))), f)

/-- The end slopes of a loadable table (R138). -/
def LampTab.ends (t : LampTab) : Option Val × Option Val :=
  if t.extend then (some (t.s 0), some (t.s (t.ss.length - 1))) else (none, none)

/-- A subnormal FP16 result is replaced by a zero of its sign; true when it was (R151). -/
def flush16 (v : Val) : Val × Bool :=
  match v with
  | .fin s m e => if m ≠ 0 ∧ e + bitLen m - 1 < -14 then (.fin s 0 0, true) else (v, false)
  | v => (v, false)

/-- The evaluation of a Bolier bank (R151): its value, its flags and whether it was flushed. -/
def bolierEval (t : LampTab) (z32 : Val) : Val × Flags × Bool :=
  if z32.isNan then (.nan, { nanIn := true }, false)
  else
    let (z, o) := roundFmt .fp16 z32
    let n := t.ss.length
    let (l, r) := t.ends
    let (v, f) : Val × Flags :=
      if ltVal z (t.x 0) then
        match l with
        | none => (t.y 0, {})
        | some s => line16 (t.y 0) z (t.x 0) s
      else if leVal (t.x n) z then
        match r with
        | none => (t.y n, {})
        | some s => line16 (t.y n) z (t.x n) s
      else
        let k := segIndex t.xs z
        line16 (t.y k) z (t.x k) (t.s k)
    let (w, fl) := flush16 v
    (w, f.or (mkFlags false o), fl)

/-! ## Built-in functions -/

/-- A value times 2^n, exact. -/
def Val.scale (v : Val) (n : Int) : Val :=
  match v with
  | .fin s m e => .fin s m (e + n)
  | v => v

/-- ⌊z⌋ of a finite value, and z − ⌊z⌋, exact (R141). -/
def floorFrac (s : Bool) (m : Nat) (e : Int) : Int × Val :=
  let x : Int := if s then -(m : Int) else m
  if 0 ≤ e then (x * (2 ^ e.toNat : Nat), .pz)
  else
    let d : Int := (2 ^ (-e).toNat : Nat)
    (x / d, .fin false (x % d).toNat e)

/-- exp2 (R141, R143). Below −160 every result rounds to +0. -/
def exp2Eval (z : Val) : Val × Flags :=
  match z with
  | .nan => (.nan, { nanIn := true })
  | .inf s => (if s then .pz else .inf false, {})
  | .fin s m e =>
    if leVal (.fin false 128 0) z then (.inf false, { ovf := true })
    else if ltVal z (.fin true 160 0) then (.pz, {})
    else
      let (n, fr) := floorFrac s m e
      let (v, f) := tableEval (builtTab exp2X exp2Y exp2S) none none fr
      let (w, o) := rne32 (v.scale n)
      (w, f.or (mkFlags false o))

/-- Reciprocal (R141, R143). -/
def recipEval (z : Val) : Val × Flags :=
  match z with
  | .nan => (.nan, { nanIn := true })
  | .inf s => (.fin s 0 0, {})
  | .fin s m e =>
    if m = 0 then (.inf s, {})
    else
      let top := z.topBit
      let (v, f) := tableEval (builtTab recipX recipY recipS) none none (.fin false m (e - top))
      let (w, o) := rne32 (v.scale (-top))
      (if s then w.negate else w, f.or (mkFlags false o))

/-- Reciprocal square root (R141, R143). -/
def rsqrtEval (z : Val) : Val × Flags :=
  match z with
  | .nan => (.nan, { nanIn := true })
  | .inf s => if s then (.nan, { inv := true }) else (.pz, {})
  | .fin s m e =>
    if m = 0 then (.inf s, {})
    else if s then (.nan, { inv := true })
    else
      let h := z.topBit / 2
      let (v, f) := tableEval (builtTab rsqrtX rsqrtY rsqrtS) none none (.fin false m (e - 2 * h))
      let (w, o) := rne32 (v.scale (-h))
      (w, f.or (mkFlags false o))

/-- The built-in functions by code (R135, R141, R143). Above the last knot SiLU, softplus and GELU go on with slope 1. -/
def builtinEval (fn : Nat) (z : Val) : Val × Flags :=
  match fn with
  | 0x8 => exp2Eval z
  | 0x9 => tableEval (builtTab smoothX sigmoidY sigmoidS) none none z
  | 0xA => tableEval (builtTab smoothX siluY siluS) none (some .one) z
  | 0xB => tableEval (builtTab smoothX softplusY softplusS) none (some .one) z
  | 0xC => tableEval (builtTab smoothX geluY geluS) none (some .one) z
  | 0xD => recipEval z
  | 0xE => rsqrtEval z
  | _ => (z, {})

/-! ## `lm.eval` -/

/-- The input format of a Lamp instruction (R136, R383): columns from 1 to 2^20. -/
def lampInput (f : Fis) (d : Desc) : Op Fmt := do
  let x ← inputFmt f d
  if d.cols = 0 ∨ 2 ^ 20 < d.cols then illegalFis f else pure x

/-- The format of an output of columns from 1 to 2^20 (R383). -/
def lampResult (f : Fis) (o : Desc) : Op Fmt := do
  let x ← outputFmt f o
  if o.cols = 0 ∨ 2 ^ 20 < o.cols then illegalFis f else pure x

/-- The output format, whose rows and columns are those of the input (R136, R383). -/
def lampOutput (f : Fis) (d o : Desc) : Op Fmt := do
  let x ← lampResult f o
  if o.rows ≠ d.rows ∨ o.cols ≠ d.cols then illegalFis f else pure x

/-- The base of an operand block, from the words of its descriptor. -/
def blockBase (w : List Nat) : Nat := w.getD 0 0

/-- Checks the descriptor of an operand block at issue: its kind, its format and its 32 bytes (R29, R266, R268). -/
def checkBlock (r : RoomId) (f : Fis) (w : List Nat) : Op Unit := do
  checkDesc (Desc.ofWords w) f
  checkAt r (blockBase w) 32

/-- A Lamp operand block: its eight words (R268). -/
def lampBlock (r : RoomId) (w : List Nat) : Op (List Nat) := do
  pure ((chunksOf 4 (← loadAt r (blockBase w) 32)).map natOfBytes)

/-- Checks of `lm.eval` at issue (R136, R266, R383). -/
def evalPrep (r : RoomId) (u : FmtU) (e : QEntry) : Op (Desc × Desc × Fmt × Fmt) := do
  let f := Fis.lmEval u
  let d := Desc.ofWords e.ra
  let o := Desc.ofWords e.rb
  let df ← lampInput f d
  let yf ← lampOutput f d o
  checkTensor r d df d.rows d.cols
  checkRows r o.base o.stride (yf.runBytes o.cols) o.rows
  checkStatus r o
  checkBlock r f e.rc
  pure (d, o, df, yf)

/-- A lookup on a table that is unloaded, has had its active bank written, or is not at the expected epoch (R147-R149). -/
def tableCheck (r : RoomId) (t : Nat) (check : Bool) (want : Nat) : Op Unit := do
  let s ← get
  let k := rreg r Reg.lmTblt + 4 * t
  let bad := s.fld k 1 1 = 0 ∨ s.fld k 2 1 = 1 ∨ (check ∧ s.fld k 16 16 ≠ want)
  if bad then throw ⟨.tableEpoch, [t, s.fld k 0 1, s.fld k 16 16, want, s.fld k 2 1]⟩ else pure ()

/-- An operand of `lm.eval`: its value for a row and a column (R268). -/
structure LampArg where
  vals : List Opd
  perRow : Bool
  dflt : Val

/-- One per-row or scalar operand (R268). -/
def lampArg (r : RoomId) (b : List Nat) (i rows : Nat) (perRow : Bool) (dflt : Val) : Op LampArg :=
  match blockWord b i with
  | none => pure ⟨[], perRow, dflt⟩
  | some a => do pure ⟨← loadArray r .f32 a (if perRow then rows else 1), perRow, dflt⟩

/-- The value of an operand at a row. -/
def LampArg.at_ (a : LampArg) (row : Nat) : Opd := a.vals.getD (if a.perRow then row else 0) ⟨a.dflt, {}⟩

/-- How a function is evaluated: built in, a table, or a Bolier bank. -/
def fnEval (tab : Option LampTab) (fn : Nat) (z : Val) : Val × Flags × Bool :=
  match tab with
  | none => let (v, f) := builtinEval fn z
            (v, f, false)
  | some t =>
    if t.bolier then bolierEval t z
    else let (v, f) := tableEval t t.ends.1 t.ends.2 z
         (v, f, false)

/-- The flags of a function that meets a value which the instruction has formed: if that is a NaN, what it was formed of has set the
flag (R33). -/
def formedFlags (z : Val) (f : Flags) : Flags := if z.isNan then { f with nanIn := false } else f

/-- One element of `lm.eval`: pre-stage, function and post-stage (R136). -/
def evalEl (tab : Option LampTab) (fn : Nat) (x b a cr cc : Opd) : Val × Flags × Bool :=
  let d := subX x.v b.v
  let p := mulX d.1 a.v
  let (z, fz) := round32 (p.1, d.2 || p.2)
  let (y, fy, flushed) := fnEval tab fn z
  let q1 := mulX y cr.v
  let q2 := mulX q1.1 cc.v
  let (out, fo) := round32 (q2.1, q1.2 || q2.2)
  (out, [b.fl, a.fl, fz, formedFlags z fy, cr.fl, cc.fl, fo].foldl Flags.or x.fl, flushed)

/-- Writes one row of values, converted once (R38), and records each element's flags at its coordinate (R383). -/
def lampRow (r : RoomId) (e : QEntry) (tag : Nat) (o : Desc) (yf : Fmt) (sat : Bool) (row : List (Val × Flags)) (i : Nat) : Op Flags := do
  let cv ← storeVals r yf sat (o.rowAddr i) (row.map Prod.fst)
  let all := (row.zip cv).map (fun q => q.1.2.or q.2)
  let evs := (all.zipIdx).flatMap (fun q => flagEvs q.1 q.2)
  modify (fun s => recordEvents r .lamp e.pc tag i 0 evs s)
  pure (evFlags evs)

/-- Writes rows of values: the flags of the whole tile. -/
def lampWrite (r : RoomId) (e : QEntry) (tag : Nat) (o : Desc) (yf : Fmt) (sat : Bool) (rows : List (List (Val × Flags))) :
    Op Flags := do
  let fs ← (rows.zipIdx).mapM (fun p => lampRow r e tag o yf sat p.1 p.2)
  pure (fs.foldl Flags.or {})

/-- `lm.eval` (R135-R143, R146-R151). -/
def beginLmEval (r : RoomId) (u : FmtU) (e : QEntry) : Op Unit := do
  let (d, o, df, yf) ← evalPrep r u e
  let fn := FmtU.field u 0 4
  let tab ←
    if fn < 8 then do
      tableCheck r fn (u.imm.getLsbD 4) (FmtU.field u 5 16)
      pure (some (← loadBank r fn ((← get).fld (rreg r Reg.lmTblt + 4 * fn) 0 1)))
    else pure none
  let b ← lampBlock r e.rc
  let per (i : Nat) : Bool := bitAt (b.getD 4 0) i
  let ob ← lampArg r b 0 d.rows (per 0) .pz
  let oa ← lampArg r b 1 d.rows (per 1) .one
  let oc ← lampArg r b 2 d.rows (per 2) .one
  let cols ← match blockWord b 3 with
    | some a => loadArray r .f32 a d.cols
    | none => pure []
  let rows ← (List.range d.rows).mapM (fun i => do
    let xs ← loadScaled r d df i 0 d.cols
    pure ((xs.zipIdx).map (fun p => evalEl tab fn p.1 (ob.at_ i) (oa.at_ i) (oc.at_ i) (cols.getD p.2 ⟨.one, {}⟩))))
  let fl ← lampWrite r e d.tag o yf (u.imm.getLsbD 21) (rows.map (fun l => l.map (fun q => (q.1, q.2.1))))
  let flushes := ((rows.map (fun l => (l.filter (fun q => q.2.2)).length)).foldl (· + ·) 0)
  modify (fun s =>
    ((s.count64 (rreg r Reg.lmLookups) (d.rows * d.cols)).count64 (rreg r Reg.lmFlushes) flushes).orReg
      (rreg r Reg.lmEvent) (if 0 < flushes then 2 else 0))
  putStatus r o.status { fl := fl }

/-! ## `lm.sincos` -/

/-- π/2 to 72 significant bits: this number × 2^-71 (R144). -/
def piHalf : Nat := 3708937962535486895301

/-- q = rne(z × 2 ÷ π) of a magnitude m × 2^e (R144). -/
def quadrant (m : Nat) (e : Int) : Nat :=
  let n := m * 2 ^ (e + 71).toNat
  let d := piHalf * 2 ^ (-(e + 71)).toNat
  (2 * n + d) / (2 * d)

/-- A polynomial in u with the coefficients given from degree 0, exact. -/
def polyX (cs : List Nat) (u : Val) : Val := cs.foldr (fun c acc => (addX (f32 c) (mulX acc u).1).1) .pz

/-- Coefficients of P and Q: binary32 values of (−1)^j ÷ (2j+1)! and (−1)^j ÷ (2j)! (R144). -/
def sinCoefs : List Nat := [0x3F800000, 0xBE2AAAAB, 0x3C088889, 0xB9500D01, 0x3638EF1D, 0xB2D7322B]
/-- Coefficients of Q. -/
def cosCoefs : List Nat := [0x3F800000, 0xBF000000, 0x3D2AAAAB, 0xBAB60B61, 0x37D00D01, 0xB493F27E]

/-- sin z (false) or cos z (true) before its rounding, evaluated without loss (R144). -/
def sincosX (cos : Bool) (s : Bool) (m : Nat) (e : Int) : Val :=
  let q := quadrant m e
  let r := (subX (.fin false m e) (.fin false (q * piHalf) (-71))).1
  let u := (mulX r r).1
  let sn := (mulX r (polyX sinCoefs u)).1
  let cs := polyX cosCoefs u
  let k := (q + (if cos then 1 else 0)) % 4
  let v := match k with
    | 0 => sn | 1 => cs | 2 => sn.negate | _ => cs.negate
  if s ∧ !cos then v.negate else v

/-- A value of 28 fractional bits next to 1: 1 + k × 2^-28. -/
def nearOne (k : Int) : Val := .fin false ((2 ^ 28 : Int) + k).toNat (-28)

/-- The rounded result of an evaluation that holds at least 32 significant bits (R144): one value, but where the exact one lies so close
to a tie that the bits beyond 32 decide, one of the two there (log entry 6). -/
def sincosRound (cos : Bool) (z : Nat) (x : Val) : Nat :=
  let at_ (k : Int) : Nat := encodeExact .f32 (rne32 (mulX x (nearOne k)).1).1
  if at_ (-1) = at_ 1 then at_ 0 else if Config.sincosUlp cos (BitVec.ofNat 32 z) % 2 = 0 then at_ (-1) else at_ 1

/-- sin z or cos z of one element (R144), before the conversion of the result. -/
def sincosEl (cos : Bool) (x : Opd) : Val × Flags :=
  let z := encodeExact .f32 x.v
  match x.v with
  | .nan => (.nan, x.fl)
  | .inf _ => (.nan, x.fl.or (mkFlags true false))
  | .fin s m e =>
    if m = 0 then (if cos then .one else .fin s 0 0, x.fl)
    else if !cos ∧ e + bitLen m - 1 < -126 then (x.v, x.fl)
    else if ltVal (.fin false 1 20) (.fin false m e) then (f32 (Config.sincosLarge cos (BitVec.ofNat 32 z)).toNat, x.fl)
    else (f32 (sincosRound cos z (sincosX cos s m e)), x.fl)

/-- Checks of `lm.sincos` at issue (R266, R383). -/
def sincosPrep (r : RoomId) (u : FmtU) (e : QEntry) : Op (Desc × Desc × Desc × Fmt × Fmt × Fmt) := do
  let f := Fis.lmSincos u
  let d := Desc.ofWords e.ra
  let so := Desc.ofWords e.rb
  let co := Desc.ofWords e.rc
  let df ← lampInput f d
  let sf ← lampOutput f d so
  let cf ← lampOutput f d co
  checkTensor r d df d.rows d.cols
  checkRows r so.base so.stride (sf.runBytes d.cols) d.rows
  checkRows r co.base co.stride (cf.runBytes d.cols) d.rows
  checkStatus r so
  checkStatus r co
  pure (d, so, co, df, sf, cf)

/-- `lm.sincos` (R144): each output's status word gathers the flags of its own results. -/
def beginLmSincos (r : RoomId) (u : FmtU) (e : QEntry) : Op Unit := do
  let (d, so, co, df, sf, cf) ← sincosPrep r u e
  let rows ← (List.range d.rows).mapM (fun i => loadScaled r d df i 0 d.cols)
  let fs ← lampWrite r e d.tag so sf false (rows.map (fun l => l.map (sincosEl false)))
  let fc ← lampWrite r e d.tag co cf false (rows.map (fun l => l.map (fun x => ((sincosEl true x).1, ({} : Flags)))))
  let shared := evFlags (rows.flatMap (fun l => l.flatMap (fun x => flagEvs (sincosEl true x).2 0)))
  modify (fun s => s.count64 (rreg r Reg.lmLookups) (d.rows * d.cols))
  putStatus r so.status { fl := fs }
  putStatus r co.status { fl := fc.or shared }

/-! ## `lm.stat` -/

/-- Checks of `lm.stat` at issue (R150, R266, R383): kinds 5 to 7 do not exist (log entry 30). -/
def statPrep (r : RoomId) (u : FmtU) (e : QEntry) : Op (Desc × Desc × Fmt × Fmt) := do
  let f := Fis.lmStat u
  let d := Desc.ofWords e.ra
  let o := Desc.ofWords e.rb
  let kind := FmtU.field u 0 3
  if 4 < kind then illegalFis f
  else
    let df ← lampInput f d
    let yf ← lampResult f o
    checkTensor r d df d.rows d.cols
    checkRows r o.base o.stride (if kind = 2 then 12 else yf.runBytes 1) d.rows
    checkMask r d.mask (ceilDiv d.rows 8)
    checkStatus r o
    checkBlock r f e.rc
    pure (d, o, df, yf)

/-- What one row gives: its words before conversion, the events of forming them and whether it had no live element. -/
structure StatRow where
  out : List Val
  evs : List Ev
  empty : Bool

/-- One row of kinds 0, 1, 3 and 4 (R150, R99, R37). -/
def statOne (kind : Nat) (number : Bool) (xs : List Opd) : StatRow :=
  let reads := (xs.zipIdx).flatMap (fun p => flagEvs p.1.fl p.2)
  match kind with
  | 0 => let (v, es) := canonSum (xs.map (fun x => (⟨x.v, x.fl⟩ : Term)))
         ⟨[v], es, xs.isEmpty⟩
  | 1 => let (v, es) := canonSum (xs.map (fun x => (⟨(mulX x.v x.v).1, x.fl⟩ : Term)))
         ⟨[v], es, xs.isEmpty⟩
  | 3 => match xs with
    | [] => ⟨[.inf true], [], true⟩
    | x :: t => ⟨[t.foldl (fun a y => maxVal number a y.v) x.v], reads, false⟩
  | _ => match xs with
    | [] => ⟨[.inf false], [], true⟩
    | x :: t => ⟨[t.foldl (fun a y => minVal number a y.v) x.v], reads, false⟩

/-- One row of kind 2: mean, var and rstd, or +0 (R150, R100). -/
def statMoments (rstd : Bool) (eps : Opd) (xs : List Opd) : StatRow :=
  let (t, es) := canonTriple (xs.map Opd.v)
  let reads := (xs.zipIdx).flatMap (fun p => flagEvs p.1.fl p.2)
  let (var, f1) := if t.n = 0 then (Val.pz, {}) else divByNat32 t.m2 t.n
  if rstd then
    let (w, f2) := add32 var eps.v
    let (q, f3) := rsqrtEval w
    ⟨[t.mean, var, q], reads ++ es ++ flagEvs (((f1.or f2).or (formedFlags w f3)).or eps.fl) 0, xs.isEmpty⟩
  else ⟨[t.mean, var, .pz], reads ++ es ++ flagEvs f1 0, xs.isEmpty⟩

/-- Writes what one row of `lm.stat` gives, converted once (R150, R383). -/
def statWrite (r : RoomId) (e : QEntry) (tag : Nat) (o : Desc) (yf : Fmt) (q : StatRow) (i : Nat) : Op Flags := do
  let cv ← storeVals r yf false (o.rowAddr i) q.out
  let evs := q.evs ++ flagEvs (cv.foldl Flags.or {}) 0
  modify (fun s => recordEvents r .lamp e.pc tag i 0 evs s)
  pure (evFlags evs)

/-- `lm.stat` (R150). -/
def beginLmStat (r : RoomId) (u : FmtU) (e : QEntry) : Op Unit := do
  let (d, o, df, yf) ← statPrep r u e
  let kind := FmtU.field u 0 3
  let mask ← match d.mask with
    | some a => do pure (some (← loadAt r a (ceilDiv d.rows 8)))
    | none => pure none
  let live := match mask with
    | some m => liveRows m d.rows
    | none => List.range d.rows
  let b ← lampBlock r e.rc
  let eps := readOpd .f32 (b.getD 5 0)
  let rows ← (List.range d.rows).mapM (fun i => do
    let xs ← if live.contains i then loadScaled r d df i 0 d.cols else pure []
    pure (if kind = 2 then statMoments (u.imm.getLsbD 4) eps xs else statOne kind (u.imm.getLsbD 3) xs))
  let fs ← (rows.zipIdx).mapM (fun p => statWrite r e d.tag o (if kind = 2 then .f32 else yf) p.1 p.2)
  putStatus r o.status { fl := fs.foldl Flags.or {}, empty := rows.any (fun q => q.empty) }

/-! ## `lm.red` -/

/-- Checks of `lm.red` at issue (R384). -/
def redPrep (r : RoomId) (u : FmtU) (e : QEntry) : Op (Desc × Desc × Fmt) := do
  let f := Fis.lmRed u
  let d := Desc.ofWords e.ra
  let o := Desc.ofWords e.rb
  let p := FmtU.field u 0 5
  let int := u.imm.getLsbD 5
  let tri := u.imm.getLsbD 6
  checkDesc d f
  checkDesc o f
  let yf ← o.format f
  if p = 0 ∨ 16 < p ∨ (int ∧ (tri ∨ yf ≠ .int32)) then illegalFis f
  else
    checkAt r d.base (p * (if tri then 12 else 4))
    checkAt r o.base (if tri then 12 else yf.runBytes 1)
    checkStatus r o
    pure (d, o, yf)

/-- The tree over triples (R384): its bytes, its events and whether it had no element. -/
def redTriples (bs : List Byte) (p : Nat) : List Byte × List Ev × Bool :=
  let w (i : Nat) : Nat := natOfBytes ((bs.drop (4 * i)).take 4)
  let ts := (List.range p).map (fun i => (⟨w (3 * i), f32 (w (3 * i + 1)), f32 (w (3 * i + 2)), i⟩ : Triple))
  let reads := (List.range p).flatMap (fun i =>
    flagEvs ((readOpd .f32 (w (3 * i + 1))).fl.or (readOpd .f32 (w (3 * i + 2))).fl) i)
  let (t, es) := tree mergeTriple ts
  let t := t.getD Triple.empty
  (bytesOfNat 4 t.n ++ bytesOfNat 4 (encodeExact .f32 t.mean) ++ bytesOfNat 4 (encodeExact .f32 t.m2), reads ++ es,
   t.n == 0)

/-- `lm.red` (R97, R384): the exception coordinate of part i is k = i (log entry 36). -/
def beginLmRed (r : RoomId) (u : FmtU) (e : QEntry) : Op Unit := do
  let (d, o, yf) ← redPrep r u e
  let p := FmtU.field u 0 5
  let done (evs : List Ev) (empty : Bool) : Op Unit := do
    modify (fun s => recordEvents r .lamp e.pc d.tag 0 0 evs s)
    putStatus r o.status { fl := evFlags evs, empty := empty }
  if u.imm.getLsbD 6 then
    let (bs, evs, empty) := redTriples (← loadAt r d.base (p * 12)) p
    storeAt r o.base bs
    done evs empty
  else if u.imm.getLsbD 5 then
    let xs ← loadRaws r .int32 d.base p
    let (v, es) := tree addIPart ((xs.zipIdx).map (fun q => ⟨signedOf q.1 32, q.2⟩))
    storeNat r o.base 4 (wrapTo ((v.map IPart.v).getD 0) 32)
    done es false
  else
    let xs ← loadOpds r .f32 d.base p
    let (v, es) := tree addPart ((xs.zipIdx).map (fun q => ⟨q.1.v, q.2⟩))
    let cv ← storeVals r yf false o.base [(v.map Part.v).getD .nz]
    done ((xs.zipIdx).flatMap (fun q => flagEvs q.1.fl q.2) ++ es ++ flagEvs (cv.foldl Flags.or {}) 0) false

/-! ## `lm.swap` -/

/-- `lm.swap` (R145, R147, R149). -/
def beginLmSwap (r : RoomId) (u : FmtU) (_ : QEntry) : Op Unit := do
  let t := FmtU.field u 0 3
  let k := rreg r Reg.lmTblt + 4 * t
  let b := 1 - (← get).fld k 0 1
  let tab ← loadBank r t b
  if !tab.ok then illegalFis (.lmSwap u)
  else modify (fun s => (((s.setFld k 0 1 b).setFld k 1 1 1).setFld k 2 1 0).setFld k 16 16 (s.fld k 16 16 + 1))

/-! ## The instructions -/

/-- `lm.eval` issues. -/
def doLmEval (r : RoomId) (u : FmtU) : Op Unit :=
  unitU r 2 (.lmEval u) u (dddShape 22) (fun e => do let _ ← evalPrep r u e)
/-- `lm.sincos` issues. -/
def doLmSincos (r : RoomId) (u : FmtU) : Op Unit :=
  unitU r 2 (.lmSincos u) u (dddShape 0) (fun e => do let _ ← sincosPrep r u e)
/-- `lm.stat` issues. -/
def doLmStat (r : RoomId) (u : FmtU) : Op Unit :=
  unitU r 2 (.lmStat u) u (dddShape 5) (fun e => do let _ ← statPrep r u e)
/-- `lm.red` issues. -/
def doLmRed (r : RoomId) (u : FmtU) : Op Unit :=
  unitU r 2 (.lmRed u) u { ra := .d, rb := .d, imm := 7 } (fun e => do let _ ← redPrep r u e)
/-- `lm.swap` issues. -/
def doLmSwap (r : RoomId) (u : FmtU) : Op Unit := unitU r 2 (.lmSwap u) u { imm := 3 } (fun _ => pure ())

end Sys2Proof.Machine
end

