-- ==== Sys2Proof/Machine/Parlour.lean ====
section
/-! DEFINITION. The Parlour (07_parlour.md): `pa.attend` and `pa.pageset`. An instruction takes effect as a whole when the
Parlour begins it (log entry 29). The Shelf copy of a page lies where Config.pageCopy says, since no rule gives its address
(log entry 37). -/

namespace Sys2Proof.Machine

/-! ## The attention block -/

/-- The fields of an attention block (R154, R269). -/
structure Attn where
  dim : Nat
  g : Nat
  q : Nat
  causal : Bool
  update : Bool
  sat : Bool
  qfmt : Fmt
  ofmt : Fmt
  floor : Nat
  response : Nat
  w : Nat
  theta : Nat
  gamma : Nat
  list : Nat
  work : Nat
  lse : Nat
  pos : Nat
  deriving DecidableEq, Repr

/-- The output format of R154. -/
def attnOut : Nat → Option Fmt
  | 5 => some .e4m3 | 6 => some .e5m2 | 7 => some .fp16 | 8 => some .bf16 | 9 => some .f32
  | _ => none

/-- An attention block from its 64 bytes; none for a value that R154 does not give (R154, R166, R269). An FP8 output is the
"FP8 mode" of R154 (log entry 41). -/
def attnOf (b : List Byte) : Option Attn :=
  let fl := opNat b 3 1
  let g := opNat b 1 1
  let q := opNat b 2 1
  let floor := bitsOf (opNat b 5 1) 0 4
  let resp := bitsOf (opNat b 5 1) 4 2
  let w := opNat b 6 2
  match headDim (opNat b 0 1), attnOut (opNat b 4 1) with
  | some dim, some ofmt =>
    if g = 0 ∨ 8 < g ∨ q = 0 ∨ 32 < q ∨ q % g ≠ 0 ∨ 16 ≤ fl ∨ 5 < floor ∨ resp = 3 ∨ 64 ≤ opNat b 5 1 ∨ 8192 < w ∨
       (bitAt fl 1 ∧ 8 < q) then none
    else some { dim := dim, g := g, q := q, causal := bitAt fl 0, update := bitAt fl 1, sat := bitAt fl 2,
                qfmt := if bitAt fl 3 then .fp16 else .bf16, ofmt := ofmt, floor := floor, response := resp, w := w,
                theta := opNat b 8 4, gamma := opNat b 0xC 4, list := opNat b 0x10 4, work := opNat b 0x14 4,
                lse := opNat b 0x18 4, pos := opNat b 0x1C 4 }
  | _, _ => none

/-- Reads the attention block that a kind 3 descriptor names, or ILLEGAL_INSTRUCTION (R154, R266). -/
def loadAttn (r : RoomId) (f : Fis) (w : List Nat) : Op Attn := do
  let d := Desc.ofWords w
  needKind f d 3
  match attnOf (← loadAt r d.base 64) with
  | some a => pure a
  | none => illegalFis f

/-! ## Pages in the Shelf -/

/-- A page header (R161). -/
structure PageHdr where
  magic : Nat
  tag : Nat
  form : Nat
  count : Nat
  dim : Nat
  base : Nat
  score : Nat
  number : Nat
  rest : Nat
  deriving DecidableEq, Repr

/-- The fields of a page header; `rest` is the owner, layer and KV head. -/
def pageHdrOf (b : List Byte) : PageHdr :=
  { magic := opNat b 0 4, tag := opNat b 4 1, form := opNat b 5 1, count := opNat b 6 1, dim := opNat b 7 1,
    base := opNat b 8 8, score := opNat b 0x10 2, number := opNat b 0x14 4, rest := opNat b 0x18 4 }

/-- The 64 bytes of a page header. -/
def PageHdr.bytes (h : PageHdr) : List Byte :=
  bytesOfNat 4 h.magic ++ bytesOfNat 1 h.tag ++ bytesOfNat 1 h.form ++ bytesOfNat 1 h.count ++ bytesOfNat 1 h.dim ++
  bytesOfNat 8 h.base ++ bytesOfNat 2 h.score ++ bytesOfNat 2 0 ++ bytesOfNat 4 h.number ++ bytesOfNat 4 h.rest ++
  bytesOfNat 36 0

/-- The magic of a page (R161). -/
def pageMagic : Nat := 0x45474150

/-- The largest page (R160). -/
def pageMax : Nat := pageBytes 256 1 2

/-- Shelf offset of the copy of a page of a list (R162, log entry 37). -/
def copyOff (list page : Nat) : Nat := 64 * (Config.pageCopy list page % ((Store.shelf.size - pageMax) / 64 + 1))

/-- Reads bytes of a page's Shelf copy. -/
def loadCopy (r : RoomId) (list page off n : Nat) : Op (List Byte) := loadBytes (some r) .shelf (copyOff list page + off) n

/-- Writes bytes of a page's Shelf copy. -/
def storeCopy (r : RoomId) (list page off : Nat) (bs : List Byte) : Op Unit :=
  storeBytes (some r) .shelf (copyOff list page + off) bs

/-- A page list (R167). -/
structure PageList where
  count : Nat
  budget : Nat
  recent : Nat
  sink : Bool
  next : Nat
  pages : List Nat
  deriving DecidableEq, Repr

/-- Reads a page list; a count above 4,096 is illegal (log entry 30). -/
def loadList (r : RoomId) (f : Fis) (a : Nat) : Op PageList := do
  let h ← loadAt r a 16
  let n := opNat h 0 2
  if 4096 < n then illegalFis f
  else
    let es ← if n = 0 then pure [] else loadAt r (addrPlus a 16) (4 * n)
    pure { count := n, budget := opNat h 2 2, recent := opNat h 4 1, sink := bitAt (opNat h 5 1) 0, next := opNat h 8 8,
           pages := (chunksOf 4 es).map (fun b => natOfBytes b % 2 ^ 24) }

/-- Writes a page list back: its count, its next position and its entries (R167, R168). -/
def storeList (r : RoomId) (a : Nat) (l : PageList) : Op Unit := do
  storeNat r a 2 l.pages.length
  storeNat r (addrPlus a 8) 8 l.next
  if l.pages.isEmpty then pure () else storeAt r (addrPlus a 16) (l.pages.flatMap (bytesOfNat 4))

/-- A page as `pa.attend` meets it, in list order. -/
structure MetPage where
  index : Nat
  page : Nat
  hdr : PageHdr
  deriving DecidableEq, Repr

/-- The checks of a page before its first key: RESIDENT (R173), its header (R161) and the floor (R164); true when it is
below the floor. -/
def meetPage (r : RoomId) (a : Attn) (p : Nat × Nat) : Op (MetPage × Bool) := do
  let s ← get
  if !pageResident s (roomLarder s r) p.1 then throw ⟨.addressFault, [p.2, p.1]⟩
  else
    let h := pageHdrOf (← loadCopy r a.list p.1 0 64)
    if h.magic ≠ pageMagic ∨ !tagForm h.tag h.form ∨ h.count = 0 ∨ 64 < h.count ∨ headDim h.dim ≠ some a.dim then
      throw ⟨.addressFault, [p.2, p.1]⟩
    else
      let below := a.floor ≠ 0 ∧ a.floor < h.tag
      if below ∧ a.response = 2 then throw ⟨.formatFloor, [p.2, h.tag, a.floor]⟩
      else pure (⟨p.2, p.1, h⟩, decide below)

/-- The elements of one token of a page, of K (false) or V (true), each times its block's scale (R160). -/
def loadToken (r : RoomId) (list : Nat) (m : MetPage) (dim : Nat) (v : Bool) (j : Nat) : Op (List Opd) := do
  let h := m.hdr
  let fmt := (tagFmt h.tag).getD .bf16
  let tb := tokenBytes dim h.tag
  let sb := tokenScales dim h.form
  let raw ← loadCopy r list m.page (pageSection dim h.tag h.form (if v then 2 else 0) + j * tb) tb
  let n := natOfBytes raw
  let xs := (List.range dim).map (fun i => readOpd fmt (fmt.elemAt n i))
  if sb = 0 then pure xs
  else
    let sc ← loadCopy r list m.page (pageSection dim h.tag h.form (if v then 3 else 1) + j * sb) sb
    let w := formSize h.form
    let sv := natOfBytes sc
    pure (xs.zipIdx.map (fun q => scaledOpd q.1 (scaleOpd (h.form == 1) (bitsOf sv (8 * w * (q.2 / 32)) (8 * w)))))

/-! ## `pa.attend` -/

/-- Whether the key at an index of a page is live for a row at query position p (R155). -/
def keyLive (a : Attn) (h : PageHdr) (p j : Nat) : Bool :=
  let t := h.base + j
  decide (j < h.count) && (!a.causal || decide (t ≤ p)) && (a.w == 0 || decide (p < t + a.w))

/-- log2 of a positive value: its exponent and a table on [1, 2] (R156). -/
def log2Eval (v : Val) : Val × Flags :=
  match v with
  | .fin false m e =>
    if m = 0 then (.inf true, {})
    else
      let top := v.topBit
      let (t, f) := tableEval (builtTab log2X log2Y log2S) none none (.fin false m (e - top))
      let (w, g) := add32 (Val.ofInt top) t
      (w, f.or g)
  | .inf false => (.inf false, {})
  | .nan => (.nan, {})
  | _ => (.nan, { inv := true })

/-- rne_bf16 of a value. -/
def rneBf16 (v : Val) : Val := (roundFmt .bf16 v).1

/-- What one row makes of one page: its mass sum and running maximum, for the score pass (R166). -/
structure RowPage where
  sp : Val
  mn : Val
  deriving DecidableEq, Repr

/-- The state of one row through the pages (R156). -/
structure AttnRow where
  m : Val := .inf true
  l : Val := .pz
  o : List Val := []
  first : Bool := true
  keys : Nat := 0
  bad : Bool := false
  evs : List Ev := []
  pages : List (Option RowPage) := []
  deriving DecidableEq, Repr

/-- Moves events to one key. -/
def atKey (k : Nat) (es : List Ev) : List Ev := es.map (fun e => { e with k := k })

/-- The scores of a row against the live keys of a page: key index, score, whether it is not finite, and its events
(R156, R159). -/
def rowScores (theta : Opd) (qs : List Opd) (keys : List (List Opd)) (live : List Nat) (k0 : Nat) :
    List (Nat × Val × Bool × List Ev) :=
  live.map (fun j =>
    let (d, es) := canonSum (qs.zipWith product (keys.getD j []))
    let (s, f) := mul32 d theta.v
    let bad := !s.isFin
    (j, s, bad, atKey (k0 + j) (es ++ flagEvs (f.or theta.fl) 0 ++ flagEvs (mkFlags bad false) 0)))

/-- Terms over the 64 places of a page: a key that is not live is −0 (R156). -/
def pageTerms (live : List (Nat × Term)) : List Term :=
  (List.range 64).map (fun j => match live.find? (fun p => p.1 == j) with
    | some p => p.2
    | none => ⟨.nz, {}⟩)

/-- One row meets one page that has a live key for it (R156). -/
def rowMeets (a : Attn) (row : AttnRow) (sc : List (Nat × Val × Bool × List Ev)) (vals : List (List Opd)) (k0 : Nat) :
    AttnRow :=
  let mn := sc.foldl (fun m x => maxVal false m x.2.1) row.m
  let ps := sc.map (fun x =>
    let (d, f) := sub32 x.2.1 mn
    let (p, g) := exp2Eval d
    (x.1, rneBf16 p, f.or (formedFlags d g)))
  let (sp, es) := canonSum (pageTerms (ps.map (fun p => (p.1, ⟨p.2.1, {}⟩))))
  let pv := (List.range a.dim).map (fun d => canonSum (pageTerms (ps.map (fun p =>
    (p.1, product ⟨p.2.1, {}⟩ ((vals.getD p.1 []).getD d noOpd))))))
  let evs := sc.flatMap (fun x => x.2.2.2) ++ ps.flatMap (fun p => flagEvs p.2.2 (k0 + p.1)) ++ shiftEvs k0 es ++
    pv.flatMap (fun x => shiftEvs k0 x.2)
  let base := { row with m := mn, first := false, keys := row.keys + sc.length, bad := row.bad || sc.any (fun x => x.2.2.1) }
  if row.first then
    { base with l := sp, o := pv.map Prod.fst, evs := row.evs ++ evs, pages := row.pages ++ [some ⟨sp, mn⟩] }
  else
    let (d, f0) := sub32 row.m mn
    let (al, f1) := exp2Eval d
    let (la, f2) := mul32 row.l al
    let (l, f3) := add32 la sp
    let os := (row.o.zip pv).map (fun x =>
      let (oa, g1) := mul32 x.1 al
      let (o, g2) := add32 oa x.2.1
      (o, g1.or g2))
    let fl := os.foldl (fun f x => f.or x.2) ([f0, formedFlags d f1, f2, f3].foldl Flags.or {})
    { base with l := l, o := os.map Prod.fst, evs := row.evs ++ evs ++ flagEvs fl k0,
                pages := row.pages ++ [some ⟨sp, mn⟩] }

/-- The output, the lse and the flags of a row (R156, R158, R159). -/
def rowOut (a : Attn) (row : AttnRow) : List Val × Val × Flags :=
  if row.first then (List.replicate a.dim .pz, .inf true, {})
  else if row.bad then (List.replicate a.dim .nan, .nan, {})
  else
    let (rc, f0) := recipEval row.l
    let os := row.o.map (fun o => mul32 o rc)
    let (lg, f1) := log2Eval row.l
    let (lse, f2) := add32 row.m lg
    (os.map Prod.fst, lse, os.foldl (fun f x => f.or x.2) (((formedFlags row.l f0).or f1).or f2))

/-- Runs one page for every row: the rows after it, and whether it has a live key for some row. -/
def attendPage (r : RoomId) (a : Attn) (theta : Opd) (qs : List (List Opd)) (pos : List Nat) (rows : List AttnRow)
    (m : MetPage) : Op (List AttnRow) := do
  let lives := (List.range a.q).map (fun i => (List.range 64).filter (keyLive a m.hdr (pos.getD (i / a.g) 0)))
  let any := (List.range 64).filter (fun j => lives.any (fun l => l.contains j))
  if any.isEmpty then
    modify (fun s => s.count64 (rreg r Reg.paPagesSkipped) 1)
    pure (rows.map (fun x => { x with pages := x.pages ++ [none] }))
  else
    let keys ← (List.range 64).mapM (fun j => if any.contains j then loadToken r a.list m a.dim false j else pure [])
    let vals ← (List.range 64).mapM (fun j => if any.contains j then loadToken r a.list m a.dim true j else pure [])
    modify (fun s => s.count64 (rreg r Reg.paPages) 1)
    let k0 := 64 * m.index
    pure (rows.zipIdx.map (fun x =>
      let live := lives.getD x.2 []
      if live.isEmpty then { x.1 with pages := x.1.pages ++ [none] }
      else rowMeets a x.1 (rowScores theta (qs.getD x.2 []) keys live k0) vals k0))

/-- A page's mass over the rows, and its events: an event's element index is its row (R166). -/
def pageMass (rows : List AttnRow) (ix : Nat) : Val × List Ev :=
  let terms := rows.map (fun x => match x.pages.getD ix none with
    | none => ((⟨.pz, {}⟩ : Term))
    | some p =>
      let (d, f1) := sub32 p.mn x.m
      let (e, f2) := exp2Eval d
      let (b, f3) := mul32 p.sp e
      let (rc, f4) := recipEval x.l
      let (c, f5) := mul32 b rc
      ⟨c, [f1, formedFlags d f2, f3, formedFlags x.l f4, f5].foldl Flags.or {}⟩)
  canonSum terms

/-- score' = rne_fp16(rne32(score × γ) + mass) (R166). -/
def newScore (gamma : Opd) (score : Nat) (mass : Val) : Nat × Flags :=
  let old := readOpd .fp16 score
  let (g, f1) := mul32 old.v gamma.v
  let (z, i) := addX g mass
  let (raw, f2) := convert .fp16 false z
  (raw, [old.fl, gamma.fl, f1, f2].foldl Flags.or (mkFlags i false))

/-- The new score of one page, in the header of its Shelf copy; its events are of the row that raised them, those of the score itself of
row 0, all at the page's first key (R103, R166, log entry 114). -/
def scorePage (r : RoomId) (e : QEntry) (a : Attn) (tag : Nat) (rows : List AttnRow) (m : MetPage) : Op Flags := do
  let k := 64 * m.index
  let (mass, es) := pageMass rows m.index
  let (raw, f) := newScore (readOpd .f32 a.gamma) m.hdr.score mass
  storeCopy r a.list m.page 0x10 (bytesOfNat 2 raw)
  modify (fun s =>
    recordEvents r .parlour e.pc tag 0 0 (flagEvs f k)
      (es.foldl (fun s x => recordEvents r .parlour e.pc tag x.k 0 (flagEvs x.fl k) s) s))
  pure (f.or (evFlags es))

/-- The score pass: the workspace, and the new score in the header of each page's Shelf copy (R166). -/
def scorePass (r : RoomId) (e : QEntry) (a : Attn) (tag : Nat) (rows : List AttnRow) (ms : List MetPage) : Op Flags := do
  let n := ms.length
  (rows.zipIdx).forM (fun x => (x.1.pages.zipIdx).forM (fun p =>
    match p.1 with
    | none => pure ()
    | some q => storeAt r (addrPlus a.work (8 * (x.2 * n + p.2)))
        (bytesOfNat 4 (encodeExact .f32 q.sp) ++ bytesOfNat 4 (encodeExact .f32 q.mn))))
  let fs ← ms.mapM (scorePage r e a tag rows)
  pure (fs.foldl Flags.or {})

/-- An address that R154 gives as a Shelf address: any other place is ILLEGAL_INSTRUCTION. -/
def needShelf (r : RoomId) (f : Fis) (a n : Nat) : Op Unit := do
  match ← decodeAddr r a n with
  | .room _ .shelf _ => pure ()
  | _ => illegalFis f

/-- Checks of `pa.attend` at issue (R154, R266, R269). -/
def attendPrep (r : RoomId) (u : FmtU) (e : QEntry) : Op (Attn × Desc × Desc) := do
  let f := Fis.paAttend u
  let a ← loadAttn r f e.ra
  let q := Desc.ofWords e.rb
  let o := Desc.ofWords e.rc
  needKind f q 0
  needKind f o 0
  checkRows r q.base q.stride (a.qfmt.runBytes a.dim) a.q
  checkRows r o.base o.stride (a.ofmt.runBytes a.dim) a.q
  checkStatus r o
  needShelf r f a.list 16
  if a.update then needShelf r f a.work 8
  checkAt r a.lse (4 * a.q)
  checkAt r a.pos (8 * (a.q / a.g))
  pure (a, q, o)

/-- The next page of the list (R156). -/
def meetNext (r : RoomId) (a : Attn) (theta : Opd) (qs : List (List Opd)) (pos : List Nat) (acc : List AttnRow × List MetPage × Nat)
    (p : Nat × Nat) : Op (List AttnRow × List MetPage × Nat) := do
  let (m, b) ← meetPage r a p
  let rows ← attendPage r a theta qs pos acc.1 m
  pure (rows, acc.2.1 ++ [m], if b then acc.2.2 + 1 else acc.2.2)

/-- Writes one row's output and its lse (R156-R159). -/
def attendOut (r : RoomId) (e : QEntry) (a : Attn) (o : Desc) (row : AttnRow) (i : Nat) : Op Flags := do
  let out := rowOut a row
  let cv ← storeVals r a.ofmt a.sat (o.rowAddr i) out.1
  storeNat r (addrPlus a.lse (4 * i)) 4 (encodeExact .f32 out.2.1)
  let evs := row.evs ++ flagEvs (out.2.2.or (cv.foldl Flags.or {})) 0
  modify (fun s => recordEvents r .parlour e.pc o.tag i 0 evs s)
  pure (evFlags evs)

/-- `pa.attend` (R154-R166, R173). The tile tag and the status address are the output descriptor's (log entry 42). -/
def beginPaAttend (r : RoomId) (u : FmtU) (e : QEntry) : Op Unit := do
  let (a, q, o) ← attendPrep r u e
  let pl ← loadList r (.paAttend u) a.list
  let theta := readOpd .f32 a.theta
  let qs ← (List.range a.q).mapM (fun i => loadOpds r a.qfmt (q.rowAddr i) a.dim)
  let pos ← (List.range (a.q / a.g)).mapM (fun i => loadNat r (addrPlus a.pos (8 * i)) 8)
  let (rows, ms, below) ← pl.pages.zipIdx.foldlM (meetNext r a theta qs pos) (List.replicate a.q ({} : AttnRow), [], 0)
  let fs ← (rows.zipIdx).mapM (fun x => attendOut r e a o x.1 x.2)
  let fw ← if a.update then scorePass r e a o.tag rows ms else pure {}
  let empty := (rows.filter (fun x => x.first)).length
  let flag := a.response = 1 ∧ 0 < below
  modify (fun s =>
    let s1 := (s.count64 (rreg r Reg.paKeys) ((rows.map (fun x => x.keys)).foldl (· + ·) 0)).satFld (rreg r Reg.paEmptyRows) 0 32 empty
    let s2 := if flag then s1.satFld (rreg r Reg.paFloorBelow) 0 32 below else s1
    s2.orReg (rreg r Reg.paEvent)
      ((if flag then 1 else 0) + (if 0 < empty then 2 else 0) + (if rows.any (fun x => x.bad) then 8 else 0)))
  putStatus r o.status { fl := fs.foldl Flags.or fw, empty := decide (0 < empty), floorBelow := decide flag }

/-! ## `pa.pageset` -/

/-- Where no page number applies in a result (R168). -/
def noPage : Nat := 0xFFFFFF

/-- A page freed by the step returns to its list at the step's release (R170). -/
def freeLater (r : RoomId) (p : Nat) (s : State) : State :=
  match (s.room r).job with
  | none => s
  | some j => { s with jobs := s.jobs.set j { (s.jobs.get j) with freed := (s.jobs.get j).freed ++ [p] } }

/-- The pinned sink of a list, as a `pa.pageset` leaves it: its first page, when the list pins it (R167, R171, log entry 39). -/
def noteSink (r : RoomId) (sink : Bool) (pages : List Nat) (s : State) : State :=
  match roomLarder s r, pages with
  | some h, p :: _ => notePinned h p sink s
  | _, _ => s

/-- Checks of `pa.pageset` at issue (R167-R169, R266). -/
def pagesetPrep (r : RoomId) (u : FmtU) (e : QEntry) : Op (Attn × PageList × Desc × Desc) := do
  let f := Fis.paPageset u
  let l := Desc.ofWords e.ra
  let o := Desc.ofWords e.rb
  let a ← loadAttn r f e.rc
  checkDesc l f
  checkDesc o f
  let pl ← loadList r f l.base
  let tag := FmtU.field u 13 3
  let form := FmtU.field u 16 2
  if !tagForm tag form then illegalFis f
  else if u.imm.getLsbD 0 then
    let ix := FmtU.field u 1 12
    if pl.pages.length ≤ ix then illegalFis f
    else
      checkAt r o.base (0x40 + pageBytes a.dim tag form)
      checkStatus r o
      pure (a, pl, l, o)
  else if pl.budget ≤ pl.recent + b2n pl.sink then illegalFis f
  else
    checkAt r o.base 16
    checkStatus r o
    pure (a, pl, l, o)

/-- The header of the Shelf copy of each page of a list. -/
def copyHdrs (r : RoomId) (list : Nat) (ps : List Nat) : Op (List (Nat × PageHdr)) :=
  ps.mapM (fun p => do pure (p, pageHdrOf (← loadCopy r list p 0 64)))

/-- The order of eviction: a NaN score below every number, then the lower score (R168). -/
def scoreBelow (a b : Nat) : Bool :=
  let x := (readOpd .fp16 a).v
  let y := (readOpd .fp16 b).v
  if y.isNan then false else if x.isNan then true else ltVal x y

/-- The candidate that eviction removes: the lowest score, and on equal scores the lowest list index (R168). -/
def evictee (sink : Bool) (recent : Nat) (hs : List (Nat × PageHdr)) : Option Nat :=
  let cand := hs.zipIdx.filter (fun x => !(sink && x.2 == 0) && decide (x.2 + recent < hs.length))
  (cand.foldl (fun best x => match best with
    | none => some x
    | some b => if scoreBelow x.1.2.score b.1.2.score then some x else some b) none).map (fun x => x.1.1)

/-- The owner, layer and KV head of a page that a list gains: those of its first page, else open (log entry 43). -/
def listOwner (hs : List (Nat × PageHdr)) : Op Nat := do
  match hs with
  | h :: _ => pure h.2.rest
  | [] =>
    let (n, s) := pickFree (← get)
    set s
    pure (n % 2 ^ 32)

/-- Takes a page from Threshold, or ALLOC_DENIED (R173). -/
def takeFor (r : RoomId) (list ix dim tag form base rest count : Nat) : Op Nat := do
  let s ← get
  let denied : Err := ⟨.allocDenied, [list, ix]⟩
  match roomLarder s r with
  | none => throw denied
  | some h =>
    let e : PageEntry := { addr := 0, state := 1, count := count, base := base / 64, owner := rest % 2 ^ 16,
                           layer := bitsOf rest 16 8, headTag := bitsOf rest 24 4 + 16 * tag }
    match takePage h (pageBytes dim tag form) e s with
    | (some p, s1) => set s1; pure p
    | (none, s1) => set s1; throw denied

/-- The token count of a page, in its Shelf copy and in the page table (R163, R168). -/
def setTokens (r : RoomId) (list page n : Nat) : Op Unit := do
  storeCopy r list page 6 (bytesOfNat 1 n)
  modify (fun s => match roomLarder s r with
    | some h => setPageEntry h page { (pageEntry s h page) with count := n % 256 } s
    | none => s)

/-- `pa.pageset` advance (R168, R170). -/
def pagesetAdvance (r : RoomId) (u : FmtU) (e : QEntry) : Op Unit := do
  let (a, pl, ld, o) ← pagesetPrep r u e
  let list := ld.base
  let t := pl.next
  let hs ← copyHdrs r list pl.pages
  let gone := if a.w = 0 then [] else hs.zipIdx.filter (fun x => !(pl.sink && x.2 == 0) && decide (x.1.2.base + 63 + a.w < t))
  let hs1 := (hs.zipIdx.filter (fun x => !gone.contains x)).map Prod.fst
  let turn := t % 64 = 0
  let out := if turn ∧ hs1.length = pl.budget then evictee pl.sink pl.recent hs1 else none
  let hs2 := hs1.filter (fun x => some x.1 != out)
  let tag := FmtU.field u 13 3
  let form := FmtU.field u 16 2
  let dimCode := if a.dim = 64 then 0 else if a.dim = 128 then 1 else 2
  let (added, hs3) ←
    if turn then do
      let rest ← listOwner hs
      let p ← takeFor r list hs2.length a.dim tag form t rest 0
      let h : PageHdr := ⟨pageMagic, tag, form, 0, dimCode, t, 0, p, rest⟩
      storeCopy r list p 0 h.bytes
      pure (some p, hs2 ++ [(p, h)])
    else pure (none, hs2)
  match hs3.reverse.find? (fun x => decide (x.2.base ≤ t ∧ t < x.2.base + 64)) with
  | some x => setTokens r list x.1 (t - x.2.base + 1)
  | none => pure ()
  storeList r list { pl with next := (t + 1) % 2 ^ 64, pages := hs3.map Prod.fst }
  let first := (gone.head?.map (fun x => x.1.1)).getD noPage
  storeAt r o.base (bytesOfNat 4 (out.getD noPage) ++ bytesOfNat 4 (added.getD noPage) ++ bytesOfNat 4 first ++
    bytesOfNat 4 gone.length)
  modify (fun s =>
    let s1 := (gone.map (fun x => x.1.1) ++ out.toList).foldl (fun s p => freeLater r p s) s
    let s2 := (s1.satFld (rreg r Reg.paExpired) 0 32 gone.length).satFld (rreg r Reg.paEvictions) 0 32 out.toList.length
    noteSink r pl.sink (hs3.map Prod.fst) (s2.orReg (rreg r Reg.paEvent) (if out.isSome then 4 else 0)))
  putStatus r o.status {}

/-- The largest finite value of a target of a narrow (R169). -/
def tagMax (tag : Nat) : Nat := match tag with | 2 => 448 | 3 => 127 | 4 => 7 | _ => 6

/-- The smallest power of two that is at least A ÷ M, as an E8M0 code; values outside the codes go to the nearest one. -/
def e8m0Scale (m : Nat) (e : Int) (mx : Nat) : Nat :=
  let top : Int := e + bitLen m - bitLen mx
  let k := [top - 2, top - 1, top, top + 1].find? (fun k => cmpMag m e mx k != .gt)
  let k := k.getD (top + 2)
  (max 0 (min 254 (k + 127))).toNat

/-- The scale code of a block (R169). It is open where no power of two is at least A ÷ M, and where an element is NaN (log entry
66). -/
def blockScale (form tag : Nat) (xs : List Val) : Op Nat := do
  if xs.any Val.isNan || (form == 0 && xs.any (fun v => !v.isFin)) then
    let (n, s) := pickFree (← get)
    set s
    pure (n % 2 ^ (8 * formSize form))
  else
    match xs.foldl (fun a v => maxVal false a v.abs) Val.pz with
    | .fin _ m e =>
      if m = 0 then pure (if form = 0 then 127 else encodeExact .bf16 .one)
      else if form = 0 then pure (e8m0Scale m e (tagMax tag))
      else
        let (q, f) := divSticky m e (tagMax tag) 0
        pure (encodeExact .bf16 (roundFmt .bf16 (.fin false q f)).1)
    | v => pure (encodeExact .bf16 v)

/-- x ÷ scale, exact enough for one rounding to a narrow format (R169). -/
def unscale (x sc : Val) : Val :=
  match x, sc with
  | .fin s m e, .fin _ n f =>
    if m = 0 then (if n = 0 then .nan else .fin s 0 0)
    else if n = 0 then .inf s
    else let (q, k) := divSticky m e n f
         .fin s q k
  | .inf s, .fin .. => .inf s
  | .fin s _ _, .inf _ => .fin s 0 0
  | _, _ => .nan

/-- One token of one section narrowed: the bytes of its elements and of its scales, and the flags of each element (R169). -/
def narrowToken (tag form : Nat) (xs : List Opd) : Op (List Byte × List Byte × List Flags) := do
  let fmt := (tagFmt tag).getD .int4
  let blocks ← (chunksOf 32 xs).mapM (fun b => do
    let code ← if form = 2 then pure 0 else blockScale form tag (b.map Opd.v)
    let sc := if form = 2 then Val.one else (scaleOpd (form == 1) code).v
    let cs := b.map (fun x => let c := convert fmt true (unscale x.v sc); (c.1, c.2.or x.fl))
    pure (code, cs))
  let els := blocks.flatMap (fun b => b.2)
  pure (fmt.pack (els.map Prod.fst), blocks.flatMap (fun b => bytesOfNat (formSize form) b.1), els.map Prod.snd)

/-- Narrows one token of K (false) or V (true) of a page into the page that is built (R169): the events of its elements, at its key
(R103, log entry 114). -/
def narrowOne (r : RoomId) (list dst : Nat) (m : MetPage) (dim tag form j : Nat) (v : Bool) : Op (List Ev) := do
  let xs ← loadToken r list m dim v j
  let (el, sc, fs) ← narrowToken tag form xs
  let n := b2n v * 2
  storeAt r (addrPlus dst (pageSection dim tag form n + j * el.length)) el
  if sc.isEmpty then pure () else storeAt r (addrPlus dst (pageSection dim tag form (n + 1) + j * sc.length)) sc
  pure (fs.flatMap (fun f => flagEvs f (64 * m.index + j)))

/-- The K and V elements of one token narrowed, with their events in the exception record. -/
def narrowKey (r : RoomId) (e : QEntry) (o : Desc) (list dst : Nat) (m : MetPage) (dim tag form j : Nat) : Op Flags := do
  let ks ← narrowOne r list dst m dim tag form j false
  let vs ← narrowOne r list dst m dim tag form j true
  modify (recordEvents r .parlour e.pc o.tag 0 0 (ks ++ vs))
  pure (evFlags (ks ++ vs))

/-- `pa.pageset` narrow (R169, R170). -/
def pagesetNarrow (r : RoomId) (u : FmtU) (e : QEntry) : Op Unit := do
  let (a, pl, ld, o) ← pagesetPrep r u e
  let ix := FmtU.field u 1 12
  let tag := FmtU.field u 13 3
  let form := FmtU.field u 16 2
  let old := pl.pages.getD ix 0
  let h := pageHdrOf (← loadCopy r ld.base old 0 64)
  if tag ≤ h.tag then illegalFis (.paPageset u)
  else if h.magic ≠ pageMagic ∨ !tagForm h.tag h.form ∨ headDim h.dim ≠ some a.dim then throw ⟨.addressFault, [ix, old]⟩
  else
    let p ← takeFor r ld.base ix a.dim tag form h.base h.rest h.count
    let dst := addrPlus o.base 0x40
    storeAt r dst { h with tag := tag, form := form, number := p }.bytes
    let fs ← (List.range (min 64 h.count)).mapM (narrowKey r e o ld.base dst ⟨ix, old, h⟩ a.dim tag form)
    storeNat r (addrPlus ld.base (16 + 4 * ix)) 4 p
    storeAt r o.base (bytesOfNat 4 noPage ++ bytesOfNat 4 p ++ bytesOfNat 4 noPage ++ bytesOfNat 4 0)
    modify (fun s => freeLater r old (noteSink r pl.sink (pl.pages.set ix p) s))
    putStatus r o.status { fl := fs.foldl Flags.or {} }

/-- `pa.pageset` (R168, R169). -/
def beginPaPageset (r : RoomId) (u : FmtU) (e : QEntry) : Op Unit :=
  if u.imm.getLsbD 0 then pagesetNarrow r u e else pagesetAdvance r u e

/-- `pa.attend` issues. -/
def doPaAttend (r : RoomId) (u : FmtU) : Op Unit :=
  unitU r 3 (.paAttend u) u (dddShape 0) (fun e => do let _ ← attendPrep r u e)
/-- `pa.pageset` issues. -/
def doPaPageset (r : RoomId) (u : FmtU) : Op Unit :=
  unitU r 3 (.paPageset u) u (dddShape 18) (fun e => do let _ ← pagesetPrep r u e)

end Sys2Proof.Machine
end

