-- ==== Sys2Proof/Machine/StairChunk.lean ====
section
/-! DEFINITION. The Stair's chunk mode (05_stair.md, R119-R123): the prep, carry and state phases of `sc.chunk`. -/

namespace Sys2Proof.Machine

/-- Sizes of a chunk: positions, heads, channels and elements per channel, and the head size 2^k (R119, R382). -/
structure Chunk where
  t : Nat
  heads : Nat
  ch : Nat
  n : Nat
  k : Nat
  deriving DecidableEq, Repr

/-- Addresses of the workspace arrays (R382). -/
def Chunk.btAt (c : Chunk) (w : Nat) : Nat := addrPlus w (2 * (c.heads * c.t * c.t))
/-- Address of lam. -/
def Chunk.lamAt (c : Chunk) (w : Nat) : Nat := addrPlus w (2 * (c.heads * c.t * c.t) + 2 * (c.heads * c.t * c.n))
/-- Address of mu. -/
def Chunk.muAt (c : Chunk) (w : Nat) : Nat := addrPlus (c.lamAt w) (4 * (c.heads * c.t))
/-- Bytes of the workspace. -/
def Chunk.bytes (c : Chunk) : Nat := 2 * (c.heads * c.t * c.t) + 2 * (c.heads * c.t * c.n) + 8 * (c.heads * c.t)

/-- The number of marks at positions up to and including t (R119). -/
def segOf (marks t : Nat) : Nat := ((List.range (t + 1)).filter (fun p => bitAt marks p)).length

/-- A product of decays, each multiplication rounded to binary32, in ascending order: its value and flags (R120). -/
def decayProd (as : List Opd) : Opd :=
  as.foldl (fun p a => let (v, f) := mul32 p.v a.v; ⟨v, (p.fl.or a.fl).or f⟩) ⟨.one, {}⟩

/-- The product of the decays at positions lo to hi − 1 of one head, or +0 when a mark stands between (R120, R121). -/
def spanDecay (as : List Opd) (same : Bool) (lo hi : Nat) : Opd :=
  if same then decayProd ((as.drop lo).take (hi - lo)) else ⟨.pz, {}⟩

/-- A product rounded once to BF16, with its flags. -/
def mulBf16 (a b : Opd) : Nat × Flags :=
  let p := product a b
  let (raw, f) := convert .bf16 false p.v
  (raw, p.fl.or f)

/-- One row t of m for one head: BF16, +0 above the diagonal (R120). -/
def prepM (c : Chunk) (marks : Nat) (as g : List Opd) (t : Nat) : List (Nat × Flags) :=
  (List.range c.t).map (fun s =>
    if t < s then (0, {})
    else mulBf16 (g.getD (t * c.t + s) noOpd) (spanDecay as (segOf marks s == segOf marks t) (s + 1) (t + 1)))

/-- lam at position t of one head (R120). -/
def prepLam (marks : Nat) (as : List Opd) (t : Nat) : Opd := spanDecay as (segOf marks t == 0) 0 (t + 1)

/-- mu at position s of one head (R120). -/
def prepMu (c : Chunk) (marks : Nat) (as : List Opd) (s : Nat) : Opd :=
  spanDecay as (segOf marks s == segOf marks (c.t - 1)) (s + 1) c.t

/-- One row s of bt for one head (R120). -/
def prepBt (c : Chunk) (marks : Nat) (as bs : List Opd) (s : Nat) : List (Nat × Flags) :=
  let mu := prepMu c marks as s
  (List.range c.n).map (fun n => mulBf16 ⟨mu.v, {}⟩ (bs.getD (s * c.n + n) noOpd))

/-- The checks of `sc.chunk` that its phases share (R119, R267): T of 16 to 256, a phase that exists, decays per head. -/
def chunkPrep (r : RoomId) (u : FmtU) (e : QEntry) : Op (Tensor × List Nat × StepForm × Chunk) := do
  let f := Fis.scChunk u
  let d := Desc.ofWords e.ra
  let len := FmtU.field u 2 9
  let n := d.perChannel
  if len < 16 ∨ 256 < len ∨ FmtU.field u 0 2 = 3 ∨ n = 0 ∨ 64 < n then illegalFis f
  else
    let t ← tensorOf r f d [.s24, .s16] n
    checkDesc (Desc.ofWords e.rb) f
    checkDesc (Desc.ofWords e.rc) f
    let b ← stairBlock r t
    let p ← stepForm f b
    if p.shape ≠ 2 then illegalFis f
    else
      let c : Chunk := { t := len, heads := p.heads t.ch, ch := t.ch, n := n, k := p.k }
      checkAt r (← needWord f b 7) c.bytes
      pure (t, b, p, c)

/-- Prep-phase checks: a, B, G and the mark mask (R267). Its status word goes where the state's descriptor says (log entry
35). -/
def prepChecks (r : RoomId) (u : FmtU) (e : QEntry) : Op (Tensor × List Nat × StepForm × Chunk) := do
  let f := Fis.scChunk u
  let (t, b, p, c) ← chunkPrep r u e
  checkArray r .f32 (← needWord f b 0) (c.t * c.heads)
  checkArray r p.b (← needWord f b 2) (c.t * c.n)
  checkArray r .f32 (← needWord f b 6) (c.t * c.t)
  checkMask r (blockWord b 5) 32
  checkStatus r (Desc.ofWords e.ra)
  pure (t, b, p, c)

/-- Events of one row of a head: element indices as R113 counts them, from the head's first channel. -/
def headEvs (c : Chunk) (h : Nat) (fl : List Flags) : List Ev :=
  fl.zipIdx.flatMap (fun q => flagEvs q.1 (h * 2 ^ c.k * c.n + q.2))

/-- One position of one head in the prep phase (R120). -/
def prepRow (r : RoomId) (e : QEntry) (t : Tensor) (c : Chunk) (w marks : Nat) (all bs g : List Opd) (h i : Nat) : Op Flags := do
  let as := (List.range c.t).map (fun i => all.getD (i * c.heads + h) noOpd)
  let m := prepM c marks as g i
  let bt := prepBt c marks as bs i
  let lam := prepLam marks as i
  let mu := prepMu c marks as i
  storeRaws r .bf16 (addrPlus w (2 * (h * c.t * c.t + i * c.t))) (m.map Prod.fst)
  if c.n ≠ 0 then storeRaws r .bf16 (addrPlus (c.btAt w) (2 * (h * c.t * c.n + i * c.n))) (bt.map Prod.fst)
  storeRaws r .f32 (addrPlus (c.lamAt w) (4 * (h * c.t + i))) [encodeExact .f32 lam.v]
  storeRaws r .f32 (addrPlus (c.muAt w) (4 * (h * c.t + i))) [encodeExact .f32 mu.v]
  let fl := m.map Prod.snd ++ bt.map Prod.snd ++ [lam.fl, mu.fl]
  modify (fun s => recordEvents r .stair e.pc t.tag i 0 (headEvs c h fl) s)
  pure (fl.foldl Flags.or {})

/-- The prep phase (R120, R121, R123). -/
def beginPrep (r : RoomId) (u : FmtU) (e : QEntry) : Op Unit := do
  let (t, b, p, c) ← prepChecks r u e
  let w := b.getD 7 0
  let marks ← match blockWord b 5 with
    | some a => do pure ((← loadNat r a 32) % 2 ^ c.t)
    | none => pure 0
  let all ← loadArray r .f32 (b.getD 0 0) (c.t * c.heads)
  let bs ← loadArray r p.b (b.getD 2 0) (c.t * c.n)
  let g ← loadArray r .f32 (b.getD 6 0) (c.t * c.t)
  let fs ← (List.range c.heads).mapM (fun h => (List.range c.t).mapM (prepRow r e t c w marks all bs g h))
  modify (fun s => s.count64 (rreg r Reg.scResets) ((List.range c.t).filter (fun i => bitAt marks i)).length)
  putStatus r t.status { fl := fs.flatten.foldl Flags.or {} }

/-- Carry-phase checks: C, yi, lam and D, the input and the output (R267). -/
def carryChecks (r : RoomId) (u : FmtU) (e : QEntry) : Op (Tensor × Fmt × Fmt × List Nat × StepForm × Chunk) := do
  let f := Fis.scChunk u
  let x := Desc.ofWords e.rb
  let y := Desc.ofWords e.rc
  let (t, b, p, c) ← chunkPrep r u e
  let xf ← inputFmt f x
  let yf ← outputFmt f y
  checkTensor r x xf c.t c.ch
  checkRows r y.base y.stride (yf.runBytes c.ch) c.t
  checkStatus r y
  checkArray r p.c (← needWord f b 3) (c.t * c.n)
  checkArray r .f32 (← needWord f b 6) (c.t * c.ch)
  match blockWord b 4 with
  | some a => checkArray r .f32 a c.ch
  | none => pure ()
  pure (t, xf, yf, b, p, c)

/-- One output of the carry phase (R120): rne(rne(yi + rne(lam·q)) + rne(D·x)), an absent D adding −0 (R267). -/
def carryOut (cs hs : List Opd) (lam yi x : Opd) (d : Option Opd) : Val × List Ev :=
  let (q, es) := canonSum (cs.zipWith mulTerm hs)
  let (lq, f1) := mul32 lam.v q
  let (s, f2) := add32 yi.v lq
  let (dx, f3) : Val × Flags := match d with
    | some d => let (v, f) := mul32 d.v x.v; (v, (f.or d.fl).or x.fl)
    | none => (.nz, {})
  let (y, f4) := add32 s dx
  (y, es ++ flagEvs ((((lam.fl.or yi.fl).or f1).or f2).or (f3.or f4)) 0)

/-- One position of the carry phase (R120). -/
def carryRow (r : RoomId) (e : QEntry) (t : Tensor) (xf yf : Fmt) (b : List Nat) (p : StepForm) (c : Chunk) (hs lams : List Opd)
    (dd : Option (List Opd)) (i : Nat) : Op Flags := do
  let xs ← loadScaled r (Desc.ofWords e.rb) xf i 0 c.ch
  let cs ← loadArray r p.c (addrPlus (b.getD 3 0) (p.c.bits / 8 * i * c.n)) c.n
  let yi ← loadArray r .f32 (addrPlus (b.getD 6 0) (4 * i * c.ch)) c.ch
  let made := (List.range c.ch).map (fun k =>
    carryOut cs ((hs.drop (k * c.n)).take c.n) (lams.getD (k / 2 ^ c.k * c.t + i) noOpd) (yi.getD k noOpd)
      (xs.getD k noOpd) (dd.map (fun l => l.getD k noOpd)))
  let ys ← putOutputs r (Desc.ofWords e.rc) yf c.n i (made.map Prod.fst)
  let evs := made.zipIdx.flatMap (fun q => shiftEvs (q.2 * c.n) q.1.2) ++ ys
  modify (fun s => recordEvents r .stair e.pc t.tag i 0 evs s)
  pure (evFlags evs)

/-- The carry phase (R120). It updates no state. -/
def beginCarry (r : RoomId) (u : FmtU) (e : QEntry) : Op Unit := do
  let (t, xf, yf, b, p, c) ← carryChecks r u e
  let y := Desc.ofWords e.rc
  let w := b.getD 7 0
  let hs := (← loadState r t 0).map (repEl t)
  let lams ← loadArray r .f32 (c.lamAt w) (c.heads * c.t)
  let dd ← loadMaybe r (blockWord b 4) c.ch
  let fs ← (List.range c.t).mapM (carryRow r e t xf yf b p c hs lams dd)
  putStatus r y.status { fl := fs.foldl Flags.or {} }

/-- State-phase checks: p and lam (R267). -/
def stateChecks (r : RoomId) (u : FmtU) (e : QEntry) : Op (Tensor × List Nat × StepForm × Chunk) := do
  let (t, b, p, c) ← chunkPrep r u e
  checkArray r .f32 (← needWord (.scChunk u) b 6) (c.ch * c.n)
  checkStatus r (Desc.ofWords e.ra)
  pure (t, b, p, c)

/-- The state phase (R120): h_out = store(lam[T−1]·rep(h_in) + p), exact, one rounding. -/
def beginState (r : RoomId) (u : FmtU) (e : QEntry) : Op Unit := do
  let (t, b, _, c) ← stateChecks r u e
  let lams ← loadArray r .f32 (c.lamAt (b.getD 7 0)) (c.heads * c.t)
  let ps ← loadArray r .f32 (b.getD 6 0) (c.ch * c.n)
  let old ← loadState r t 0
  let made := (List.range (c.ch * c.n)).map (fun i =>
    let k := i / c.n
    let lam := lams.getD (k / 2 ^ c.k * c.t + (c.t - 1)) noOpd
    let pp := ps.getD i noOpd
    let (z, f) := addTerms (mulTerm lam (repEl t (old.getD i (0, 0)))) ⟨pp.v, pp.fl⟩
    storeEl t z f)
  storeState r t 0 (made.map (fun x => x.el))
  let evs := elEvs made
  modify (fun s => recordEvents r .stair e.pc t.tag 0 0 evs (noteStored r made s))
  putStatus r t.status { fl := evFlags evs }

/-- The checks of `sc.chunk` at issue, by phase. -/
def checkChunk (r : RoomId) (u : FmtU) (e : QEntry) : Op Unit := do
  match FmtU.field u 0 2 with
  | 0 => let _ ← prepChecks r u e
  | 1 => let _ ← carryChecks r u e
  | _ => let _ ← stateChecks r u e

/-- `sc.chunk` (R120). -/
def beginScChunk (r : RoomId) (u : FmtU) (e : QEntry) : Op Unit :=
  match FmtU.field u 0 2 with
  | 0 => beginPrep r u e
  | 1 => beginCarry r u e
  | _ => beginState r u e

/-- `sc.chunk` issues. -/
def doScChunk (r : RoomId) (u : FmtU) : Op Unit := unitU r 1 (.scChunk u) u (dddShape 11) (checkChunk r u)

end Sys2Proof.Machine
end

