-- ==== Sys2Proof/Machine/Run.lean ====
section
/-! DEFINITION. Issue and progress of a room (11_instruction_set.md, R256-R259): which instruction does what, the unit
queues' heads beginning, stalled instructions issuing again, breakpoints (R357), and completion. -/

namespace Sys2Proof.Machine

/-- What an instruction does once the Steward takes it up. -/
def doFis (r : RoomId) : Fis → Op Unit
  | .add x => doAdd r x | .sub x => doSub r x | .and x => doAnd r x | .or x => doOr r x | .xor x => doXor r x
  | .shl x => doShl r x | .shr x => doShr r x | .mul x => doMul r x
  | .li g => doLi r g | .ld g => doLd r g | .st g => doSt r g
  | .br g => doBr r g | .bz g => doBz r g | .bnz g => doBnz r g | .loop g => doLoop r g | .call g => doCall r g
  | .ret g => doRet r g
  | .nop u => doNop r u | .halt u => doHalt r u | .trace u => doTrace r u | .fault u => doFault r u
  | .flLoad u => doFlLoad r u | .flRun u => doFlRun r u | .flThin u => doFlThin r u | .flDrain u => doFlDrain r u
  | .flMode u => doFlMode r u
  | .scStep u => doScStep r u | .scChunk u => doScChunk r u | .scFold u => doScFold r u | .scExport u => doScExport r u
  | .scImport u => doScImport r u | .scFir u => doScFir r u | .scEma u => doScEma r u | .scModal u => doScModal r u
  | .lmEval u => doLmEval r u | .lmSincos u => doLmSincos r u | .lmStat u => doLmStat r u | .lmRed u => doLmRed r u
  | .lmSwap u => doLmSwap r u
  | .paAttend u => doPaAttend r u | .paPageset u => doPaPageset r u
  | .dwLaunch u => doDwLaunch r u | .dwWait u => doDwWait r u | .dwSwap u => doDwSwap r u | .dwPut u => doDwPut r u
  | .dwAdd u => doDwAdd r u | .dwMcast u => doDwMcast r u
  | .syArrive u => doSyArrive r u | .sySignal u => doSySignal r u | .syAdd u => doSyAdd r u | .syWatch u => doSyWatch r u
  | .syWait u => doSyWait r u | .syFence u => doSyFence r u

/-- What a unit does when it begins a queued instruction: all of its reads and writes (log entry 29). -/
def beginUnit (r : RoomId) (e : QEntry) : Op Unit :=
  match e.op with
  | .flLoad u => beginFlLoad r u e | .flRun u => beginFlRun r u e | .flThin u => beginFlThin r u e
  | .flDrain u => beginFlDrain r u e | .flMode u => beginFlMode r u
  | .scStep u => beginScStep r u e | .scChunk u => beginScChunk r u e | .scFold u => beginScFold r u e
  | .scExport u => beginScExport r u e | .scImport u => beginScImport r u e | .scFir u => beginScFir r u e
  | .scEma u => beginScEma r u e | .scModal u => beginScModal r u e
  | .lmEval u => beginLmEval r u e | .lmSincos u => beginLmSincos r u e | .lmStat u => beginLmStat r u e
  | .lmRed u => beginLmRed r u e | .lmSwap u => beginLmSwap r u e
  | .paAttend u => beginPaAttend r u e | .paPageset u => beginPaPageset r u e
  | .dwPut _ => beginPut r e | .dwAdd u => beginAdd r u e | .dwMcast u => beginMcast r u e
  | _ => pure ()

/-! ## Queues -/

/-- A room's part of the step goes on: no fault has stopped it (R290). -/
def Stew.going (w : Stew) : Bool := w.running || w.waiting != .nothing

/-- What a unit's instruction does leaves the Steward of its room and the room's queues as they were. -/
def unitKept (r : RoomId) (s s2 : State) : State :=
  s2.modRoom r (fun m => { m with stew := (s.room r).stew, queues := (s.room r).queues })

/-- Whether a unit may begin the head of its queue (R77, R258). -/
def unitFree (m : Room) (q : Fin 5) (e : QEntry) : Bool := if q = 0 then floorFree (m.queue 0) e else (m.queue q).active.isNone

/-- A unit begins an instruction: a drain of the Floor stands beside the array (R77). -/
def UQueue.begin_ (x : UQueue) (e : QEntry) : UQueue :=
  if e.isDrain then { x with entries := x.entries.tail, beside := some e } else { x with entries := x.entries.tail, active := some e }

/-- An instruction that a unit has begun is no longer in progress. -/
def UQueue.end_ (x : UQueue) (drain : Bool) : UQueue := if drain then { x with beside := none } else { x with active := none }

/-- A unit whose queue's head has its tally begins it, when the unit is free for it (R258). -/
def pumpUnit (r : RoomId) (q : Fin 5) (s : State) : State :=
  let m := s.room r
  match (m.queue q).entries with
  | e :: _ =>
    if m.stew.going && tallyOk m e.wait && unitFree m q e then
      let s1 := s.modQueue r q (fun x => x.begin_ e)
      match beginUnit r e s1 with
      | .ok _ s2 => unitKept r s1 s2
      | .error x s2 => raise r e.pc x (s2.modQueue r q (fun y => y.end_ e.isDrain))
    else s
  | [] => s

/-- Puts, adds and multicasts at the head of the Dumbwaiter queue begin and leave it; a launch waits there for its channel
(R194, R197). -/
def pumpDw (r : RoomId) : Nat → State → State
  | 0, s => s
  | k + 1, s =>
    let m := s.room r
    match (m.queue 4).entries with
    | e :: _ =>
      if m.stew.going && tallyOk m e.wait && !e.isLaunch then
        let s1 := s.modQueue r 4 (fun x => { x with entries := x.entries.tail })
        match beginUnit r e s1 with
        | .ok _ s2 => let s3 := unitKept r s1 s2
                      pumpDw r k (if entryLanded s3 r e.id then finishEntry r 4 e.id s3 else s3)
        | .error x s2 => raise r e.pc x s2
      else s
    | [] => s

/-- Every queue of a room goes on as far as it can. -/
def pump (r : RoomId) (s : State) : State :=
  pumpUnit r 3 (pumpUnit r 2 (pumpUnit r 1 (pumpUnit r 0 (pumpDw r queueDepth s))))

/-! ## Issue -/

/-- The room's clock runs: it is ON (R337). -/
def Room.on (m : Room) : Bool := m.power == .on

/-- A Steward that may take up an instruction: its step goes on, it waits for nothing, and its room is ON. -/
def canIssue (s : State) (r : RoomId) : Bool :=
  let m := s.room r
  m.on && m.stew.running && m.stew.waiting == .nothing

/-- The Study has halted a room: its halted bit follows (R357). -/
def setHeld (r : RoomId) (on : Bool) (s : State) : State :=
  (s.modStew r (fun w => { w with held := on, stepping := w.stepping && on })).setFld (Reg.studyRoomnRun + 0x40 * r.val) 2 1 (b2n on)

/-- The lowest enabled breakpoint of a room that names its PC (R357). -/
def breakpointAt (s : State) (r : RoomId) : Option Nat :=
  (List.range 4).find? (fun b =>
    let v := s.reg64 (Reg.studyRoomnBpb + 0x40 * r.val + 8 * b)
    bitAt v 32 && bitsOf v 0 32 == (s.room r).stew.pc)

/-- A breakpoint acts before its instruction issues (R357): whether the instruction goes on. -/
def breakpoint (r : RoomId) (b : Nat) (s : State) : Bool × State :=
  let s1 := s.modStew r (fun w => { w with bpPass := true })
  match bitsOf (s.reg64 (Reg.studyRoomnBpb + 0x40 * r.val + 8 * b)) 33 2 with
  | 2 => (true, emitTrace 2 r.val b (s.room r).stew.pc s1)
  | a =>
    let k := Reg.studyRoomnRun + 0x40 * r.val
    let s2 := (s1.setFld k 3 1 1).setFld k 4 2 b
    let mates := (List.finRange 32).filter (fun x => (s.room x).job == (s.room r).job)
    (false, if a = 1 then mates.foldl (fun s x => setHeld x true s) s2 else setHeld r true s2)

/-- Takes up an instruction at the PC: past the code it is illegal (R257); then it does what it does. -/
def takeUp (r : RoomId) (f : Fis) (s : State) : State :=
  let w := (s.room r).stew
  runOp r w.pc (if w.codeBase + w.codeLen ≤ w.pc then illegalFis f else doFis r f) s

/-- The breakpoint of a debug job that has not acted at the present PC acts (R357): whether the instruction goes on. -/
def meetBreakpoint (r : RoomId) (s : State) : Bool × State :=
  match (if roomDebug s r && !(s.room r).stew.bpPass then breakpointAt s r else none) with
  | none => (true, s)
  | some b => breakpoint r b s

/-- An instruction is issued, unless a breakpoint of a debug job halts the room first (R357). -/
def issueOne (r : RoomId) (f : Fis) (s : State) : State :=
  let (go, s1) := meetBreakpoint r s
  if go then takeUp r f s1 else s1

/-- The instruction at the PC, from the instruction cache (R274). -/
def fetchFis (s : State) (r : RoomId) : BitVec 64 :=
  let m := s.room r
  BitVec.ofNat 64 (m.icache.getN (m.stew.pc - m.stew.codeBase) 8)

/-- One instruction from the instruction cache: a reserved opcode is illegal (R261). -/
def issueFetched (r : RoomId) (s : State) : State :=
  let w := fetchFis s r
  match decodeFis w with
  | some f => takeUp r f s
  | none => raise r (s.room r).stew.pc ⟨.illegalInstruction, [w.toNat]⟩ s

/-- A step of the Study has been used once its instruction has issued (R357). -/
def endStepping (r : RoomId) (s : State) : State :=
  match (s.room r).stew.waiting with
  | .again _ => s
  | _ => s.modStew r (fun w => { w with stepping := false })

/-- A stalled instruction issues again; a Steward with a step granted takes up one instruction, before which a breakpoint
acts and which issues all the same (R357, log entry 17). -/
def retry (r : RoomId) (s : State) : State :=
  let m := s.room r
  let w := m.stew
  if !m.on then s
  else
    match w.waiting with
    | .again f => if !w.held then runOp r w.pc (doFis r f) s
                  else if w.stepping then endStepping r (runOp r w.pc (doFis r f) s) else s
    | .nothing => if w.held && w.stepping && w.running then endStepping r (issueFetched r (meetBreakpoint r s).2) else s
    | .release _ _ => s

/-- A room goes on as far as it can: its queues, its stalled instruction, and the queues again. -/
def settle (r : RoomId) (s : State) : State := pump r (retry r (pump r s))

/-- Every room goes on as far as it can. -/
def settleAll (s : State) : State := (List.finRange 32).foldl (fun s r => settle r s) s

/-- The command that a room's Steward issues an instruction: nothing happens in a room that cannot issue or is halted by the
Study (log entry 2). -/
def issue (r : RoomId) (f : Fis) (s : State) : State :=
  if canIssue s r && !(s.room r).stew.held then settle r (issueOne r f s) else s

/-! ## Completion -/

/-- The unit queue whose instruction completes. -/
def unitOf : UnitEnd → Fin 5
  | .queue q => q
  | .drain => 0

/-- The instruction that completes. -/
def UQueue.ending (x : UQueue) : UnitEnd → Option QEntry
  | .queue _ => x.active
  | .drain => x.beside

/-- A unit instruction that its unit has begun completes (R259): of the Floor, the one on the array or the drain beside it (R77). -/
def unitComplete (r : RoomId) (e : UnitEnd) (s : State) : State :=
  match ((s.room r).queue (unitOf e)).ending e with
  | none => s
  | some x => settle r (finishEntry r (unitOf e) x.id (s.modQueue r (unitOf e) (fun y => y.end_ (e == .drain))))

end Sys2Proof.Machine
end

