-- ==== Sys2Proof/Machine/Jobs.lean ====
section
/-! DEFINITION. Jobs on rooms: completion entries (R284, R285), fault records (R291, R292), a job's rooms, channels, groups
and maps (R19, R199, R205, R271), loading a room (R243, R274), stopping a job (R290), and binding its sync table (R212,
R223, R276). -/

namespace Sys2Proof.Machine

/-- One job slot. -/
def State.job (s : State) (j : SlotId) : Job := s.jobs.get j
/-- Changes one job slot. -/
def State.modJob (s : State) (j : SlotId) (f : Job → Job) : State := { s with jobs := s.jobs.set j (f (s.jobs.get j)) }

/-- The physical rooms of a job. -/
def Job.physical (b : Job) : List RoomId := b.rooms.filterMap id

/-- THR_TIMEBASE. -/
def State.timebase (s : State) : Nat := s.reg64 Reg.thrTimebase

/-! ## Completions -/

/-- Offset of a queue's registers. -/
def qOff (q : Fin 16) : Nat := 0x40 * q.val

/-- Entries of a queue's rings (R281). -/
def qSize (s : State) (q : Fin 16) : Nat :=
  let n := s.fld (Reg.porchQqCfg + qOff q) 0 4
  2 ^ (if 4 ≤ n ∧ n ≤ 12 then n else 4)

/-- The host context that owns a queue (R280, R281). -/
def qOwner (s : State) (q : Fin 16) : Nat := s.fld (Reg.porchQqCfg + qOff q) 4 5

/-- Completions that the host has not consumed (R285). -/
def qUnread (s : State) (q : Fin 16) : Nat :=
  (s.fld (Reg.porchQqCtail + qOff q) 0 16 + 2 ^ 16 - s.fld (Reg.porchQqChead + qOff q) 0 16) % 2 ^ 16

/-- Whether the completion ring has a free entry (R285). -/
def qRoom (s : State) (q : Fin 16) : Bool := decide (qUnread s q < qSize s q)

/-- Changes one queue of the Porch. -/
def State.modPorchQ (s : State) (q : Fin 16) (f : PorchQ → PorchQ) : State :=
  { s with porch := { s.porch with queues := s.porch.queues.set q (f (s.porch.queues.get q)) } }

/-- Results of R284. -/
abbrev Res.admitted : Nat := 0x00
abbrev Res.ended : Nat := 0x01
abbrev Res.aborted : Nat := 0x02
abbrev Res.failed : Nat := 0x03
abbrev Res.restarted : Nat := 0x04
abbrev Res.preempted : Nat := 0x05
abbrev Res.image : Nat := 0x10
abbrev Res.bandwidth : Nat := 0x11
abbrev Res.reserve : Nat := 0x12
abbrev Res.restart : Nat := 0x13
abbrev Res.resources : Nat := 0x14
abbrev Res.context : Nat := 0x15
abbrev Res.badEntry : Nat := 0x20

/-- Whether a completion is the first one of the entry that a queue waits for (R283). -/
def Compl.answers (c : Compl) : Await → Bool
  | .answer => c.job.isNone
  | .job j ends => c.job == some j &&
      (!ends || c.result == Res.ended || c.result == Res.aborted || c.result == Res.failed || c.result == Res.preempted)

/-- The 32 bytes of a completion entry (R284). -/
def Compl.bytes (c : Compl) (phase : Nat) : List Byte :=
  bytesOfNat 4 c.tag ++ bytesOfNat 4 c.number ++ bytesOfNat 1 c.result ++ bytesOfNat 1 phase ++ bytesOfNat 1 c.fault ++
    bytesOfNat 1 (min 255 c.restarts) ++ bytesOfNat 4 c.flog ++ bytesOfNat 8 c.step ++ bytesOfNat 8 0

/-- Writes a completion entry at the ring's producer, and raises the queue's source (R284, R302). -/
def writeCompl (q : Fin 16) (c : Compl) (s : State) : State :=
  let k := Reg.porchQqCtail + qOff q
  let t := s.fld k 0 16
  let n := qSize s q
  let a := s.reg64 (Reg.porchQqCbase + qOff q) % 2 ^ 48 + 32 * (t % n)
  let s1 := (hubWrite (ctxBase (qOwner s q) + a) (c.bytes (1 - t / n % 2)) s).setFld k 0 16 (t + 1)
  let s2 := s1.modPorchQ q (fun x => { x with awaits := match x.awaits with
    | some w => if c.answers w then none else some w
    | none => none })
  if s2.fld (Reg.porchQqCfg + qOff q) 10 1 = 1 then raiseSource q.val s2 else s2

/-- Held completions are written in order while the ring has room (R285). -/
def drainCompl (q : Fin 16) : Nat → State → State
  | 0, s => s
  | k + 1, s =>
    match (s.porch.queues.get q).held with
    | c :: t => if qRoom s q then drainCompl q k (writeCompl q c (s.modPorchQ q (fun x => { x with held := t }))) else s
    | [] => s

/-- A completion is ready: a restart merges into the job's held RESTARTED entry, any other is written or held (R285). -/
def complete (q : Fin 16) (c : Compl) (s : State) : State :=
  let held := (s.porch.queues.get q).held
  let same (x : Compl) : Bool := x.result == Res.restarted && c.result == Res.restarted && x.job == c.job && x.number == c.number
  if held.any same then s.modPorchQ q (fun x => { x with held := x.held.map (fun y => if same y then c else y) })
  else
    let s1 := s.modPorchQ q (fun x => { x with held := x.held ++ [c] })
    drainCompl q (held.length + 1) s1

/-- A completion of a job (R284). -/
def jobCompl (j : SlotId) (result : Nat) (tag : Nat) (s : State) : State :=
  let b := s.job j
  complete b.queue { tag := tag, number := b.number, job := some j, result := result, fault := b.lastFault, restarts := b.restarts,
                     flog := b.lastLog, step := b.faultHigh.getD b.highest } s

/-! ## Fault records -/

/-- The 28 bytes of a unit capture: its fields in order, 4 B each or 8 B for one above 32 bits (log entry 45). -/
def captureBytes (l : List Nat) : List Byte :=
  let all := l.flatMap (fun v => if v < 2 ^ 32 then bytesOfNat 4 v else bytesOfNat 8 v)
  (all ++ List.replicate 28 0).take 28

/-- The 64 bytes of a fault record (R291). -/
def faultBytes (s : State) (e : FaultEvent) : List Byte :=
  let logical := match e.room, e.slot with
    | some r, some _ => (s.room r).logical
    | _, _ => 0xFF
  let (ctx, number, slot, restarts, step) := match e.slot with
    | some j => let b := s.job j
                (b.ctx.val, b.number, j.val, min 255 b.restarts, b.step)
    | none => (0, 0xFFFFFFFF, 0xFF, 0, 0)
  let body := bytesOfNat 1 e.code.toNat ++ bytesOfNat 1 e.source ++ bytesOfNat 1 logical ++ bytesOfNat 1 ctx ++
    bytesOfNat 4 number ++ bytesOfNat 2 e.ledger ++ bytesOfNat 1 slot ++ bytesOfNat 1 restarts ++ bytesOfNat 4 e.pc ++
    bytesOfNat 8 step ++ bytesOfNat 8 s.timebase ++ captureBytes e.capture
  body ++ bytesOfNat 4 (crc32c body)

/-- Records of the fault log (R292). -/
def flogSize (s : State) : Nat :=
  let n := s.fld Reg.porchFlogCfg 0 4
  2 ^ (if 4 ≤ n ∧ n ≤ 12 then n else 4)

/-- Writes a fault record, with context 0's tag, and raises the fault source (R291, R292, R302, R360). -/
def writeFault (e : FaultEvent) (s : State) : State :=
  let ix := (s.reg Reg.porchFlogHead).toNat
  let on := s.fld Reg.porchFlogCfg 4 1 = 1
  let k := flogSize s
  let a := s.reg64 Reg.porchFlogBase % 2 ^ 48 / 2 ^ 12 * 2 ^ 12 + 64 * (ix % k)
  let number := match e.slot with | some j => (s.job j).number | none => 0xFFFFFFFF
  let s1 := s.setReg Reg.porchFlogHead (BitVec.ofNat 32 (ix + 1))
  let s2 := if on then
      let s2 := { hubWrite a (faultBytes s e) s1 with porch := { s1.porch with logged := s1.porch.logged + 1 } }
      if k ≤ s1.porch.logged then s2.satFld Reg.porchFlogCfg 16 16 1 else s2
    else s1
  let s3 := match e.slot with
    | some j => s2.modJob j (fun b => { b with lastFault := e.code.toNat, lastLog := ix, faultHigh := some b.highest })
    | none => s2
  raiseSource 16 (emitTrace 4 (match e.room with | some r => r.val | none => 0xFF) e.code.toNat number s3)

/-! ## Claims, channels, groups and rooms -/

/-- The jobs that hold rooms (R288). -/
def State.runningJobs (s : State) : List SlotId := (List.finRange 8).filter (fun j => (s.job j).st.live)

/-- Rewrites the admitted claims and re-sizes the staging pool (R232): a slot in use stays. -/
def noteClaims (s : State) : State :=
  let js := s.runningJobs.map s.job
  let sum (f : Job → Nat) : Nat := (js.map f).foldl (· + ·) 0
  let s1 := (s.setFld Reg.thrPortClaimed 0 16 (sum (fun b => b.sched.readClaim))).setFld Reg.thrPortClaimed 16 16
    (sum (fun b => b.sched.writeClaim))
  let used := s1.fld Reg.hallPool 0 8 - s1.fld Reg.hallPool 8 8
  let total := max used ((Store.size .pantry - sum (fun b => b.desc.pantrySize)) / 0x10000)
  (s1.setFld Reg.hallPool 0 8 total).setFld Reg.hallPool 8 8 (total - used)

/-- Rooms that hold no job and may take one. -/
def freeRooms (s : State) : List RoomId :=
  (List.finRange 32).filter (fun r =>
    (s.room r).job.isNone && !s.fenced.getLsbD r.val && !s.thr.fenceDue.getLsbD r.val && s.thr.readmit.get r == .no &&
      (s.thr.joins.get r).isNone)

/-- Barrier channels that no job holds. -/
def freeChans (s : State) : List ChanId := (List.finRange 8).filter (fun ch => (s.bar ch).slot.isNone)

/-- Multicast groups that no job holds (R271). -/
def freeGroups (s : State) : List Nat :=
  (List.range 16).filter (fun g => !(s.runningJobs.any (fun j => (s.job j).groups.contains g)))

/-- Takes so many of a list of equally good candidates. -/
def takeSome {α : Type} [BEq α] : Nat → List α → State → List α × State
  | 0, _, s => ([], s)
  | n + 1, l, s =>
    match pickOf l s with
    | (none, s1) => ([], s1)
    | (some x, s1) => let (t, s2) := takeSome n (l.erase x) s1
                      (x :: t, s2)

/-- The mask of the physical rooms that stand for a mask of logical rooms. -/
def physMask (b : Job) (logical : Nat) : Nat :=
  (b.rooms.zipIdx.map (fun p => match p.1 with
    | some r => if bitAt logical p.2 then 2 ^ r.val else 0
    | none => 0)).foldl (· + ·) 0

/-- One entry of a room map: the room that stands for a logical room, or the last one that did, not valid (R19, R241). -/
def mapEntry (b : Job) (old l : Nat) : Nat :=
  match b.rooms.getD l none with
  | some q => q.val + 32
  | none => if l < b.desc.rooms then old % 32 else 0

/-- Writes the room map, channel map and group map of a job's room (R19, R271). -/
def writeMaps (b : Job) (p : RoomId) (s : State) : State :=
  let s1 := (List.range 32).foldl (fun s i =>
    let k := rreg p Reg.roomMapi + 4 * i
    s.setReg k (BitVec.ofNat 32 (mapEntry b (s.reg k).toNat i))) s
  let s2 := s1.setReg (rreg p Reg.roomChmap) (BitVec.ofNat 32 ((b.chans.zipIdx.map (fun c => 16 ^ c.2 * (8 + c.1.val))).foldl (· + ·) 0))
  let grp (i : Nat) : Nat := ((List.range 8).map (fun m => 16 ^ m * b.groups.getD (8 * i + m) 0)).foldl (· + ·) 0
  let s3 := (s2.setReg (rreg p Reg.roomGrpmap) (BitVec.ofNat 32 (grp 0))).setReg (rreg p Reg.roomGrpmap + 4) (BitVec.ofNat 32 (grp 1))
  s3.setReg (rreg p Reg.roomGrpvalid) (BitVec.ofNat 32 (2 ^ b.groups.length - 1))

/-- Clears the maps of a room that no job holds. -/
def clearMaps (p : RoomId) (s : State) : State :=
  let s1 := (List.range 32).foldl (fun s i => s.setReg (rreg p Reg.roomMapi + 4 * i) 0) s
  [Reg.roomChmap, Reg.roomGrpmap, Reg.roomGrpmap + 4, Reg.roomGrpvalid].foldl (fun s k => s.setReg (rreg p k) 0) s1

/-- Writes the multicast groups of a job's gangs (R199), and the member masks of its channels; a channel's Porch bit is the
host's (R205, R210). -/
def writeMasks (j : SlotId) (s : State) : State :=
  let b := s.job j
  let s1 := (b.groups.zip b.sched.gangs).foldl (fun s p =>
    s.setReg (Reg.hallMcastGroupg + 4 * p.1) (BitVec.ofNat 32 (physMask b p.2))) s
  b.chans.foldl (fun s ch => s.setReg (Reg.landBarnMembers + 0x20 * ch.val) (BitVec.ofNat 32 (physMask b (2 ^ 32 - 1)))) s1

/-- Writes every map and mask of a job. -/
def writeAllMaps (j : SlotId) (s : State) : State :=
  writeMasks j ((s.job j).physical.foldl (fun s p => writeMaps (s.job j) p s) s)

/-- A room takes its place in a job. -/
def seatRoom (j : SlotId) (l : Nat) (p : RoomId) (s : State) : State :=
  (s.modRoom p (fun m => { m with job := some j, logical := l })).modJob j (fun b =>
    { b with rooms := modifyAt (fun _ => some p) b.rooms l })

/-- A job takes its rooms, channels and groups, any of the free ones (R271, R287). -/
def placeJob (j : SlotId) (s : State) : State :=
  let b := s.job j
  let (rooms, s1) := takeSome b.desc.rooms (freeRooms s) s
  let (chans, s2) := takeSome b.desc.chans (freeChans s1) s1
  let (groups, s3) := takeSome b.sched.gangs.length (freeGroups s2) s2
  let s4 := s3.modJob j (fun b => { b with rooms := List.replicate b.desc.rooms none, chans := chans, groups := groups })
  let s5 := rooms.zipIdx.foldl (fun s p => seatRoom j p.2 p.1 s) s4
  let s6 := chans.foldl (fun s ch => s.modBar ch (fun x => { x with slot := some j })) s5
  noteClaims (writeAllMaps j s6)

/-! ## Stopping -/

/-- Everything that a room has sent is delivered: a packet on its way cannot be called back (R24). -/
def deliverAll (r : RoomId) : Nat → State → State
  | 0, s => s
  | k + 1, s =>
    match s.hall.findIdx? (fun o => !o.done && o.src == r && !o.isRead) with
    | none => s
    | some n => deliverAll r k (hallApply n s)

/-- Everything on its way to a room is delivered (R24). -/
def deliverTo (r : RoomId) : Nat → State → State
  | 0, s => s
  | k + 1, s =>
    match s.hall.findIdx? (fun o => !o.done && o.room == some r) with
    | none => s
    | some n => deliverTo r k (hallApply n s)

/-- A room's Steward, queues, launches and multicasts are gone (R290); its outstanding tags are drained, its open drain
slots closed and a loaded shadow forgotten (log entry 46). -/
def clearRoom (r : RoomId) (s : State) : State :=
  let held := ((s.room r).chans.toList.filter (fun c => match c with | some l => l.slotHeld | none => false)).length
  let s1 := deliverAll r s.hall.length (sampleFlush r s)
  let drained (t : TagUse) : TagUse := if t.room = some r then { t with drain := true } else t
  let ports := s1.ports.map (fun (p : Port) => { p with reads := p.reads.map drained, writes := p.writes.map drained })
  let s2 := { s1 with hall := s1.hall.filter (fun o => o.src != r), mcasts := s1.mcasts.filter (fun m => m.src != r), ports := ports }
  let s3 := s2.modRoom r (fun m =>
    { m with stew := { m.stew with running := false, stall := .none, waiting := .nothing, stepping := false, bpPass := false },
             queues := Vector.replicate 5 {}, chans := Vector.replicate 4 none,
             floor := { m.floor with slots := Vector.replicate 8 none, shadowFull := false } })
  let s4 := (List.finRange 4).foldl (fun s ch => match ((s2.room r).chans.get ch : Option Launch) with
    | some l => s.setReg (rreg r Reg.dwChnStatus + 4 * ch.val) (BitVec.ofNat 32 (4 * l.flags.toNat + 64 * b2n l.denied + 128 * (l.ix % 64)))
    | none => s) s3
  if held = 0 then s4 else s4.setFld Reg.hallPool 8 8 (s4.fld Reg.hallPool 8 8 + held)

/-- The sync operations that a room has sent reach their words. -/
def deliverSync (r : RoomId) : Nat → State → State
  | 0, s => s
  | k + 1, s =>
    match s.land.ops.findIdx? (fun o => o.room == r) with
    | none => s
    | some n => deliverSync r k (syncOpAt n s)

/-- Faults of a job that wait for the Porch. -/
def faultsOf (s : State) (j : SlotId) : List FaultEvent := s.faults.filter (fun e => e.slot == some j)

/-- Everything on its way between the Hall and a room is delivered, so that its clock may stop (R24). -/
def quietRoom (r : RoomId) (s : State) : State := deliverTo r s.hall.length (deliverAll r s.hall.length s)

/-- Stops a job (R290): its rooms, its launches, and its sync words, which become ABANDONED. Faults that arise meanwhile
are only counted. -/
def stopJob (j : SlotId) (s : State) : State :=
  let b := s.job j
  let s1 := b.physical.foldl (fun s r => clearRoom r s) s
  let s2 := abandonJob b.ctx.val b.number s1
  let s3 := b.physical.foldl (fun s r => deliverSync r s.land.ops.length s) s2
  let s4 := b.physical.foldl (fun s r => s.modStew r (fun w => { w with running := false, waiting := .nothing })) s3
  let n := (faultsOf s4 j).length
  ({ s4 with faults := s4.faults.filter (fun e => e.slot != some j) }).modJob j (fun b =>
    { b with extra := satAdd 255 b.extra n, inStep := false, placed := [], moves := [], copies := [], waitCopy := false })

/-- A job's rooms, channels and groups are free again; its claims end (R232). -/
def releaseRooms (j : SlotId) (s : State) : State :=
  let b := s.job j
  let s1 := b.physical.foldl (fun s r =>
    clearMaps r ((setHeld r false s).modRoom r (fun m => { m with job := none, logical := 0, panes := [], roles := 0 }))) s
  let s2 := b.chans.foldl (fun s ch =>
    ((s.setReg (Reg.landBarnMembers + 0x20 * ch.val) 0).setReg (Reg.landBarnMembers + 0x20 * ch.val + 4) 0).modBar ch
      (fun x => { x with slot := none, members := 0, arrived := false })) s1
  let s3 := b.groups.foldl (fun s g => s.setReg (Reg.hallMcastGroupg + 4 * g) 0) s2
  let s4 := (List.finRange 32).foldl (fun s r =>
    if s.thr.joins.get r == some j then s.modThr (fun t => { t with joins := t.joins.set r none, readmit := t.readmit.set r .no }) else s) s3
  s4.modJob j (fun b => { b with rooms := [], chans := [], groups := [] })

/-- A job's slot is FREE (R288). -/
def freeSlot (j : SlotId) (s : State) : State :=
  closeLarders (noteClaims ((releaseRooms j s).modJob j (fun _ => {})))

/-! ## The sync table -/

/-- The physical room in whose slice a job's word belongs. -/
def homeRoom (b : Job) (l : Nat) : Nat :=
  match b.rooms.getD l none with
  | some p => p.val
  | none => 0

/-- Binds every entry of a job's sync table; its earlier words are freed first (R212, R223, R276). A Keyring word with a double-bit
error that a binding meets is the job's fault (R179). -/
def bindTable (j : SlotId) (s : State) : State :=
  let b := s.job j
  let s1 := freeJobWords b.ctx.val b.number s
  (syncTable s1 b.desc.sync).foldl (fun s e =>
    let s0 := if keyBad s b.ctx.val e.handle then hubFault 0x21 j ⟨.sramUncorrectable, [8, 0, keyPlace b.ctx.val e.handle]⟩ s else s
    (bindHandle b.ctx.val e.handle e.kind b.number e.home (homeRoom b e.home) e.value s0).getD s0) s1

/-- The slice that a word moves to, for a wanted home: none when its own is no farther than any with a free word (R212). -/
def betterSlice (s : State) (w want : Nat) : Option Nat :=
  match findWord s want with
  | none => none
  | some x => if hops want (wordHome x) < hops want (wordHome w) then some x else none

/-- Moves a word to another physical word: its contents, its Keyring entry, its watches and the operations on their way
(R212). -/
def moveWord (key w x : Nat) (s : State) : State :=
  let e := sget 0 s.land.keyring key
  let s1 := (s.setWord x (s.word w)).setWord w 0
  let s2 := keyWrite (key / 1024) (key % 1024) (setBits e 0 14 x) s1
  let l := s2.land
  let ws := l.watches.map (fun (y : Watch) => if y.word = w then { y with word := x } else y)
  let os := l.ops.map (fun (o : SyncOp) => if o.word = w then { o with word := x } else o)
  { s2 with land := { l with watches := ws, ops := os } }

/-- The sync words of a job follow the rooms of their homes (R212, R240). -/
def moveWords (j : SlotId) (s : State) : State :=
  let b := s.job j
  let mine := s.land.keyring.filter (fun e => e.1 / 1024 == b.ctx.val && bitAt e.2 14 && wordJob (s.word (bitsOf e.2 0 14)) == b.number)
  mine.foldl (fun s e =>
    let w := bitsOf e.2 0 14
    let want := homeRoom b (bitsOf e.2 15 5)
    if wordHome w = want then s
    else
      let s1 := match betterSlice s w want with
        | some x => moveWord e.1 w x s
        | none => s
      if wordHome (bitsOf (sget 0 s1.land.keyring e.1) 0 14) = want then s1 else s1.satFld Reg.landRehomeMiss 0 32 1) s

/-! ## Loading a room -/

/-- The bytes that fit a store from an offset. -/
def fitting (st : Store) (off : Nat) (bs : List Byte) : List Byte := bs.take (st.size - off)

/-- Bytes of a Lamp image (R243). -/
def lampImageSize : Nat := 4160

/-- The Lamp image loads into the loadable tables (R149, R243): the 512 B banks into bank A, with the epochs recorded. -/
def loadLamp (r : RoomId) (img : List Byte) (s : State) : State :=
  let banks := (List.range 8).foldl (fun (m : Memory) t => m.putBytes (0x400 * t) ((img.drop (0x200 * t)).take 0x200)) []
  let s1 := (s.eccClear (some r) .lamp (fun _ => true)).modRoom r (fun m => { m with lamp := banks })
  (List.range 8).foldl (fun s t =>
    let w := natOfBytes ((img.drop (0x1000 + 4 * t)).take 4)
    s.setReg (rreg r Reg.lmTblt + 4 * t) (BitVec.ofNat 32 (2 * bitsOf w 16 1 + 2 ^ 16 * bitsOf w 0 16))) s1

/-- Stage 2 of R242: the Lamp image and the resident weights of a job load from the Pantry into a room. -/
def loadTables (d : JobDesc) (r : RoomId) : Op Unit := do
  let img ← loadBytes none .pantry d.lampOff lampImageSize
  modify (loadLamp r img)
  if 0 < d.weightSize then
    let ws ← loadBytes none .pantry d.weightOff d.weightSize
    storeBytes (some r) .shelf Config.weightBase (fitting .shelf Config.weightBase ws)

/-- The initial roles of a pane table: bit p is set when pair p's fill pane is B (R273). -/
def initialRoles (panes : List Nat) : BitVec 16 :=
  BitVec.ofNat 16 ((panes.zipIdx.map (fun p => bitsOf p.1 44 1 * 2 ^ p.2)).foldl (· + ·) 0)

/-- Code, data and registers of a job's room at its start and at every restart (R104, R218, R254, R274). -/
def loadProgram (d : JobDesc) (l : Nat) (r : RoomId) : Op Unit := do
  let s ← get
  let e := roomImage s d.prog l
  let code := s.dbytes (d.prog + e.code) e.codeLen
  let data := s.dbytes (d.prog + e.data) e.dataLen
  modify (fun s =>
    let s1 := (s.eccClear (some r) .icache (fun _ => true)).modRoom r (fun m =>
      { m with stew := { codeBase := e.code, codeLen := e.codeLen, pc := e.code, held := m.stew.held },
               queues := Vector.replicate 5 {}, icache := Memory.putBytes [] 0 code, panes := d.panes,
               roles := initialRoles d.panes, slots := Vector.replicate 16 .empty, stepTime := 0,
               sampler := { m.sampler with awaiting := [] } })
    clearExc r (s1.dropWatches (fun x => match x.who with | .room q _ => q == r | .host _ _ => false)))
  storeBytes (some r) .shelf 0 (fitting .shelf 0 data)

/-- A room of a job is loaded. A fault of the Pantry or the Shelf is the job's (R290). -/
def loadRoom (j : SlotId) (l : Nat) (r : RoomId) (s : State) : State :=
  match (do loadProgram (s.job j).desc l r; loadTables (s.job j).desc r : Op Unit) s with
  | .ok _ s1 => s1
  | .error e s1 => hubFault 0x23 j e s1

/-- Every room of a job is loaded. -/
def loadRooms (j : SlotId) (s : State) : State :=
  (s.job j).rooms.zipIdx.foldl (fun s p => match p.1 with | some r => loadRoom j p.2 r s | none => s) s

end Sys2Proof.Machine
end

