-- ==== Sys2Proof/Machine/Boundary.lean ====
section
/-! DEFINITION. The step boundary (R25): what a step consumes (R229, R237, R245, R246, R251), checkpoints (R26, R250),
fences and substitution (R241, R242), moves (R240), the placement of streams into rows (R235, R247), the step block (R277),
and the end of a job (R288). -/

namespace Sys2Proof.Machine

/-! ## The Attic and the input log -/

/-- A record of the input log (R251). -/
structure LogRec where
  time : Nat
  token : Nat
  reset : Bool
  eos : Bool
  deriving DecidableEq, Repr

/-- Entries of a stream's log ring (R250). -/
def ringSize (s : State) (i : Nat) : Nat := s.dnum (s.atticKey i + 0x28) 4

/-- The record of a position (R251). -/
def logRec (s : State) (i p : Nat) : LogRec :=
  let a := s.atticKey i
  let v := s.dnum (inCtx a (a + s.dnum (a + 0x20) 8 + 16 * (p % ringSize s i))) 16
  ⟨bitsOf v 0 64, bitsOf v 64 32, bitAt v 96, bitAt v 97⟩

/-- The checkpoint image that an Attic header names: none for 0xFF (R250). -/
def atticImage (s : State) (i : Nat) : Option Nat :=
  let v := s.dnum (s.atticKey i + 0xC) 1
  if v = 0xFF then none else some v

/-- The log position that an Attic header commits: 0 when it names no image (R26, R250). -/
def atticPos (s : State) (i : Nat) : Nat :=
  match atticImage s i with
  | some _ => s.dnum (s.atticKey i + 0x18) 8
  | none => 0

/-- Where an image of the Attic record starts (R250). -/
def imageAddr (a image size : Nat) : Nat := a + 0x1000 + image * (ceilDiv size 0x1000 * 0x1000)

/-- The start of window k of a stream (R245). -/
def winStart (s : State) (i k : Nat) : Nat := s.led i Led.origin + k * s.led i Led.winLen

/-- The timebase at which window k becomes due (R245). -/
def winDueAt (s : State) (i k : Nat) : Nat := winStart s i (k + 1) + (s.reg Reg.thrWinGrace).toNat

/-- Positions of a stream that no window has consumed (R246). -/
def openPositions (s : State) (i : Nat) : List Nat :=
  let c := s.led i Led.consumed
  ((List.range (s.led i Led.fed - c)).map (fun k => c + k)).filter (fun p => !s.thr.ahead.contains (i, p))

/-- What one position of a step delivers (R245, R246, R251, R277): the log positions that it stands for, its token, how many of its
records are late, and its flags. -/
structure PosData where
  taken : List Nat
  token : Nat := 0
  late : Nat := 0
  empty : Bool := false
  reset : Bool := false
  eos : Bool := false
  deriving DecidableEq, Repr

/-- The flags byte of a position (R277). -/
def PosData.flags (p : PosData) : Nat := b2n (decide (0 < p.late)) + 2 * b2n p.empty + 4 * b2n p.eos

/-- The records assigned to the open window k, given those not yet consumed: every one before its end; one before its start
is LATE (R246). -/
def windowPos (s : State) (i k : Nat) (rest : List Nat) : PosData :=
  let mine := rest.filter (fun p => decide ((logRec s i p).time < winStart s i (k + 1)))
  let recs := mine.map (logRec s i)
  { taken := mine, token := (recs.map LogRec.token).headD 0, late := (recs.filter (fun x => decide (x.time < winStart s i k))).length,
    empty := recs.isEmpty, reset := recs.any LogRec.reset, eos := recs.any LogRec.eos }

/-- Up to n windows of a stream, from window k on, ending early at an end of stream. -/
def windowsFrom (s : State) (i : Nat) : Nat → Nat → List Nat → List PosData
  | 0, _, _ => []
  | n + 1, k, rest =>
    let p := windowPos s i k rest
    if p.eos then [p] else p :: windowsFrom s i n (k + 1) (rest.filter (fun x => !p.taken.contains x))

/-- Up to n positions of a stream without windows, ending early at an end of stream (R251). -/
def positionsFrom (s : State) (i : Nat) : Nat → Nat → List PosData
  | 0, _ => []
  | n + 1, p =>
    let x := logRec s i p
    let d : PosData := { taken := [p], token := x.token, reset := x.reset, eos := x.eos }
    if x.eos then [d] else d :: positionsFrom s i n (p + 1)

/-- The positions that a step consumes of a stream, at most n (R235). -/
def stepPositions (s : State) (i n : Nat) : List PosData :=
  if s.windowed i then windowsFrom s i (min n (s.dueOf i).length) (s.led i Led.window) (openPositions s i)
  else positionsFrom s i (min n (s.backlog i)) (s.led i Led.consumed)

/-- The timestamp of a stream's oldest pending position, by which streams are ordered (R235); an empty window counts from
its start. -/
def oldestStamp (s : State) (i : Nat) : Nat :=
  if s.windowed i then
    match openPositions s i with
    | p :: _ => (logRec s i p).time
    | [] => winStart s i (s.led i Led.window)
  else if 0 < s.backlog i then (logRec s i (s.led i Led.consumed)).time else 0

/-- Rewrites an entry's timestamp of its oldest pending position (R228). -/
def noteOldest (i : Nat) (s : State) : State :=
  s.setLed i Led.oldest (if 0 < s.backlog i then oldestStamp s i else 0)

/-- An entry that is not FREE and not ACTIVE takes the state its pending positions give it (R229). -/
def restState (s : State) (i : Nat) : Nat := if decide (0 < s.backlog i) || s.hasPending i then Led.READY else Led.IDLE

/-! ## Closing entries -/

/-- A stream's entry becomes FREE; its Larder pages return to their free lists (log entry 47). -/
def closeEntry (i : Nat) (s : State) : State :=
  let s1 := s.thr.larders.foldl (fun s l =>
    let h := larderHdr s l.addr
    ((larderPages s h).filter (fun p => let e := pageEntry s h p; e.state != 0 && e.owner == i)).foldl (fun s p => returnPage h p s) s) s
  freeEntry i s1

/-- Both members of a pair, or the one stream, become FREE (R249). -/
def closeUnit (i : Nat) (s : State) : State := (s.unit i).foldl (fun s x => closeEntry x s) s

/-! ## The end of a step -/

/-- A consumed position list is taken off a stream: the consumed count passes every position that is taken (R246). -/
def advance (i : Nat) : Nat → State → State
  | 0, s => s
  | n + 1, s =>
    let c := s.led i Led.consumed
    if s.thr.ahead.contains (i, c) then
      advance i n ((s.setLed i Led.consumed (c + 1)).modThr (fun t => { t with ahead := t.ahead.filter (· != (i, c)) }))
    else s

/-- T of R275 in ticks is T × 16 Hall cycles of 1.2 GHz; whether an interval in ticks is longer than n × T (R237). -/
def longerThan (s : State) (j : SlotId) (n ticks : Nat) : Bool :=
  decide (n * (s.job j).sched.stepTime * 16 * Config.timebaseKHz < ticks * 1200000)

/-- Deadline misses of a LIVE stream, one for each window that is consumed too late (R237). -/
def liveMisses (i n : Nat) (s : State) : State :=
  if n = 0 then s else thrEvent 3 ((s.satFld Reg.thrMiss 0 16 n).satLed i Led.miss n)

/-- A row's stream has been served by a step (R229, R237). -/
def consumeRow (j : SlotId) (x : PlacedRow) (s : State) : State :=
  let i := x.stream
  if s.led i Led.state ≠ Led.ACTIVE then s
  else
    let s1 := s.modThr (fun t => { t with ahead := t.ahead ++ x.taken.map (fun p => (i, p)) })
    let s2 := advance i (s1.backlog i) s1
    let s3 := if s2.windowed i then
        (s2.setLed i Led.window (s2.led i Led.window + x.positions)).modThr (fun t =>
          { t with due := (t.due.filter (fun d => d.index != i)) ++ ((s2.dueOf i).drop x.positions) })
      else s2
    let late := (x.dues.filter (fun d => longerThan s3 j 2 (s3.timebase - d))).length
    let s4 := if s3.classOf i = 0 then liveMisses i late s3 else s3
    noteOldest i (s4.setLed i Led.state (restState s4 i))

/-- Streams whose CLOSE waited for the release are FREE (R229). -/
def closePending (j : SlotId) (s : State) : State :=
  (s.thr.closing.filter (fun i => s.jobOf i == some j)).foldl (fun s i => if s.thr.closing.contains i then closeUnit i s else s) s

/-! ## Checkpoints -/

/-- The interval of R26: 0 acts as 256 (log entry 48). -/
def Sched.every (c : Sched) : Nat := if c.interval = 0 then 256 else c.interval

/-- Rewrites a stream's Attic header: its checkpoint image, step and log position, with a fresh CRC (R250). -/
def putHeader (i image step pos : Nat) (s : State) : State :=
  let h := s.dbytes (s.atticKey i) 0x40
  let body := h.take 6 ++ bytesOfNat 2 i ++ (h.drop 8).take 4 ++ bytesOfNat 1 image ++ (h.drop 0xD).take 3 ++ bytesOfNat 8 step ++
    bytesOfNat 8 pos ++ (h.drop 0x20).take 0x1C
  hubWrite (s.atticKey i) (body ++ bytesOfNat 4 (crc32c body)) s

/-- A checkpoint's header (R26, R250): the image that the header does not name. DESIGN CHOICE (log entry 127): every stream of the job
changes images at a checkpoint, also one that no step since the last has placed; the first image of a header that names none is A. -/
def commitHeader (i step pos : Nat) (s : State) : State :=
  putHeader i (match atticImage s i with | some 0 => 1 | _ => 0) step pos s

/-- The oldest checkpoint of a job commits: every header of its step, and what a restart returns to (R26). -/
def commitCkpt (j : SlotId) (c : Ckpt) (s : State) : State :=
  let mine := c.streams.filter (fun p => s.jobOf p.1 == some j && s.led p.1 Led.state != Led.FAULTED)
  let s1 := mine.foldl (fun s p => commitHeader p.1 c.step p.2 s) s
  let marks := c.marks.filter (fun m => mine.any (fun p => p.1 == m.index))
  let s2 := s1.modThr (fun t => { t with marks := t.marks.filter (fun m => !(mine.any (fun p => p.1 == m.index))) ++ marks })
  s2.modJob j (fun b => { b with ckpts := b.ckpts.tail, committed := some c.step })

/-- The launches of a room that are not complete: those that may still owe a write response. -/
def roomLaunches (s : State) (r : RoomId) : List Nat :=
  (((s.room r).queue 4).entries.filter QEntry.isLaunch).map QEntry.id ++ (s.room r).chans.toList.filterMap (fun c => c.map Launch.id)

/-- A checkpoint begins at the release of its step: each stream's log position and its place in its windows, and the launches whose
writes it waits for (R26, R245). -/
def beginCkpt (j : SlotId) (s : State) : State :=
  let is := s.streamsOf j
  let c : Ckpt := {
    step := (s.job j).step, streams := is.map (fun i => (i, s.led i Led.consumed)),
    marks := is.map (fun i => ⟨i, s.led i Led.window, (s.thr.ahead.filter (fun x => x.1 == i)).map Prod.snd⟩),
    launches := (s.job j).physical.flatMap (fun r => (roomLaunches s r).map (fun n => (r, n))) }
  s.modJob j (fun b => { b with ckpts := b.ckpts ++ [c] })

/-- Whether every state write of a checkpoint's step has been answered: its launches are complete (R26, R191). -/
def ckptDone (s : State) (c : Ckpt) : Bool := c.launches.all (fun x => !(roomLaunches s x.1).contains x.2)

/-- The step ends: its rows are consumed, its freed pages return, closing streams go, and a checkpoint step begins its
checkpoint (R26, R170, R229). -/
def endStep (j : SlotId) (s : State) : State :=
  let b := s.job j
  let s1 := readEntries (s.streamsOf j) s
  let s2 := b.placed.foldl (fun s x => consumeRow j x s) s1
  let s3 := noteStreams (closePending j (returnFreed j s2))
  let s4 := s3.modJob j (fun b => { b with placed := [], inStep := false, highest := max b.highest b.step, replayTicks := if b.step < b.replayTo then b.replayTicks + (s.timebase - b.since) else b.replayTicks })
  if b.desc.ckpt && b.step % b.sched.every == 0 then beginCkpt j s4 else s4

/-! ## Fences and substitutes -/

/-- The bit of a room. -/
def roomBit (r : RoomId) : BitVec 32 := BitVec.ofNat 32 (2 ^ r.val)

/-- A fenced room that the Chimney holds by its temperature goes to RETAIN; its Hall queues are drained first (R24, R346). -/
def retainHot (r : RoomId) (s : State) : State :=
  if s.chim.thermal.getLsbD r.val && (s.room r).power == .on then (quietRoom r s).modRoom r (fun m => { m with power := .retain }) else s

/-- A room is out of its job and of every barrier mask and group from here on (R241). -/
def applyFence (r : RoomId) (s : State) : State :=
  let bit := roomBit r
  let s1 := { s with fenced := s.fenced ||| bit }.modThr (fun t =>
    { t with fenceDue := t.fenceDue &&& ~~~bit, readmit := t.readmit.set r .no, joins := t.joins.set r none })
  retainHot r (match (s.room r).job with
    | none => s1
    | some j =>
      let l := (s.room r).logical
      let s2 := (clearRoom r s1).modRoom r (fun m => { m with job := none })
      writeAllMaps j (s2.modJob j (fun b => { b with rooms := modifyAt (fun _ => none) b.rooms l })))

/-- A fence is decided: at once for a room that holds no job, else at the job's next step boundary (R241). A room that is fenced already
stays so, and goes to RETAIN if it is too hot (R346). -/
def requestFence (r : RoomId) (s : State) : State :=
  if s.fenced.getLsbD r.val then retainHot r s
  else if (s.room r).job.isNone then applyFence r s
  else s.modThr (fun t => { t with fenceDue := t.fenceDue ||| BitVec.ofNat 32 (2 ^ r.val) })

/-- The decided fences of a job's rooms take effect. -/
def applyFences (j : SlotId) (s : State) : State :=
  ((s.job j).physical.filter (fun r => s.thr.fenceDue.getLsbD r.val)).foldl (fun s r => applyFence r s) s

/-- THR_READMIT shows the rooms between stages 1 and 4 of R242. -/
def noteReadmit (s : State) : State :=
  s.setReg Reg.thrReadmit (BitVec.ofNat 32 (((List.finRange 32).map (fun r => if s.thr.readmit.get r != .no then 2 ^ r.val else 0)).foldl (· + ·) 0))

/-- Logical rooms of a job that no room stands for, and rooms on their way into it. -/
def lacking (s : State) (j : SlotId) : Nat :=
  ((s.job j).rooms.filter Option.isNone).length - ((List.finRange 32).filter (fun r => s.thr.joins.get r == some j)).length

/-- Free rooms are taken as substitutes for a job's missing rooms, each first to its self-test (R241, R242); without one the
job is held. -/
def substitute (j : SlotId) : Nat → State → State
  | 0, s => noteReadmit (s.modJob j (fun b => { b with noRoom := false }))
  | n + 1, s =>
    match pickOf (freeRooms s) s with
    | (none, s1) => noteReadmit (thrEvent 1 (s1.modJob j (fun b => { b with noRoom := true })))
    | (some r, s1) =>
      substitute j n ((s1.modThr (fun t => { t with joins := t.joins.set r (some j), readmit := t.readmit.set r .selfTest })).satFld Reg.thrMoves 16 16 1)

/-- A job looks for rooms for those it lacks. -/
def fillRooms (j : SlotId) (s : State) : State := substitute j (lacking s j) s

/-- A room is to be fenced: a job that it was on its way into as a substitute looks for another. -/
def fenceRoom (r : RoomId) (s : State) : State :=
  match s.thr.joins.get r with
  | some j => fillRooms j (requestFence r s)
  | none => requestFence r s

/-- The room of a job's streams that is no room of the job any more: the lowest such stream's. -/
def goneRoom (s : State) (j : SlotId) : Option Nat :=
  let here := (s.job j).physical.map Fin.val
  ((s.streamsOf j).map (fun i => s.led i Led.room)).find? (fun p => p != 0xFF && !here.contains p)

/-- A room joins a job as the lowest logical room that none stands for: maps, masks, sync words and streams follow (R212,
R242). -/
def joinRoom (r : RoomId) (j : SlotId) (s : State) : State :=
  let s1 := s.modThr (fun t => { t with joins := t.joins.set r none, readmit := t.readmit.set r .no })
  match (s.job j).rooms.findIdx? Option.isNone with
  | none => noteReadmit s1
  | some l =>
    let s2 := (s1.streamsOf j).foldl (fun s' i => if some (s'.led i Led.room) = goneRoom s j then s'.setLed i Led.room r.val else s') s1
    noteReadmit (moveWords j (writeAllMaps j (seatRoom j l r s2)))

/-! ## Placement -/

/-- One stream or duplex pair that wants rows (R247, R249). -/
structure Cand where
  members : List Nat
  key : Nat
  cls : Nat
  deriving DecidableEq, Repr

/-- Whether a stream has a position that a step could consume. -/
def placeable (s : State) (i : Nat) : Bool :=
  s.led i Led.state == Led.READY && (if s.windowed i then !(s.dueOf i).isEmpty else decide (0 < s.backlog i))

/-- The units of a job that may be placed, oldest pending position first, ties to the lower index (R235). -/
def candidates (s : State) (j : SlotId) : List Cand :=
  let all := s.streamsOf j
  let units := (all.map s.unit).eraseDups.filter (fun u =>
    u.any (placeable s) && u.all (fun i => all.contains i && decide (s.led i Led.state = Led.IDLE ∨ s.led i Led.state = Led.READY) && pagesReady s j i))
  let cs := units.map (fun u => (⟨u, ((u.filter (placeable s)).map (oldestStamp s)).foldl min (2 ^ 64), s.classOf (u.headD 0)⟩ : Cand))
  sortBy (fun a b => decide (a.key < b.key) || (a.key == b.key && decide (a.members.headD 0 ≤ b.members.headD 0))) cs

/-- What selection has taken so far: the units, the rows and the pairs of rows left. -/
structure Pick where
  taken : List Cand := []
  rows : Nat
  pairs : Nat

/-- Takes a unit while rows remain; a pair needs two rows of one room (R235, R247). -/
def Pick.add (k : Pick) (c : Cand) : Pick :=
  if k.taken.contains c then k
  else if c.members.length = 1 then (if 0 < k.rows then { k with taken := k.taken ++ [c], rows := k.rows - 1 } else k)
  else if 2 ≤ k.rows ∧ 0 < k.pairs then { k with taken := k.taken ++ [c], rows := k.rows - 2, pairs := k.pairs - 1 }
  else k

/-- Takes units of a class up to its reserve of rows (R235). -/
def Pick.upTo (k : Pick) : Nat → List Cand → Pick
  | _, [] => k
  | left, c :: t =>
    if c.members.length ≤ left then
      let k1 := k.add c
      k1.upTo (if k1.taken.length = k.taken.length then left else left - c.members.length) t
    else k.upTo left t

/-- The units that the next step serves (R235). -/
def selectUnits (s : State) (j : SlotId) : List Cand :=
  let b := s.job j
  let cs := candidates s j
  let rooms := b.physical.length
  let of_ (c : Nat) : List Cand := cs.filter (fun x => x.cls == c)
  let k0 : Pick := { rows := rooms * b.sched.rows, pairs := rooms * (b.sched.rows / 2) }
  let k1 := (of_ 0).foldl Pick.add k0
  let k2 := [1, 2, 3].foldl (fun k c => k.upTo (b.reserves.getD c 0) (of_ c)) k1
  ([1, 2, 3].foldl (fun k c => (of_ c).foldl Pick.add k) k2).taken

/-- The logical room of a physical room in a job. -/
def logicalOf (b : Job) (room : Nat) : Option Nat := b.rooms.findIdx? (fun x => match x with | some r => r.val == room | none => false)

/-- The row that a unit takes: its own where it can, else one in its room, else any (log entry 49). Rows are pairs of a
logical room and a row; a pair starts at an even row with the next one free (R247). -/
def chooseRow (s : State) (b : Job) (free : List (Nat × Nat)) (c : Cand) : Option (Nat × Nat) × State :=
  let i := c.members.headD 0
  let fit := if c.members.length = 1 then free else free.filter (fun x => x.2 % 2 == 0 && free.contains (x.1, x.2 + 1))
  let home := match b.moves.find? (fun m => m.1 == i) with
    | some m => some m.2
    | none => logicalOf b (s.led i Led.room)
  let same := fit.filter (fun x => some x.1 == home)
  match same.find? (fun x => x.2 == s.led i Led.row) with
  | some x => (some x, s)
  | none => if same.isEmpty then pickOf fit s else pickOf same s

/-- One member is placed in its row: its positions in this step, held when it has none (R111, R235, R247). -/
def placeMember (j : SlotId) (p : Nat) (l row i : Nat) (s : State) : State × List PosData :=
  let ps := if placeable s i then stepPositions s i p else []
  let b := s.job j
  let phys := match b.rooms.getD l none with | some r => r.val | none => 0xFF
  let lates := (ps.map PosData.late).foldl (· + ·) 0
  let dues := if s.windowed i then ((s.dueOf i).take ps.length).map DueWindow.due else []
  let x : PlacedRow := { room := l, row := row, stream := i, positions := ps.length, held := ps.isEmpty,
                         taken := ps.flatMap PosData.taken, dues := dues }
  let s1 := ((((s.setLed i Led.state Led.ACTIVE).setLed i Led.room phys).setLed i Led.row row).setLed i Led.lastStep b.step)
  let s2 := if lates = 0 then s1 else (s1.satLed i Led.late lates).satFld Reg.thrMiss 16 16 lates
  (s2.modJob j (fun b => { b with placed := b.placed ++ [x] }), ps)

/-- A resident state that changes its row has to be copied there before the step (R240). -/
def noteCopy (j : SlotId) (l row i : Nat) (s : State) : State :=
  let b := s.job j
  match logicalOf b (s.led i Led.room), b.rooms.getD l none with
  | some l0, some dst =>
    match b.rooms.getD l0 none with
    | some src =>
      if b.desc.resident && !(l0 == l && s.led i Led.row == row) then
        s.modJob j (fun b => { b with copies := b.copies ++ [⟨i, src, s.led i Led.row, dst, row⟩] })
      else s
    | none => s
  | _, _ => s

/-- What a step delivers in each row: logical room, row, stream and positions. -/
abbrev Delivery := List (Nat × Nat × Nat × List PosData)

/-- One unit takes its row or rows. -/
def placeUnit (j : SlotId) (p : Nat) (acc : State × List (Nat × Nat) × Delivery) (c : Cand) : State × List (Nat × Nat) × Delivery :=
  let (s, free, out) := acc
  match chooseRow s (s.job j) free c with
  | (none, s1) => (s1, free, out)
  | (some (l, row), s1) =>
    c.members.zipIdx.foldl (fun acc m =>
      let (s, free, out) := acc
      let (s1, ps) := placeMember j p l (row + m.2) m.1 (noteCopy j l (row + m.2) m.1 s)
      (s1, free.erase (l, row + m.2), out ++ [(l, row + m.2, m.1, ps)])) (s1, free, out)

/-- Whether the next step is a chunk step: a job with chunk steps may run either kind (log entry 50). -/
def stepKind (j : SlotId) (s : State) : Nat × State :=
  let n := (s.job j).sched.positions
  if n = 0 then (1, s)
  else let (x, s1) := pickFree s
       (if x % 2 = 0 then 1 else n, s1)

/-- The number with the listed bits set. -/
def bitMask (rows : List Nat) : Nat := (rows.map (fun r => 2 ^ r)).foldl (· ||| ·) 0

/-- The step block of a logical room (R277). -/
def stepBlock (b : Job) (l p : Nat) (out : Delivery) : List Byte :=
  let mine := out.filter (fun x => x.1 == l)
  let rows := b.sched.rows
  let at_ (r : Nat) : Option (Nat × List PosData) := (mine.find? (fun x => x.2.1 == r)).map (fun x => x.2.2)
  let resets := if p = 1 then bitMask ((mine.filter (fun x => x.2.2.2.any PosData.reset)).map (fun x => x.2.1)) else 0
  let holds := bitMask ((List.range rows).filter (fun r => match at_ r with | some x => x.2.isEmpty | none => true))
  let marks (r : Nat) : Nat := match at_ r with
    | some x => if p = 1 then 0 else bitMask ((x.2.zipIdx.filter (fun d => d.1.reset)).map Prod.snd)
    | none => 0
  let token (r k : Nat) : Nat := match at_ r with | some x => ((x.2[k]?).map PosData.token).getD 0 | none => 0
  let flag (r k : Nat) : Nat := match at_ r with | some x => ((x.2[k]?).map PosData.flags).getD 2 | none => 0
  bytesOfNat 8 b.step ++ bytesOfNat 8 resets ++ bytesOfNat 8 holds ++ bytesOfNat 2 p ++ bytesOfNat 1 mine.length ++ bytesOfNat 1 l ++
    bytesOfNat 36 0 ++ (List.range 64).flatMap (fun r => bytesOfNat 2 (match at_ r with | some x => x.1 | none => 0xFFFF)) ++
    (List.range 64).flatMap (fun r => bytesOfNat 32 (marks r)) ++
    (List.range rows).flatMap (fun r => (List.range p).flatMap (fun k => bytesOfNat 4 (token r k))) ++
    (List.range rows).flatMap (fun r => (List.range p).flatMap (fun k => bytesOfNat 1 (flag r k)))

/-- Writes the step block into every room of a job (R277); an error there is the job's. -/
def writeBlocks (j : SlotId) (p : Nat) (out : Delivery) (s : State) : State :=
  (s.job j).rooms.zipIdx.foldl (fun s x =>
    match x.1 with
    | none => s
    | some r =>
      let b := s.job j
      match storeBytes (some r) .shelf b.desc.stepOff (fitting .shelf b.desc.stepOff (stepBlock b x.2 p out)) s with
      | .ok _ s1 => s1
      | .error e s1 => hubFault 0x22 j e s1) s

/-- Dropped pages of the streams that could be placed, and of their partners, are regenerated before they are (R171, R172, R249). -/
def recomputeFor (j : SlotId) (s : State) : State :=
  let a := (s.job j).desc.larder
  if a = 0 then s
  else
    let h := larderHdr s a
    ((s.streamsOf j).filter (fun i => (s.unit i).any (placeable s))).foldl (fun s i => (pagesIn s h i 2).foldl (fun s p => recomputePage h p s) s) s

/-- The streams of the next step take their rows (R235). Pairs take theirs first, since they need two of one room. -/
def placeStep (j : SlotId) (s : State) : State :=
  let s1 := recomputeFor j (readEntries (s.streamsOf j) s)
  let (p, s2) := stepKind j s1
  let b := s2.job j
  let units := selectUnits s2 j
  let free := (List.range b.rooms.length).flatMap (fun l => if (b.rooms.getD l none).isSome then (List.range b.sched.rows).map (fun r => (l, r)) else [])
  let order := units.filter (fun c => c.members.length == 2) ++ units.filter (fun c => c.members.length != 2)
  let (s3, _, out) := order.foldl (placeUnit j p) (s2, free, [])
  noteStreams (writeBlocks j p out s3)

/-! ## The start of a step -/

/-- A Steward begins at its first instruction; the stall of its last step stands before it (R257, R354). -/
def Stew.restart (w : Stew) (now : Nat) : Stew :=
  { w with running := true, stall := .none, waiting := .nothing, pc := w.codeBase, bpPass := false,
           gone := if w.stall = .none then w.gone else some (w.stall, now - w.stallFrom) }

/-- A job's Stewards begin at their first instructions (R257): step time starts anew (R191), and debug takes effect (R356). -/
def resumeRooms (j : SlotId) (s : State) : State :=
  let s1 := (s.job j).physical.foldl (fun s r => s.modRoom r (fun m => { m with stew := m.stew.restart (winCycles s r), stepTime := 0 })) s
  s1.modJob j (fun b => { b with inStep := true, since := s.timebase, waitCopy := false, debug := bitAt (s.fld Reg.studyDbgJobs 0 8) j.val })

/-- A move takes effect: it is counted, and its stream rests for min_dwell (R239, R240). -/
def noteMove (j : SlotId) (i : Nat) (s : State) : State :=
  ((s.setLed i Led.lastMove (s.job j).step).modThr (fun t =>
    { t with movedMs := (t.movedMs.filter (fun x => x.1 != i)) ++ [(i, t.ms)] })).satFld Reg.thrMoves 0 16 1

/-- The decided moves of a job whose state is not resident take effect, for the streams that have not gone meanwhile (R240): each is in
its new room. -/
def applyMoves (j : SlotId) (s : State) : State :=
  let b := s.job j
  if b.desc.resident then s
  else
    (b.moves.foldl (fun s m =>
      match b.rooms.getD m.2 none with
      | some r => if s.jobOf m.1 == some j then noteMove j m.1 (s.setLed m.1 Led.room r.val) else s
      | none => s) s).modJob j (fun b => { b with moves := [] })

/-- A resident state moves once a step places its stream in the room decided; until then the decision stands (R240, log entry 129). -/
def placedMoves (j : SlotId) (s : State) : State :=
  let b := s.job j
  let here (m : Nat × Nat) : Bool := b.placed.any (fun x => x.stream == m.1 && x.room == m.2)
  let left := b.moves.filter (fun m => !here m && s.jobOf m.1 == some j)
  ((b.moves.filter here).foldl (fun s m => noteMove j m.1 s) s).modJob j (fun b => { b with moves := left })

/-- The next step of a running job starts, unless a room is missing or states must be copied first (R240, R241). -/
def proceed (j : SlotId) (s : State) : State :=
  let s1 := applyFences j s
  let s2 := if (s1.job j).rooms.any Option.isNone then fillRooms j s1 else s1
  let b := s2.job j
  if b.st != .running || b.inStep || b.waitCopy || b.rooms.any Option.isNone || b.ending.isSome then s2
  else
    let s3 := placedMoves j (placeStep j (applyMoves j s2))
    if (s3.job j).copies.isEmpty then resumeRooms j s3 else s3.modJob j (fun b => { b with waitCopy := true })

/-- Jobs that are held for want of a room look again (R241). -/
def fillHeld (s : State) : State :=
  (List.finRange 8).foldl (fun s j => if (s.job j).st == .running && (s.job j).noRoom then fillRooms j s else s) s

/-- The regions of the Chest that a state copy moves: from, to and size; for a pair's P the shared partition too (R240, R247). -/
def copyParts (s : State) (j : SlotId) (c : StateCopy) : List (Nat × Nat × Nat) :=
  let d := (s.job j).desc
  let (o0, n) := Config.rowState c.srcRow
  let (o1, _) := Config.rowState c.dstRow
  (o0, o1, n) :: (if (s.partner c.stream).isSome && c.srcRow % 2 == 0 then
    [(d.chest0 + c.srcRow / 2 * d.partSize, d.chest0 + c.dstRow / 2 * d.partSize, d.partSize)] else [])

/-- State copies between Chests: every state is read before any is written, so that rows may exchange theirs (R177, R240). -/
def copyAll (j : SlotId) (cs : List StateCopy) : Op Unit := do
  let s ← get
  let ws ← (cs.flatMap (fun c => (copyParts s j c).map (fun p => (c, p)))).mapM (fun x => do
    let bs ← loadBytes (some x.1.src) .chest x.2.1 x.2.2.2
    pure (x.1.dst, x.2.2.1, fitting .chest x.2.2.1 bs))
  ws.forM (fun w => storeBytes (some w.1) .chest w.2.1 w.2.2)

/-- State copies of a job; an error that they meet is the job's (R179). -/
def moveStates (j : SlotId) (cs : List StateCopy) (s : State) : State :=
  match copyAll j cs s with
  | .ok _ s1 => s1
  | .error e s1 => hubFault 0x23 j e s1

/-- The copies that a job's next step waits for are made, and the step starts (R240). -/
def copyStates (j : SlotId) (s : State) : State :=
  if !(s.job j).waitCopy then s
  else
    let s1 := (moveStates j (s.job j).copies s).modJob j (fun b => { b with copies := [] })
    if (faultsOf s1 j).isEmpty then resumeRooms j s1 else s1

/-! ## The end of a job -/

/-- The streams of a job that ends or is aborted go IDLE at their last committed checkpoint; of one whose recovery has
failed, FAULTED (R229, R288, R299). -/
def endStreams (j : SlotId) (failed : Bool) (s : State) : State :=
  let s1 := closePending j s
  noteStreams ((s1.streamsOf j).foldl (fun s i =>
    let st := s.led i Led.state
    let s1 := s.setLed i Led.room 0xFF
    if st = Led.FAULTED then s
    else if failed then s1.setLed i Led.state Led.FAULTED
    else if st = Led.PARKED then s
    else noteOldest i ((if (s.job j).desc.ckpt then s1.setLed i Led.consumed (atticPos s1 i) else s1).setLed i Led.state Led.IDLE)) s1)

/-- Rooms whose fence waited for a boundary of a job that they have left are fenced (R241). -/
def applyLoose (s : State) : State :=
  ((List.finRange 32).filter (fun r => s.thr.fenceDue.getLsbD r.val && (s.room r).job.isNone)).foldl (fun s r => applyFence r s) s

/-- A job leaves its slot with a completion (R284, R288): its rooms stop, and its words wake their watches. Those of a job that
ends are free; the others stay ABANDONED (R223, log entry 82). -/
def leaveSlot (j : SlotId) (result tag : Nat) (s : State) : State :=
  let b := s.job j
  let s0 := stopJob j s
  let s1 := if result = Res.ended then freeJobWords b.ctx.val b.number s0 else s0
  let s2 := endStreams j (result == Res.failed) (returnFreed j s1)
  fillHeld (applyLoose (freeSlot j (jobCompl j result tag s2)))

/-- An END or PREEMPT takes effect (R288): a preempted job keeps its number and its streams. -/
def finishEnd (j : SlotId) (e : EndReq) (s : State) : State :=
  if e.preempt then
    let s1 := jobCompl j Res.preempted e.tag (returnFreed j (stopJob j s))
    let s2 := s1.modJob j (fun b => { b with st := .preempted, endReq := none, ending := none, next := b.step + 1 })
    fillHeld (applyLoose (noteClaims (releaseRooms j s2)))
  else leaveSlot j Res.ended e.tag s

/-- What follows the end of a step: the end of the job, or its next step (R25, R288). -/
def afterStep (j : SlotId) (s : State) : State :=
  let b := s.job j
  match b.endReq with
  | some e =>
    if b.step < e.step then proceed j (s.modJob j (fun b => { b with step := b.step + 1 }))
    else if b.desc.ckpt then
      let s1 := if b.ckpts.any (fun c => c.step == b.step) then s else beginCkpt j s
      s1.modJob j (fun b => { b with ending := some e })
    else finishEnd j e s
  | none => proceed j (s.modJob j (fun b => { b with step := b.step + 1 }))

/-- The channel that is a job's step barrier. -/
def stepChan (b : Job) : Option ChanId := b.chans[b.desc.stepCh]?

/-- The running job whose step barrier a channel is. -/
def stepJob (s : State) (ch : ChanId) : Option SlotId :=
  match (s.bar ch).slot with
  | some j => if (s.job j).st == .running && stepChan (s.job j) == some ch then some j else none
  | none => none

/-- A channel begins a job's run: its written mask is in force and no member has arrived (R206, R209). The step barrier's
release starts the step (R257). -/
def startChan (ch : ChanId) (release : Bool) (s : State) : State :=
  let e := if release then !(s.bar ch).e else (s.bar ch).e
  let mask := writtenMembers s ch
  let s1 := s.modBar ch (fun b => { b with e := e, members := mask, porch := !e, arrived := false })
  let s2 := (List.finRange 32).foldl (fun s (r : RoomId) =>
    if mask.getLsbD r.val then s.modRoom r (fun m => { m with sense := m.sense.set ch (!e), awaiting := m.awaiting.set ch false }) else s) s1
  if release then s2.setReg (Reg.landBarnEpoch + 0x20 * ch.val) (s2.reg (Reg.landBarnEpoch + 0x20 * ch.val) + 1) else s2

/-- A job's first step, or its first replayed one, starts (R257, R293 stage 6). -/
def startJob (j : SlotId) (step : Nat) (s : State) : State :=
  let s1 := s.modJob j (fun b => { b with st := .running, step := step, inStep := false, noRoom := false })
  let s2 := (s1.job j).chans.foldl (fun s ch => startChan ch (stepChan (s.job j) == some ch) s) s1
  proceed j s2

end Sys2Proof.Machine
end

