-- ==== Sys2Proof/Machine/Flash.lean ====
section
/-! DEFINITION. The serial NOR (13_cellar.md, R311-R315, R319): addresses of sectors and words, the parity of a word, the
states in which a word reads, and what a program and an erase do. -/

namespace Sys2Proof.Machine

/-- Bytes of a sector (R311). -/
def sectorBytes : Nat := 4096
/-- Data words of a sector (R311). -/
def sectorWords : Nat := 112
/-- Flash address of data word w of a sector (R311). -/
def wordAt (sec w : Nat) : Nat := sectorBytes * sec + 0x40 + 32 * w
/-- Flash address of its parity (R311). -/
def parityAt (sec w : Nat) : Nat := sectorBytes * sec + 0xE40 + 4 * w
/-- First sectors of a boot slot, a calibration copy and the Keepsake pool (R319). -/
def slotBase (slot : Nat) : Nat := 2 + 1024 * slot
def calBase (copy : Nat) : Nat := 2050 + 64 * copy
def poolBase : Nat := 2178

/-- One byte of the part. -/
def flashByte (m : Memory) (a : Nat) : Byte := sget flashEmpty m a
/-- n bytes of the part. -/
def flashBytes (m : Memory) (a n : Nat) : List Byte := (List.range n).map (fun i => flashByte m (a + i))

/-- A program clears bits and sets none (R309). -/
def flashProgram (m : Memory) : Nat → List Byte → Memory
  | _, [] => m
  | a, b :: t => flashProgram (sset flashEmpty m a (flashByte m a &&& b)) (a + 1) t

/-- An erase sets a sector's bits. -/
def flashErase (m : Memory) (sec : Nat) : Memory := m.filter (fun c => c.1 / sectorBytes != sec)

/-- A program that failed or was cut: some of the bits that it would clear are not, by the mask (R331). -/
def flashTorn (m : Memory) (mask a : Nat) (bs : List Byte) : Memory :=
  flashProgram m a (bs.zipIdx.map (fun b => b.1 ||| BitVec.ofNat 8 (bitsOf mask (8 * b.2) 8)))

/-- An erase that failed or was cut: some of the bits that it would set are not (R331). -/
def flashHalfErase (m : Memory) (mask sec : Nat) : Memory :=
  let a := sectorBytes * sec
  (List.range sectorBytes).foldl (fun m i =>
    sset flashEmpty m (a + i) (flashByte m (a + i) ||| ~~~(BitVec.ofNat 8 (bitsOf mask (8 * i) 8)))) m

/-! ## The code of a word -/

/-- Generator of the BCH code of R312: the minimal polynomials of α and α³ over x⁹ + x⁴ + 1. -/
def bchGen : Nat := 0x495C9

/-- The remainder of the polynomial in the low n bits of v, highest bit first, by the generator. -/
def bchRem (v : Nat) : Nat → Nat → Nat
  | 0, r => r
  | n + 1, r =>
    let x := 2 * r + bitsOf v n 1
    bchRem v n (if 2 ^ 18 ≤ x then x ^^^ bchGen else x)

/-- CRC-13 over a list of bytes, most significant bit first, initial value all ones (R312, log entry 51). -/
def crc13 (bs : List Byte) : Nat :=
  bs.foldl (fun c b => (List.range 8).foldl (fun c i =>
    let top := (c / 2 ^ 12 % 2 + bitsOf b.toNat (7 - i) 1) % 2
    let x := 2 * c % 2 ^ 13
    if top = 1 then x ^^^ 0x1CF5 else x) c) 0x1FFF

/-- The CRC of a word: its data, then its flash address (R312). -/
def wordCrc (addr : Nat) (data : List Byte) : Nat := crc13 (data ++ bytesOfNat 4 addr)

/-- The BCH code of a word's data and CRC (R312, log entry 51). -/
def wordCode (data : List Byte) (crc : Nat) : Nat :=
  let n := 8 * data.length
  bchRem ((natOfBytes data + crc * 2 ^ n) * 2 ^ 18) (n + 31) 0

/-- The parity of a word (R312): BCH in [31:14], CRC in [13:1], the programmed flag 0. -/
def wordParity (addr : Nat) (data : List Byte) : List Byte :=
  let crc := wordCrc addr data
  bytesOfNat 4 (wordCode data crc * 2 ^ 14 + crc * 2)

/-- The remainders of single bit errors, by position. -/
def bchErrors : Nat → Nat → List Nat
  | 0, _ => []
  | n + 1, x => x :: bchErrors n (if 2 ^ 18 ≤ 2 * x then (2 * x) ^^^ bchGen else 2 * x)

/-- The positions of at most two errors that explain a remainder (R312). -/
def bchLocate (syn n : Nat) : Option (List Nat) :=
  if syn = 0 then some []
  else
    let es := bchErrors n 1
    match es.findIdx? (· == syn) with
    | some i => some [i]
    | none =>
      es.zipIdx.findSome? (fun e => (es.findIdx? (· == (e.1 ^^^ syn))).map (fun j => [e.2, j]))

/-- Decodes a word: its data and how many bits were corrected, when it decodes (R312). -/
def wordDecode (addr : Nat) (data : List Byte) (parity : Nat) : Option (List Byte × Nat) :=
  let n := 8 * data.length
  let cw := (natOfBytes data + bitsOf parity 1 13 * 2 ^ n) * 2 ^ 18 + bitsOf parity 14 18
  match bchLocate (bchRem cw (n + 31) 0) (n + 31) with
  | none => none
  | some es =>
    let info := (es.foldl (fun v i => v ^^^ 2 ^ i) cw) / 2 ^ 18
    let d := bytesOfNat data.length info
    if wordCrc addr d = bitsOf info n 13 then some (d, es.length) else none

/-- The states in which a word reads (R313). -/
inductive WordRead where
  | erased
  | good (data : List Byte) (fixed : Nat)
  | torn
  | failed
  deriving DecidableEq, Repr

/-- Zero bits of a list of bytes. -/
def zeroBits (bs : List Byte) : Nat :=
  (bs.map (fun b => ((List.range 8).filter (fun i => !bitAt b.toNat i)).length)).foldl (· + ·) 0

/-- How the bytes of a word read, without retries (R313). -/
def wordRead (addr : Nat) (data parity : List Byte) : WordRead :=
  let p := natOfBytes parity
  if zeroBits data + zeroBits parity ≤ 2 then .erased
  else
    match wordDecode addr data p with
    | some (d, n) => .good d n
    | none => if bitAt p 0 && decide (2 < zeroBits data) then .torn else .failed

/-- How a data word reads, without retries. -/
def dataRead (m : Memory) (sec w : Nat) : WordRead :=
  wordRead (wordAt sec w) (flashBytes m (wordAt sec w) 32) (flashBytes m (parityAt sec w) 4)

/-- How header word h of a sector reads, without retries (R311). -/
def headRead (m : Memory) (sec h : Nat) : WordRead :=
  let a := sectorBytes * sec + 32 * h
  wordRead a (flashBytes m a 28) (flashBytes m (a + 28) 4)

/-- Whether a data word reads exactly all ones, parity and all: only such a word is programmed (R313). -/
def wordBlank (m : Memory) (sec w : Nat) : Bool :=
  zeroBits (flashBytes m (wordAt sec w) 32) + zeroBits (flashBytes m (parityAt sec w) 4) == 0

/-- A word of a sector, the header words as words 112 and 113: its flash address, its bytes, and those of its parity (R311). -/
def wordParts (m : Memory) (sec w : Nat) : Nat × List Byte × List Byte :=
  if w < sectorWords then (wordAt sec w, flashBytes m (wordAt sec w) 32, flashBytes m (parityAt sec w) 4)
  else let a := sectorBytes * sec + 32 * (w - sectorWords)
       (a, flashBytes m a 28, flashBytes m (a + 28) 4)

/-- How such a word reads, without retries. -/
def placeRead (m : Memory) (sec w : Nat) : WordRead := let p := wordParts m sec w; wordRead p.1 p.2.1 p.2.2

/-- Whether such a word reads exactly all ones (R313). -/
def placeBlank (m : Memory) (sec w : Nat) : Bool := let p := wordParts m sec w; zeroBits p.2.1 + zeroBits p.2.2 == 0

/-- The data of a good word. -/
def WordRead.data? : WordRead → Option (List Byte)
  | .good d _ => some d
  | _ => none

/-- A field of a word's bytes. -/
def fieldOf (d : List Byte) (off n : Nat) : Nat := natOfBytes ((d.drop off).take n)

/-! ## Header words -/

/-- Header word 0 with its parity (R315). -/
def healthRecord (sec count us worst : Nat) (watch : Bool) (skips : Nat) : List Byte :=
  let d := bytesOfNat 4 0x43455343 ++ bytesOfNat 4 count ++ bytesOfNat 4 sec ++ bytesOfNat 4 us ++ bytesOfNat 1 worst ++
    bytesOfNat 1 (b2n watch) ++ bytesOfNat 2 (min 0xFFFF skips) ++ bytesOfNat 2 1 ++ bytesOfNat 6 0
  d ++ wordParity (sectorBytes * sec) d

/-- Header word 1 with its parity (R315). -/
def useRecord (sec role index seq : Nat) : List Byte :=
  let d := bytesOfNat 1 role ++ bytesOfNat 1 index ++ bytesOfNat 2 0 ++ bytesOfNat 8 seq ++ bytesOfNat 16 0
  d ++ wordParity (sectorBytes * sec + 32) d

/-- A good header word 0 with its magic is a health record. -/
def WordRead.health : WordRead → Option (List Byte)
  | .good d _ => if fieldOf d 0 4 = 0x43455343 then some d else none
  | _ => none

/-- Role and index of a good header word 1. -/
def WordRead.use (x : WordRead) : Option (Nat × Nat) := x.data?.map (fun d => (fieldOf d 0 1, fieldOf d 1 1))

/-- The health record of a sector, when it decodes with its magic. -/
def healthOf (m : Memory) (sec : Nat) : Option (List Byte) := (headRead m sec 0).health

/-- Erase count of a sector, when its health record decodes (R315). -/
def eraseCount (m : Memory) (sec : Nat) : Option Nat := (healthOf m sec).map (fun d => fieldOf d 4 4)

/-- Role and index of a sector in use (R315). -/
def useOf (m : Memory) (sec : Nat) : Option (Nat × Nat) := (headRead m sec 1).use

/-- Sequence of a sector in use (R315). -/
def useSeq (m : Memory) (sec : Nat) : Option Nat := (headRead m sec 1).data?.map (fun d => fieldOf d 4 8)

/-- Sectors that have a byte other than 0xFF, in order: every other one reads as erased. -/
def listedSectors (m : Memory) : List Nat :=
  (m.foldl (fun acc c => let i := c.1 / sectorBytes; if acc.head? = some i then acc else i :: acc) []).reverse

/-- One more than any sequence in any sector (R315). -/
def nextUseSeq (m : Memory) : Nat := ((listedSectors m).filterMap (useSeq m)).foldl max 0 + 1

/-! ## Images -/

/-- Data word i of an image that starts at a sector. -/
def imageWord (m : Memory) (base i : Nat) : Option (List Byte) := (dataRead m (base + i / sectorWords) (i % sectorWords)).data?

/-- The payload length that the header of an image gives, when it is sound (R320, R323). -/
def imageLen (sectors magic : Nat) (h : List Byte) : Option Nat :=
  let len := fieldOf h 8 4
  if fieldOf h 0 4 = magic ∧ fieldOf h 4 2 = 1 ∧ len ≤ sectors * sectorWords * 32 - 32 then some len else none

/-- The payload of a boot slot or calibration copy that passes its check (R320, R323): every sector's records, a sound header,
every word, and the CRC. -/
def slotPayload (m : Memory) (base sectors role index magic : Nat) : Option (List Byte) :=
  let headers := (List.range sectors).all (fun i => (healthOf m (base + i)).isSome && useOf m (base + i) == some (role, index))
  match imageWord m base 0 with
  | none => none
  | some h =>
    let len := fieldOf h 8 4
    if headers && fieldOf h 0 4 == magic && fieldOf h 4 2 == 1 && decide (len ≤ sectors * sectorWords * 32 - 32) then
      match (List.range (ceilDiv len 32)).mapM (fun i => imageWord m base (i + 1)) with
      | none => none
      | some ws =>
        let bs := ws.flatten.take len
        if crc32c bs = fieldOf h 0xC 4 then some bs else none
    else none

/-- A boot slot passes its check (R320). -/
def slotOk (m : Memory) (slot : Nat) : Bool := (slotPayload m (slotBase slot) 1024 2 slot 0x43554D45).isSome

/-- The payload of a calibration copy that passes its check (R323). -/
def calPayload (m : Memory) (copy : Nat) : Option (List Byte) := slotPayload m (calBase copy) 64 3 copy 0x424C4143

/-- A valid pointer record: sequence and slot (R321). -/
def pointerOf (d : List Byte) : Option (Nat × Nat) :=
  if fieldOf d 0 4 = 0x52545042 ∧ crc32c (d.take 0x1C) = fieldOf d 0x1C 4 then some (fieldOf d 4 4, fieldOf d 8 1) else none

/-- A pointer record (R321). -/
def pointerRecord (seq slot : Nat) : List Byte :=
  let d := bytesOfNat 4 0x52545042 ++ bytesOfNat 4 seq ++ bytesOfNat 1 slot ++ bytesOfNat 19 0
  d ++ bytesOfNat 4 (crc32c d)

/-- The places of the data words of the pointer sectors. -/
def pointerPlaces : List (Nat × Nat) := [0, 1].flatMap (fun sec => (List.range sectorWords).map (fun w => (sec, w)))

/-- The valid record with the highest sequence among words that have been read, as sector, sequence and slot (R321). -/
def bestPointer (l : List ((Nat × Nat) × WordRead)) : Option (Nat × Nat × Nat) :=
  (l.filterMap (fun x => x.2.data?.bind (fun d => (pointerOf d).map (fun p => (x.1.1, p.1, p.2))))).foldl (fun best p => match best with
    | none => some p
    | some b => if b.2.1 < p.2.1 then some p else some b) none

/-- The boot pointer: the valid record with the highest sequence, as sector, sequence and slot (R321). -/
def bootPointer (m : Memory) : Option (Nat × Nat × Nat) := bestPointer (pointerPlaces.map (fun p => (p, dataRead m p.1 p.2)))

/-- The slot that a boot pointer names: A when no record is valid (R321). -/
def slotNamed (p : Option (Nat × Nat × Nat)) : Nat := match p with | some p => p.2.2 % 2 | none => 0

/-- The slot that the boot pointer names. -/
def namedSlot (m : Memory) : Nat := slotNamed (bootPointer m)

end Sys2Proof.Machine
end

