-- ==== Sys2Proof/Machine/Cellar.lean ====
section
/-! DEFINITION. The Cellar's work (13_cellar.md, R309-R334): reads with retries, the journal, the engine that issues erases and
programs one after another, parking, the commands of R324, mount, reclaim, retention and patrol, and what start-up loads. -/

namespace Sys2Proof.Machine

/-- Changes the Cellar's state. -/
def State.modCel (s : State) (f : Cellar → Cellar) : State := { s with cel := f s.cel }

/-- A CEL_EVENT bit is set, and source 20 raised (R302). -/
def celEvent (bit : Nat) (s : State) : State := raiseSource 20 (s.orReg Reg.celEvent (2 ^ bit))

/-- Whether the Keepsake is mounted (R329). -/
def State.mounted (s : State) : Bool := s.fld Reg.celStatus 1 1 == 1

/-- Sectors in use (R309, R319). -/
def State.sectors (s : State) : Nat := s.fld Reg.celPart 0 17

/-- The sector that the part is erasing. -/
def State.erasing (s : State) : Option Nat :=
  match s.cel.issued, s.cel.steps with
  | true, .erase sec _ :: _ => some sec
  | _, _ => none

/-- A read of a sector: an erase of another is suspended, and of the same one resumes (R318). -/
def noteRead (sec : Nat) (s : State) : State :=
  match s.erasing with
  | some e => s.modCel (fun c => { c with suspended := e != sec })
  | none => s

/-- The bytes of a sector as a read gives them: the one being erased reads 0xFF (R318). -/
def State.visibleFlash (s : State) : Memory :=
  match s.erasing with
  | some e => flashErase s.cel.flash e
  | none => s.cel.flash

/-! ## Health -/

/-- What a sector has shown since its last erase (R315). -/
def State.statOf (s : State) (sec : Nat) : SecStat := (s.cel.stats.find? (fun x => x.sector == sec)).getD { sector := sec }

/-- Notes something of a sector. -/
def noteStat (sec : Nat) (f : SecStat → SecStat) (s : State) : State :=
  s.modCel (fun c => { c with stats := c.stats.filter (fun x => x.sector != sec) ++ [f (s.statOf sec)] })

/-- A word has been read: two corrected bits put its sector on WATCH (R315, R333). -/
def noteWorst (sec worst : Nat) (s : State) : State :=
  let s1 := if (s.statOf sec).worst < worst then noteStat sec (fun x => { x with worst := worst }) s else s
  if 2 ≤ worst ∧ ¬ s1.cel.watch.contains sec then s1.modCel (fun c => { c with watch := c.watch ++ [sec] }) else s1

/-- A word has been skipped or rewritten (R313-R315). -/
def noteSkip (sec : Nat) (s : State) : State := noteStat sec (fun x => { x with skips := x.skips + 1 }) s

/-- Whether a sector is retired (R333). -/
def State.isRetired (s : State) (sec : Nat) : Bool := s.cel.recs.any (fun r => r.type == 0x15 && r.id == sec)

/-- A sector wears out: its live records are copied forward and a retire record written, in the pool only and while mounted
(R333, R334). -/
def retireSector (sec reason : Nat) (s : State) : State :=
  let named (t : CelTask) : Bool := match t with | .retire x _ => x == sec | _ => false
  if sec < poolBase ∨ !s.mounted ∨ s.isRetired sec ∨ s.cel.todo.any named then s
  else
    let live := (s.cel.recs.filter (fun r => r.places.any (fun p => p.1 == sec))).map CelRec.seq
    s.modCel (fun c =>
      { c with todo := c.todo ++ live.map CelTask.copy ++ [.retire sec reason],
               jpos := match c.jpos with | some p => if p.1 = sec then none else some p | none => none })

/-! ## Reads with retries -/

/-- A fault of the Cellar belongs to no job: its record is written and nothing stops (R292, R317). -/
def celFault (sec word : Nat) (s : State) : State :=
  writeFault { code := .cellarUncorrectable, source := 0x24, room := none, slot := none, ledger := 0xFFFF, pc := 0xFFFFFFFF,
               capture := [sec, word, sec] } s

/-- The margin entries in the order of R316: +1, −1, +2, −2, +3, −3, +4, −4. -/
def marginOrder : List Nat := [0, 4, 1, 5, 2, 6, 3, 7]

/-- A failed word is read again at each valid margin until it decodes (R316); which bits differ there is free. -/
def marginRetry (sec w : Nat) : List Nat → State → Option (List Byte) × State
  | [], s => (none, s)
  | k :: t, s =>
    if s.fld (Reg.celMargini + 4 * k) 31 1 = 0 then marginRetry sec w t s
    else
      let (a, d, p) := wordParts s.cel.flash sec w
      let flips := Config.marginBits a k s.free
      let s1 := { s with free := s.free + 1 }
      let flip (off : Nat) (bs : List Byte) : List Byte := bs.zipIdx.map (fun b => b.1 ^^^ BitVec.ofNat 8 (bitsOf flips (8 * (off + b.2)) 8))
      match wordRead a (flip 0 d) (flip 32 p) with
      | .good d _ => (some d, s1)
      | _ => marginRetry sec w t s1

/-- A word in normal reading, a header word as word 112 or 113 of its sector (R313, R315-R317). One that a retry recovers retires its
sector, whose live records are rewritten (R317, R333). -/
def readWord (sec w : Nat) (s : State) : WordRead × State :=
  let s0 := noteRead sec s
  match placeRead s0.visibleFlash sec w with
  | .good d n => (.good d n, noteWorst sec n s0)
  | .failed =>
    let (r, s1) := marginRetry sec w marginOrder s0
    match r with
    | some d =>
      let s2 := (celEvent 0 (s1.satFld Reg.celRetries 0 32 1))
      (.good d 3, retireSector sec 1 (noteWorst sec 3 s2))
    | none => (.failed, celFault sec w (celEvent 1 (noteWorst sec 4 s1)))
  | x => (x, s0)

/-- The words at a list of places. -/
def readPlaces : List (Nat × Nat) → State → List WordRead × State
  | [], s => ([], s)
  | p :: t, s =>
    let (x, s1) := readWord p.1 p.2 s
    let (xs, s2) := readPlaces t s1
    (x :: xs, s2)

/-- The data of words that are all good. -/
def allGood (l : List WordRead) : Option (List (List Byte)) := l.mapM WordRead.data?

/-- The boot pointer, read word by word (R321). -/
def readPointer (s : State) : Option (Nat × Nat × Nat) × State :=
  let (ws, s1) := readPlaces pointerPlaces s
  (bestPointer (pointerPlaces.zip ws), s1)

/-- The places of the header words of sectors from one on. -/
def headerPlaces (base n : Nat) : List (Nat × Nat) := (List.range n).flatMap (fun i => [(base + i, sectorWords), (base + i, sectorWords + 1)])

/-- Whether header words that have been read are health records and use records of a role and an index, pair by pair (R320). -/
def headersGood (role index : Nat) : List WordRead → Bool
  | h :: u :: t => h.health.isSome && u.use == some (role, index) && headersGood role index t
  | _ => true

/-- The check of a boot slot or calibration copy (R320, R323): its header, then the sectors' records, then every word of the payload. -/
def checkImage (base sectors role index magic : Nat) (s : State) : Bool × State :=
  let (x, s1) := readWord base 0 s
  match x.data?.bind (fun h => (imageLen sectors magic h).map (fun n => (h, n))) with
  | none => (false, s1)
  | some (h, len) =>
    let (hs, s2) := readPlaces (headerPlaces base sectors) s1
    if headersGood role index hs then
      let (ws, s3) := readPlaces ((List.range (ceilDiv len 32)).map (fun i => (base + (i + 1) / sectorWords, (i + 1) % sectorWords))) s2
      ((match allGood ws with | some ds => crc32c (ds.flatten.take len) == fieldOf h 0xC 4 | none => false), s3)
    else (false, s2)

/-- The check of a boot slot (R320). -/
def checkSlot (slot : Nat) (s : State) : Bool × State := checkImage (slotBase slot) 1024 2 slot 0x43554D45 s

/-- The check of a calibration copy (R323). -/
def checkCal (copy : Nat) (s : State) : Bool × State := checkImage (calBase copy) 64 3 copy 0x424C4143 s

/-! ## The pool -/

/-- Pool sectors that are erased, formatted with a health record, not in use, and with a header word 1 that can be programmed (R313,
R325, R330). -/
def freeSectors (s : State) : List Nat :=
  let pending (sec : Nat) : Bool := s.cel.steps.any (fun x => match x with | .erase y _ => y == sec | .use y _ _ => y == sec | _ => false)
  (listedSectors s.cel.flash).filter (fun sec =>
    decide (poolBase ≤ sec ∧ sec < s.sectors) && (healthOf s.cel.flash sec).isSome && placeBlank s.cel.flash sec (sectorWords + 1) &&
      !s.isRetired sec && !pending sec && (match s.cel.jpos with | some p => p.1 != sec | none => true))

/-- The next journal sector: of the GOOD ones, else of the others, the lowest erase count, then the lowest number (R325,
R333). -/
def chooseSector (s : State) : Option Nat :=
  let count (sec : Nat) : Nat := (eraseCount s.cel.flash sec).getD 0
  let best (l : List Nat) : Option Nat := l.foldl (fun b x => match b with
    | none => some x
    | some y => if count x < count y then some x else some y) none
  let free := freeSectors s
  match best (free.filter (fun x => !s.cel.watch.contains x)) with
  | some x => some x
  | none => best free

/-- Pool sectors whose header word 1 reads erased with zero bits are skipped, once each (R313). -/
def skipSpoilt (s : State) : State :=
  ((listedSectors s.cel.flash).filter (fun sec => decide (poolBase ≤ sec ∧ sec < s.sectors) && (healthOf s.cel.flash sec).isSome &&
    headRead s.cel.flash sec 1 == .erased && !placeBlank s.cel.flash sec (sectorWords + 1) && (s.statOf sec).skips == 0)).foldl (fun s sec => noteSkip sec s) s

/-- CEL_HEALTH_CFG.reserve (R330). -/
def State.reserve (s : State) : Nat := s.fld Reg.celHealthCfg 8 8

/-- Words left in the journal sector being filled. -/
def State.wordsLeft (s : State) : Nat := match s.cel.jpos with | some p => sectorWords - p.2 | none => 0

/-- Whether so many words can be appended and leave the reserve (R330). -/
def roomFor (s : State) (words : Nat) : Bool :=
  decide (ceilDiv (words - s.wordsLeft) sectorWords + s.reserve ≤ (freeSectors s).length)

/-- Rewrites the status and occupancy registers (R318, R329). -/
def noteCel (s : State) : State :=
  let er := s.erasing.isSome
  let s1 := ((s.setFld Reg.celStatus 2 1 (b2n s.cel.active.isSome)).setFld Reg.celStatus 3 1 (b2n er)).setFld Reg.celStatus 4 1
    (b2n (er && s.cel.suspended))
  if s1.mounted then
    let counts := ((listedSectors s1.cel.flash).filter (fun sec => decide (poolBase ≤ sec) && !s1.isRetired sec)).filterMap (eraseCount s1.cel.flash)
    let anchors := (s1.cel.recs.filter (fun r => r.type == 0x12)).length
    (((s1.setFld Reg.celKs 0 17 (freeSectors s1).length).setFld Reg.celKs 17 13 anchors).setReg Reg.celWear
      (BitVec.ofNat 32 (counts.foldl min (counts.headD 0)))).setReg (Reg.celWear + 4) (BitVec.ofNat 32 (counts.foldl max 0))
  else s1

/-! ## Journal words -/

/-- A start or commit word (R325). -/
def anchorWord (type : Nat) (r : CelRec) (time : Nat) : List Byte :=
  bytesOfNat 1 type ++ bytesOfNat 1 0 ++ bytesOfNat 2 r.index ++ bytesOfNat 4 r.words ++ bytesOfNat 8 r.id ++ bytesOfNat 8 r.seq ++
    bytesOfNat 4 r.crc ++ bytesOfNat 4 time

/-- A tombstone (R325). -/
def tombWord (id seq : Nat) : List Byte := bytesOfNat 8 0x13 ++ bytesOfNat 8 id ++ bytesOfNat 8 seq ++ bytesOfNat 8 0

/-- An erase intent or a retire record (R325). -/
def sectorWord (r : CelRec) : List Byte :=
  bytesOfNat 4 r.type ++ bytesOfNat 4 r.id ++ bytesOfNat 8 r.arg ++ bytesOfNat 8 r.seq ++ bytesOfNat 8 0

/-- CEL_WALLCLOCK. -/
def State.clock (s : State) : Nat := (s.reg Reg.celWallclock).toNat

/-- Takes the next record sequence. -/
def takeSeq (s : State) : Nat × State := (s.cel.nextSeq, s.modCel (fun c => { c with nextSeq := c.nextSeq + 1 }))

/-- The steps that append an anchor of data words, committed at the present time (R325). -/
def anchorSteps (id index len : Nat) (data : List (List Byte)) (s : State) : List CelStep × State :=
  let (seq, s1) := takeSeq s
  let r : CelRec := { type := 0x12, id := id, seq := seq, index := index, words := data.length, crc := crc32c data.flatten,
                      time := s.clock, arg := len }
  (.word (anchorWord 0x11 r 0) :: (data.map CelStep.word ++ [.word (anchorWord 0x12 r s.clock), .commit r]), s1)

/-- The steps that append a record of one word. -/
def sectorSteps (type id arg : Nat) (s : State) : List CelStep × State :=
  let (seq, s1) := takeSeq s
  let r : CelRec := { type := type, id := id, seq := seq, arg := arg }
  ([.word (sectorWord r), .commit r], s1)

/-! ## Answers -/

/-- Threshold answers a context's command (R231). -/
def thrAnswer (c : Ctx) (result index : Nat) (s : State) : State :=
  let k := ctxKey c Reg.thrCmdStatus
  (s.setReg k (BitVec.ofNat 32 (1 + 2 * result + 32 * (index % 4096)))).modThr (fun t => { t with cmds := t.cmds.set c none })

/-- The work under way answers, and is done. -/
def celAnswer (result : Nat) (s : State) : State :=
  let s1 := s.modCel (fun c => { c with active := none })
  match s.cel.active with
  | some (.park c i) => thrAnswer c result i s1
  | some (.unpark c i) => thrAnswer c result i s1
  | some _ => s1.setReg Reg.celCmdStatus (BitVec.ofNat 32 (1 + 2 * result))
  | none => s1

/-- The result of work that the journal has no room for (R324, R328). -/
def fullResult : Option CelTask → Nat
  | some (.park _ _) => 9
  | some (.unpark _ _) => 9
  | _ => 6

/-! ## The engine -/

/-- Puts steps before those that wait. -/
def pushSteps (l : List CelStep) (s : State) : State := s.modCel (fun c => { c with steps := l ++ c.steps })

/-- An UNPARK that ends without its tombstones leaves the streams in their state (R328). -/
def stayParked (s : State) : State :=
  s.cel.unparking.foldl (fun s x =>
    if s.led x.1 Led.state = Led.IDLE then noteStreams ((s.setLed x.1 Led.state Led.PARKED).setLed x.1 Led.anchor x.2) else s) s

/-- The work under way ends early: its steps are gone, and a command answers. A record that is not committed ends its journal sector
(log entry 52). -/
def celStop (result : Nat) (s : State) : State :=
  celAnswer result ((stayParked s).modCel (fun c =>
    { c with steps := [], jpos := if c.written.isEmpty then c.jpos else none, written := [], unparking := [] }))

/-- A journal sector is opened for a word; without one the work ends (R325). -/
def openSector (b : List Byte) (s0 : State) : State :=
  let s := skipSpoilt s0
  match chooseSector s with
  | none => celStop (fullResult s.cel.active) s
  | some sec =>
    let s1 := pushSteps [.use sec 4 0, .word b] (s.modCel (fun c => { c with jpos := some (sec, 0) }))
    if (freeSectors s1).length ≤ s1.reserve then celEvent 3 s1 else s1

/-- A word is appended at the next blank word: one with zero bits is skipped (R313, R314). -/
def appendWord (b : List Byte) (s : State) : State :=
  match s.cel.jpos with
  | none => openSector b s
  | some (sec, w) =>
    if sectorWords ≤ w then openSector b s
    else
      let s1 := s.modCel (fun c => { c with jpos := some (sec, w + 1) })
      if wordBlank s.cel.flash sec w then
        pushSteps [.prog (wordAt sec w) b, .prog (parityAt sec w) (wordParity (wordAt sec w) b), .verify sec w b] s1
      else pushSteps [.word b] (noteSkip sec s1)

/-- The journal leaves a sector. -/
def leaveSector (sec : Nat) (s : State) : State :=
  s.modCel (fun c => { c with jpos := match c.jpos with | some p => if p.1 = sec then none else some p | none => none })

/-- Whether a program's read-back is good: the word is Good with at most one bit corrected, and the part has reported no failure (R314,
R333). A bad one counts against the sector, and the second one in it retires it. -/
def readBack (sec w : Nat) (ok : List Byte → Bool) (s : State) : Bool × State :=
  let bad := s.cel.failed
  let s1 := s.modCel (fun c => { c with failed := false })
  let (good, worst) := match placeRead s.cel.flash sec w with | .good d n => (ok d && decide (n ≤ 1), n) | _ => (false, 4)
  let s2 := noteWorst sec worst s1
  if good && !bad then (true, s2)
  else
    let s3 := noteStat sec (fun x => { x with skips := x.skips + 1, fails := x.fails + 1 }) s2
    (false, if bad || decide (2 ≤ (s3.statOf sec).fails) then retireSector sec 3 s3 else s3)

/-- The read-back of a journal word: a bad one is written again in the next free word (R314, R333). -/
def verifyWord (sec w : Nat) (b : List Byte) (s : State) : State :=
  match readBack sec w (· == b) s with
  | (true, s1) => s1.modCel (fun c => { c with written := c.written ++ [(sec, w)] })
  | (false, s1) => pushSteps [.word b] s1

/-- The read-back of a word that has one place (R314): a journal sector with a bad header word is left (log entry 100). -/
def backWord (sec w : Nat) (s : State) : State :=
  match readBack sec w (fun _ => true) s with
  | (true, s1) => s1
  | (false, s1) => if sectorWords ≤ w then leaveSector sec s1 else s1

/-- A record commits: it replaces the older one of its anchor or sector (R326, R330). -/
def commitRec (r : CelRec) (s : State) : State :=
  let s1 := s.modCel (fun c =>
    { c with recs := c.recs.filter (fun x => !(x.type == r.type && x.id == r.id)) ++ [{ r with places := c.written }], written := [] })
  if r.type = 0x15 then celEvent 2 s1 else s1

/-- A new pointer record (R322): its sequence is one more than the current one's, and it goes to the current one's sector. -/
def pointSteps (slot : Nat) (cur : Option (Nat × Nat × Nat)) (s : State) : List CelStep :=
  match cur with
  | none => [.erase 0 ((eraseCount s.cel.flash 0).getD 0 + 1), .use 0 1 0, .pointer 0 (pointerRecord 1 slot)]
  | some (sec, seq, _) => [.pointer sec (pointerRecord (seq + 1) slot)]

/-- A pointer record goes to the next erased word of a sector; without such a word, the other pointer sector is erased and formatted
first (R322). -/
def pointerSteps (sec : Nat) (b : List Byte) (s : State) : List CelStep :=
  match (List.range sectorWords).find? (wordBlank s.cel.flash sec) with
  | some w => [.prog (wordAt sec w) b, .prog (parityAt sec w) (wordParity (wordAt sec w) b), .pointed sec w b]
  | none => [.erase (1 - sec) ((eraseCount s.cel.flash (1 - sec)).getD 0 + 1), .use (1 - sec) 1 (1 - sec), .pointer (1 - sec) b]

/-- Words of a pointer sector before its next blank word that read erased with zero bits: each is skipped (R313). -/
def skipPointers (sec : Nat) (s : State) : State :=
  ((List.range sectorWords).takeWhile (fun w => !wordBlank s.cel.flash sec w)).foldl (fun s w =>
    if dataRead s.cel.flash sec w = .erased then noteSkip sec s else s) s

/-- Does a step that needs no erase or program of its own, once it is taken off the list. -/
def celStep (x : CelStep) (s : State) : State :=
  match x with
  | .erase _ _ => s
  | .prog _ _ => s
  | .use sec role index =>
    if placeBlank s.cel.flash sec (sectorWords + 1) then
      pushSteps [.prog (sectorBytes * sec + 32) (useRecord sec role index (nextUseSeq s.cel.flash)), .readBack sec (sectorWords + 1)] s
    else noteSkip sec s
  | .fixed sec w b =>
    if wordBlank s.cel.flash sec w then
      pushSteps [.prog (wordAt sec w) b, .prog (parityAt sec w) (wordParity (wordAt sec w) b), .readBack sec w] s
    else noteSkip sec s
  | .word b => appendWord b s
  | .verify sec w b => verifyWord sec w b s
  | .readBack sec w => backWord sec w s
  | .commit r => commitRec r s
  | .tomb id => s.modCel (fun c => { c with recs := c.recs.filter (fun r => !(r.type == 0x12 && r.id == id)), written := [],
                                            unparking := c.unparking.filter (fun x => x.2 != id) })
  | .parked i id =>
    if (s.unit i).all (fun x => s.led x Led.state == Led.IDLE || s.led x Led.state == Led.PARKED) then
      noteStreams ((s.setLed i Led.state Led.PARKED).setLed i Led.anchor id)
    else celStop 6 s
  | .erased sec => if (healthOf s.cel.flash sec).isSome then s.modCel (fun c =>
      { c with recs := c.recs.filter (fun r => !(r.type == 0x14 && r.id == sec)) }) else s
  | .check cal ix =>
    let (ok, s1) := if cal then checkCal ix s else checkSlot ix s
    if ok then s1 else celStop 4 s1
  | .point slot => let (cur, s1) := readPointer s
                   pushSteps (pointSteps slot cur s1) s1
  | .pointer sec b => pushSteps (pointerSteps sec b s) (skipPointers sec s)
  | .pointed sec w b =>
    match readBack sec w (· == b) s with
    | (true, s1) => s1
    | (false, s1) => pushSteps [.pointer sec b] s1
  | .answer res => celAnswer res s

/-! ## Parking -/

/-- The live anchor of an identifier (R326). -/
def liveAnchor (s : State) (id : Nat) : Option CelRec := s.cel.recs.find? (fun r => r.type == 0x12 && r.id == id)

/-- The payload of a stream's anchor (R327). -/
def anchorPayload (s : State) (i : Nat) : List Byte :=
  let a := s.atticKey i
  let size := s.dnum (a + 8) 4
  let ring := ringSize s i
  let fed := s.led i Led.fed
  let pos := atticPos s i
  let first := if fed ≤ ring then 0 else pos
  let at_ (p : Nat) : Nat := a + s.dnum (a + 0x20) 8 + 16 * (p % ring)
  bytesOfNat 4 0x524B4E41 ++ bytesOfNat 2 1 ++ bytesOfNat 1 (s.led i Led.kind) ++
    bytesOfNat 1 (s.dnum (a + 0xD) 1 % 2 + 2 * b2n (first == 0)) ++ bytesOfNat 4 size ++ bytesOfNat 4 ring ++
    s.dbytes (a + 0x10) 8 ++ bytesOfNat 8 pos ++ bytesOfNat 8 first ++ bytesOfNat 8 fed ++
    bytesOfNat 4 (s.led i Led.origin / 256) ++ bytesOfNat 4 (s.led i Led.winLen / 256) ++ bytesOfNat 8 0 ++
    s.dbytes (imageAddr a ((atticImage s i).getD 0) size) size ++
    (List.range (fed - first)).flatMap (fun k => s.dbytes (at_ (first + k)) 16)

/-- Data words of a payload: the last one is filled with 0. -/
def payloadWords (bs : List Byte) : List (List Byte) := (chunksOf 32 bs).map (fun w => (w ++ List.replicate 32 0).take 32)

/-- PARK begins (R328): the streams of the unit are IDLE and the journal takes their anchors, or it answers at once. -/
def beginPark (i : Nat) (s : State) : State :=
  let us := s.unit i
  let payloads := us.map (fun x => (x, anchorPayload s x))
  let words := (payloads.map (fun p => ceilDiv p.2.length 32 + 2)).foldl (· + ·) 0
  if us.any (fun x => s.led x Led.state != Led.IDLE) then celAnswer 6 s
  else if !s.mounted || !roomFor s words then celAnswer 9 s
  else
    let (steps, ids, s1) := payloads.foldl (fun acc p =>
      let (steps, ids, s) := acc
      let id := s.cel.nextId
      let (l, s1) := anchorSteps id p.1 p.2.length (payloadWords p.2) (s.modCel (fun c => { c with nextId := id + 1 }))
      (steps ++ l, ids ++ [(p.1, id)], s1)) (([] : List CelStep), ([] : List (Nat × Nat)), s)
    s1.modCel (fun c => { c with steps := c.steps ++ steps ++ ids.map (fun x => CelStep.parked x.1 x.2) ++ [.answer 0] })

/-- The places of a record's data words. -/
def CelRec.dataPlaces (r : CelRec) : List (Nat × Nat) := (r.places.drop 1).take r.words

/-- Reads an anchor's payload: none when a word or the record's CRC fails (R317, R326). -/
def readAnchor (r : CelRec) (s : State) : Option (List Byte) × State :=
  let (ws, s1) := readPlaces r.dataPlaces s
  match allGood ws with
  | some ds => (if crc32c ds.flatten = r.crc then some (ds.flatten.take r.arg) else none, s1)
  | none => (none, s1)

/-- Writes an Attic record at a DRAM key from an anchor's payload: the committed image as image A, the log, and a fresh header last (R250,
R328). -/
def writeAttic (a index : Nat) (p : List Byte) (s : State) : State :=
  let size := fieldOf p 8 4
  let ring := fieldOf p 0xC 4
  let first := fieldOf p 0x20 8
  let off := 0x1000 + 2 * (ceilDiv size 0x1000 * 0x1000)
  let recs := chunksOf 16 (p.drop (0x40 + size))
  let s1 := recs.zipIdx.foldl (fun (s : State) (r : List Byte × Nat) => hubWrite (a + off + 16 * ((first + r.2) % ring)) r.1 s)
    (hubWrite (imageAddr a 0 size) ((p.drop 0x40).take size) s)
  let duplex := fieldOf p 6 1 / 8 % 2
  let h := bytesOfNat 4 0x43545441 ++ bytesOfNat 2 1 ++ bytesOfNat 2 index ++ bytesOfNat 4 size ++ bytesOfNat 1 0 ++
    bytesOfNat 1 (fieldOf p 7 1 % 2 + 2 * duplex) ++ bytesOfNat 2 0 ++ (p.drop 0x10).take 8 ++ (p.drop 0x18).take 8 ++
    bytesOfNat 8 off ++ bytesOfNat 4 ring ++ bytesOfNat 16 0
  hubWrite a (h ++ bytesOfNat 4 (crc32c h)) s1

/-- The payloads of the live anchors of a list of entries, by entry. -/
def readAnchors : List Nat → State → Option (List (Nat × List Byte)) × State
  | [], s => (some [], s)
  | x :: t, s =>
    match liveAnchor s (s.led x Led.anchor) with
    | none => (none, s)
    | some r =>
      let (p, s1) := readAnchor r s
      let (ps, s2) := readAnchors t s1
      (match p, ps with | some p, some ps => some ((x, p) :: ps) | _, _ => none, s2)

/-- UNPARK begins (R328): the Attic records are written, the streams are IDLE, and the tombstones follow; pages come back from the log or
not at all (R327). -/
def beginUnpark (i : Nat) (s : State) : State :=
  let us := s.unit i
  if us.any (fun x => s.led x Led.state != Led.PARKED) then celAnswer 6 s
  else if !s.mounted || (decide (s.wordsLeft < us.length) && (chooseSector s).isNone) then celAnswer 9 s
  else
    let (ps, s1) := readAnchors us s
    match ps with
    | none => celAnswer 10 s1
    | some ps =>
      let (steps, s2) := ps.foldl (fun acc p =>
        let (steps, s) := acc
        let id := s.led p.1 Led.anchor
        let (seq, s1) := takeSeq s
        let s2 := pagesFromAnchor p.1 (fieldOf p.2 7 1 / 2 % 2 == 1) (writeAttic (s1.atticKey p.1) p.1 p.2 s1)
        let s3 := s2.modCel (fun c => { c with unparking := c.unparking ++ [(p.1, id)] })
        (steps ++ [.word (tombWord id seq), .tomb id], (s3.setLed p.1 Led.state Led.IDLE).setLed p.1 Led.anchor 0)) (([] : List CelStep), s1)
      (noteStreams s2).modCel (fun c => { c with steps := c.steps ++ steps ++ [.answer 0] })

/-! ## Mount -/

/-- A good journal word at its place, with the bits corrected. -/
structure JWord where
  place : Nat × Nat
  data : List Byte
  fixed : Nat

/-- What header word 1 of a sector holds, by sector, as MOUNT has read them: the role and the sequence. -/
abbrev UseTable := List (Nat × Nat × Nat)

/-- The journal's sectors in sequence order (R325, R329). -/
def journalOrder (l : UseTable) : List Nat :=
  (sortBy (fun a b => decide (a.2.2 ≤ b.2.2)) (l.filter (fun x => x.2.1 == 4))).map Prod.fst

/-- The pool sectors in use, with the role and sequence that their header words hold. -/
def usedSectors (s : State) : UseTable :=
  ((listedSectors s.cel.flash).filter (fun sec => decide (poolBase ≤ sec ∧ sec < s.sectors) && (healthOf s.cel.flash sec).isSome)).filterMap
    (fun sec => (useOf s.cel.flash sec).map (fun u => (sec, u.1, (useSeq s.cel.flash sec).getD 0)))

/-- The journal's sectors as the Cellar knows them. -/
def journalSectors (s : State) : List Nat := journalOrder (usedSectors s)

/-- The good words at a list of places, read with retries. -/
def journalWords (ps : List (Nat × Nat)) (s : State) : List JWord × State :=
  let (rs, s1) := readPlaces ps s
  ((ps.zip rs).filterMap (fun x => match x.2 with | .good d n => some ⟨x.1, d, n⟩ | _ => none), s1)

/-- Drops, up to a number of times, a word of two corrected bits in front of an equal one, which may be that word written again
(R314). -/
def dropRewritten : Nat → List JWord → List JWord
  | k + 1, a :: b :: t => if 2 ≤ a.fixed ∧ a.data = b.data then dropRewritten k (b :: t) else a :: dropRewritten (k + 1) (b :: t)
  | _, l => l

/-- How many words of a list may have been written again. -/
def rewrittenWords : List JWord → Nat
  | a :: b :: t => (if 2 ≤ a.fixed ∧ a.data = b.data then 1 else 0) + rewrittenWords (b :: t)
  | _ => 0

/-- The committed anchor whose words stand at the head of a list, if there is one (R326). -/
def anchorHere : List JWord → Option CelRec
  | w :: t =>
    let n := fieldOf w.data 4 4
    match t[n]? with
    | some c =>
      let data := t.take n
      if fieldOf w.data 0 1 = 0x11 ∧ fieldOf c.data 0 1 = 0x12 ∧ (c.data.drop 2).take 26 = (w.data.drop 2).take 26 ∧
          crc32c (data.flatMap JWord.data) = fieldOf w.data 0x18 4 then
        let p := data.flatMap JWord.data
        some { type := 0x12, id := fieldOf w.data 8 8, seq := fieldOf w.data 0x10 8, index := fieldOf w.data 2 2, words := n,
               crc := fieldOf w.data 0x18 4, time := fieldOf c.data 0x1C 4,
               arg := 0x40 + fieldOf p 8 4 + 16 * (fieldOf p 0x28 8 - fieldOf p 0x20 8),
               places := w.place :: (data.map JWord.place ++ [c.place]) }
      else none
    | none => none
  | [] => none

/-- Where the commit word of the anchor at the head of a list of words stands behind it: the word with its identity (R326). -/
def commitAt : List JWord → Option Nat
  | w :: t => if fieldOf w.data 0 1 = 0x11 then t.findIdx? (fun c => fieldOf c.data 0 1 == 0x12 && (c.data.drop 2).take 26 == (w.data.drop 2).take 26) else none
  | [] => none

/-- The committed anchor that starts at the head of a list of words, none of them written again or some (R314, R326). -/
def anchorAt (ws : List JWord) : Option CelRec :=
  match commitAt ws with
  | none => none
  | some k => let l := ws.take (k + 2)
              (List.range (rewrittenWords l + 1)).findSome? (fun n => anchorHere (dropRewritten n l))

/-- A record of one word: a tombstone, an intent or a retire record. -/
def shortRec (w : JWord) : Option CelRec :=
  let type := fieldOf w.data 0 1
  if fieldOf w.data 1 3 ≠ 0 then none
  else if type = 0x13 then some { type := type, id := fieldOf w.data 8 8, seq := fieldOf w.data 0x10 8, places := [w.place] }
  else if type = 0x14 ∨ type = 0x15 then
    some { type := type, id := fieldOf w.data 4 4, seq := fieldOf w.data 0x10 8, arg := fieldOf w.data 8 8, places := [w.place] }
  else none

/-- Whether a word heads a record of a higher sequence. -/
def headsLater (seq : Nat) (w : JWord) : Bool := (fieldOf w.data 0 1 == 0x11 || (shortRec w).isSome) && decide (seq < fieldOf w.data 0x10 8)

/-- What follows a record without a commit: up to `n` data words belong to it, as far as the sector's end and on into the next one
unless that begins with a later record (R326, log entry 52). -/
def passLost (seq : Nat) : Nat → Nat → List JWord → List JWord
  | n + 1, sec, w :: t => if w.place.1 ≠ sec ∧ headsLater seq w then w :: t else passLost seq n w.place.1 t
  | _, _, l => l

/-- A journal as it reads: a record, or a start whose record is ignored whole, with its anchor id (R326). -/
inductive JItem where
  | rec_ (r : CelRec)
  | lost (id : Nat) (cut : Bool)

/-- The records of a list of words in order (R326, log entry 52). A word that heads none is passed over. -/
def journalItems : Nat → List JWord → List JItem
  | 0, _ => []
  | _, [] => []
  | k + 1, w :: t =>
    match anchorAt (w :: t) with
    | some r => .rec_ r :: journalItems k (t.drop ((commitAt (w :: t)).getD 0 + 1))
    | none =>
      if fieldOf w.data 0 1 = 0x11 then
        match commitAt (w :: t) with
        | some n => .lost (fieldOf w.data 8 8) false :: journalItems k (t.drop (n + 1))
        | none => .lost (fieldOf w.data 8 8) true :: journalItems k (passLost (fieldOf w.data 0x10 8) (fieldOf w.data 4 4) w.place.1 t)
      else
        match shortRec w with
        | some r => .rec_ r :: journalItems k t
        | none => journalItems k t

/-- The records of a journal. -/
def JItem.recs (l : List JItem) : List CelRec := l.filterMap (fun x => match x with | .rec_ r => some r | _ => none)

/-- The anchor ids of records that are ignored (R331). -/
def JItem.lostIds (l : List JItem) : List Nat := l.filterMap (fun x => match x with | .lost i _ => some i | _ => none)

/-- Whether the journal's last record has no commit: nothing is appended behind it in its sector (log entry 52). -/
def JItem.cut (l : List JItem) : Bool := match l.getLast? with | some (.lost _ c) => c | _ => false

/-- The records that count, of all records of a journal: the newest of each anchor without a later tombstone, the newest intent of
a sector whose erase has not been completed since, and every retire record (R326, R330, R333). -/
def liveRecs (counts : List (Nat × Nat)) (rs : List CelRec) : List CelRec :=
  rs.filter (fun r =>
    let newer := rs.any (fun x => x.id == r.id && decide (r.seq < x.seq) && (x.type == r.type || (r.type == 0x12 && x.type == 0x13)))
    !newer && (r.type == 0x12 || r.type == 0x15 || (r.type == 0x14 && (match counts.lookup r.id with | some n => decide (n ≤ r.arg) | none => true))))

/-- The rows of the mount table (R329). -/
def writeTable (base : Nat) (roles : List (Nat × Nat)) (s : State) : State :=
  let live (sec : Nat) : Nat := (s.cel.recs.map (fun r => (r.places.filter (fun p => p.1 == sec)).length)).foldl (· + ·) 0
  let row (sec : Nat) : List Byte :=
    bytesOfNat 16 (Config.mountSector (if s.isRetired sec then 2 else b2n (s.cel.watch.contains sec)) ((roles.lookup sec).getD 0) (live sec))
  let anchors := (s.cel.recs.filter (fun r => r.type == 0x12)).take 4096
  let lines (r : CelRec) : List Byte := bytesOfNat 32 (Config.mountAnchor r.id r.index r.words r.time)
  hubWrite (base + 16 * s.sectors) (anchors.flatMap lines)
    (hubWrite (base + 16 * poolBase) ((List.range (s.sectors - poolBase)).flatMap (fun i => row (poolBase + i))) s)

/-- MOUNT (R329): both header words of the pool's sectors and the journal are read, every sector without a health record, or whose
erase an intent shows unfinished (R331), is erased again, and a word that a retry recovered retires its sector (R317). -/
def mount (base : Nat) (s : State) : State :=
  let used := (listedSectors s.cel.flash).filter (fun sec => decide (poolBase ≤ sec ∧ sec < s.sectors))
  let (hs, s0) := readPlaces (used.map (fun sec => (sec, sectorWords))) s
  let (us, s1) := readPlaces (used.map (fun sec => (sec, sectorWords + 1))) s0
  let health := (used.zip hs).filterMap (fun x => x.2.health.map (fun d => (x.1, d)))
  let uses : UseTable := (used.zip us).filterMap (fun x => x.2.data?.map (fun d => (x.1, fieldOf d 0 1, fieldOf d 4 8)))
  let js := journalOrder (uses.filter (fun x => health.any (fun h => h.1 == x.1)))
  let places := js.flatMap (fun sec => (List.range sectorWords).map (fun w => (sec, w)))
  let (words, s2) := journalWords places s1
  let items := journalItems (words.length + 1) words
  let rs := JItem.recs items
  let counts := health.map (fun h => (h.1, fieldOf h.2 4 4))
  let recs := liveRecs counts rs
  let pool := (List.range (s.sectors - poolBase)).map (fun i => poolBase + i)
  let intent (sec : Nat) : Option CelRec := recs.find? (fun r => r.type == 0x14 && r.id == sec)
  let retired (sec : Nat) : Bool := recs.any (fun r => r.type == 0x15 && r.id == sec)
  let bad := pool.filter (fun sec => (!health.any (fun h => h.1 == sec) || (intent sec).isSome) && !retired sec)
  let highest := (counts.map Prod.snd).foldl max 0
  let count (sec : Nat) : Nat := match intent sec with | some r => r.arg + 1 | none => highest
  let tail := if JItem.cut items then none
    else js.getLast?.map (fun sec => (sec, (((List.range sectorWords).filter (fun w => !wordBlank s.cel.flash sec w)).map (· + 1)).foldl max 0))
  let again (t : CelTask) : Bool := match t with | .erase sec _ _ => bad.contains sec | _ => false
  let ids := (rs.filter (fun r => r.type == 0x12 || r.type == 0x13)).map CelRec.id ++ JItem.lostIds items
  let watched := (health.filter (fun h => fieldOf h.2 0x11 1 == 1)).map Prod.fst
  let s3 := s2.modCel (fun c =>
    { c with recs := recs, jpos := tail, nextSeq := (rs.map CelRec.seq).foldl max 0 + 1, nextId := ids.foldl max 0 + 1, written := [],
             watch := c.watch ++ watched.filter (fun x => !c.watch.contains x),
             todo := c.todo.filter (fun t => !again t) ++ bad.map (fun sec => CelTask.erase sec (count sec) false) })
  let s4 := (s3.setFld Reg.celMountInfo 0 16 (min 0xFFFF (JItem.lostIds items).length)).setFld Reg.celMountInfo 16 16 (min 0xFFFF bad.length)
  let recovered := ((used.zip hs ++ used.zip us).filter (fun x => match x.2 with | .good _ 3 => true | _ => false)).map Prod.fst ++
    (words.filter (fun w => w.fixed == 3)).map (fun w => w.place.1)
  let s5 := recovered.foldl (fun s sec => retireSector sec 1 s) (s4.setFld Reg.celStatus 1 1 1)
  writeTable base (uses.map (fun x => (x.1, x.2.1))) s5

/-! ## The commands of R324 -/

/-- Erases and formats the sectors of a boot slot or calibration copy. -/
def formatSteps (s : State) (base n role index : Nat) : List CelStep :=
  (List.range n).flatMap (fun i => [.erase (base + i) ((eraseCount s.cel.flash (base + i)).getD 0 + 1), .use (base + i) role index])

/-- Programs an image, its header first, into the data words from a sector on. -/
def imageSteps (base : Nat) (img : List Byte) : List CelStep :=
  (payloadWords img).zipIdx.map (fun w => CelStep.fixed (base + w.2 / sectorWords) (w.2 % sectorWords) w.1)

/-- The slot that booted, or the one that the pointer names (R324, result 3). -/
def slotInUse (s : State) (slot : Nat) : Bool := s.cel.slot == some slot || slotNamed (readPointer s).1 == slot

/-- A command begins (R324): it answers at once, or its steps follow those that run. -/
def beginCmd (op arg0 arg1 buf table : Nat) (s : State) : State :=
  let go (l : List CelStep) (s : State) : State := s.modCel (fun c => { c with steps := c.steps ++ l ++ [.answer 0] })
  let id := arg0 + 2 ^ 32 * arg1
  match op with
  | 1 =>
    if 1 < arg0 then celAnswer 8 s
    else if slotInUse s arg0 then celAnswer 3 (readPointer s).2 else go (formatSteps s (slotBase arg0) 1024 2 arg0) (readPointer s).2
  | 2 =>
    if 1 < arg0 ∨ arg1 < 32 ∨ 1024 * sectorWords * 32 < arg1 then celAnswer 8 s
    else if slotInUse s arg0 then celAnswer 3 (readPointer s).2
    else go (imageSteps (slotBase arg0) (s.dbytes buf arg1) ++ [.check false arg0]) (readPointer s).2
  | 3 =>
    if 1 < arg0 then celAnswer 8 s else if slotInUse s arg0 then celAnswer 3 (readPointer s).2
    else
      match checkSlot arg0 (readPointer s).2 with
      | (true, s1) => go [.point arg0] s1
      | (false, s1) => celAnswer 4 s1
  | 4 =>
    if arg1 < 32 ∨ 64 * sectorWords * 32 < arg1 then celAnswer 8 s
    else
      let first := match s.cel.cal with | some c => 1 - c | none => 0
      let img := s.dbytes buf arg1
      let copy (c : Nat) : List CelStep := formatSteps s (calBase c) 64 3 c ++ imageSteps (calBase c) img ++ [.check true c]
      go (copy first ++ copy (1 - first)) s
  | 5 => if arg1 < 16 * s.sectors + 0x20000 then celAnswer 9 s else celAnswer 0 (mount table s)
  | 6 =>
    if !s.mounted then celAnswer 2 s
    else
      celAnswer 0 (hubWrite buf ((s.cel.recs.filter (fun r => r.type == 0x12)).flatMap (fun r => bytesOfNat 16 (Config.listEntry r.id r.index r.arg r.time))) s)
  | 7 =>
    if !s.mounted then celAnswer 2 s
    else match liveAnchor s id with
      | none => celAnswer 5 s
      | some r =>
        let (p, s1) := readAnchor r s
        match p with
        | none => celAnswer 7 s1
        | some p => celAnswer 0 (writeAttic buf r.index p s1)
  | 8 =>
    if !s.mounted then celAnswer 2 s
    else if (liveAnchor s id).isNone then celAnswer 5 s
    else
      let (seq, s1) := takeSeq s
      go [.word (tombWord id seq), .tomb id] s1
  | 9 =>
    if s.sectors ≤ arg0 then celAnswer 8 s
    else
      let s1 := noteRead arg0 s
      let s2 := hubWrite buf (flashBytes s1.visibleFlash (sectorBytes * arg0) sectorBytes) s1
      if s.erasing = some arg0 then s2.modCel (fun c => { c with steps := c.steps.take 1 ++ [.answer 0] ++ c.steps.drop 1 }) else celAnswer 0 s2
  | _ => celAnswer 8 s

/-- A piece of work begins. -/
def beginTask (t : CelTask) (s : State) : State :=
  match t with
  | .cmd op a0 a1 buf table =>
    if s.fld Reg.celStatus 0 1 = 0 then celAnswer 8 (s.modCel (fun c => { c with active := some t }))
    else beginCmd op a0 a1 buf table (s.modCel (fun c => { c with active := some t }))
  | .park _ i => beginPark i (s.modCel (fun c => { c with active := some t }))
  | .unpark _ i => beginUnpark i (s.modCel (fun c => { c with active := some t }))
  | .erase sec count intent =>
    let (l, s1) := if intent then sectorSteps 0x14 sec (count - 1) s else ([], s)
    s1.modCel (fun c => { c with steps := c.steps ++ l ++ [.erase sec count, .erased sec] })
  | .copy seq =>
    match s.cel.recs.find? (fun r => r.seq == seq) with
    | none => s
    | some r =>
      if r.type = 0x12 then
        let (p, s1) := readPlaces r.dataPlaces s
        match allGood p with
        | none => s1
        | some ds => let (l, s2) := anchorSteps r.id r.index r.arg ds s1
                     s2.modCel (fun c => { c with steps := c.steps ++ l })
      else let (l, s1) := sectorSteps r.type r.id r.arg s
           s1.modCel (fun c => { c with steps := c.steps ++ l })
  | .retire sec reason =>
    let (l, s1) := sectorSteps 0x15 sec reason s
    s1.modCel (fun c => { c with steps := c.steps ++ l })

/-- Whether work reads the part before it does anything else: it does not wait for an erase, which it suspends (R318). MOUNT, which reads
every sector, waits for the one that is being erased. -/
def CelTask.reads : CelTask → Bool
  | .cmd op _ _ _ _ => op == 3 || op == 6 || op == 7 || op == 9
  | .unpark _ _ => true
  | _ => false

/-- Whether work reads DRAM, which waits for the ports' initial credits (R378, log entry 119). -/
def CelTask.readsDram : CelTask → Bool
  | .cmd op _ _ _ _ => op == 2 || op == 4
  | .park _ _ => true
  | _ => false

/-- Whether the next command begins: none runs, and no other work is under way that it waits for (R318, R324). -/
def celNext (s : State) : Option (CelTask × List CelTask) :=
  match s.cel.active, s.cel.waiting with
  | none, t :: ts => if (s.cel.steps.isEmpty || t.reads) && (s.canRead || !t.readsDram) then some (t, ts) else none
  | _, _ => none

/-- The engine goes on until an erase or program is issued or nothing is left: commands before the Cellar's own work. -/
def celRun : Nat → State → State
  | 0, s => s
  | k + 1, s =>
    match celNext s with
    | some (t, ts) => celRun k (beginTask t (s.modCel (fun c => { c with waiting := ts })))
    | none =>
      if s.cel.issued then s
      else match s.cel.steps with
        | .erase _ _ :: _ => s.modCel (fun c => { c with issued := true, suspended := false })
        | .prog _ _ :: _ => s.modCel (fun c => { c with issued := true })
        | x :: t => celRun k (celStep x (s.modCel (fun c => { c with steps := t })))
        | [] =>
          match s.cel.todo with
          | t :: ts => celRun k (beginTask t (s.modCel (fun c => { c with todo := ts })))
          | [] => s

/-- The engine goes on, and the Cellar's registers follow. -/
def celGo (s : State) : State :=
  noteCel (celRun (200 * (s.cel.steps.length + s.cel.todo.length + s.cel.waiting.length + 40)) s)

/-- A command is written: one waits for work under way; while one has not answered the answer is Busy (R324). -/
def celCommand (op : Nat) (s : State) : State :=
  let isCmd (t : CelTask) : Bool := match t with | .cmd _ _ _ _ _ => true | _ => false
  if (match s.cel.active with | some t => isCmd t | none => false) || s.cel.waiting.any isCmd then
    s.setReg Reg.celCmdStatus 2
  else
    let arg (a : Nat) : Nat := (s.reg (Reg.celCmdArga + 4 * a)).toNat
    let t : CelTask := .cmd op (arg 0) (arg 1) (s.reg64 Reg.celBuf % 2 ^ 48 / 64 * 64) (s.reg64 Reg.celTableBase % 2 ^ 48 / 0x1000 * 0x1000)
    celGo ((s.setReg Reg.celCmdStatus 0).modCel (fun c => { c with waiting := c.waiting ++ [t] }))

/-! ## Events of the part -/

/-- An erase completes and its health record is programmed; a slow or failed one retires its sector (R315, R333). -/
def eraseDone (us : Nat) (ok : Bool) (s : State) : State :=
  match s.cel.issued && !s.cel.suspended, s.cel.steps with
  | true, .erase sec count :: t =>
    let f := if ok then flashErase s.cel.flash sec else flashHalfErase s.cel.flash (Config.tornBits s.free) sec
    let st := s.statOf sec
    let typ := s.fld Reg.celTimes 16 16 * 1000
    let slow := decide (typ * s.fld Reg.celHealthCfg 4 4 < us) || decide (s.fld (Reg.celTimes + 4) 0 16 * 1000 < us)
    let watch := decide (st.worst = 2) || decide (typ * s.fld Reg.celHealthCfg 0 4 < us)
    let rest := if ok then .prog (sectorBytes * sec) (healthRecord sec count us st.worst watch st.skips) :: .readBack sec sectorWords :: t
      else t.filter (fun x => x != .erased sec)
    let s1 := { s with free := s.free + b2n (!ok) }.modCel (fun c =>
      { c with flash := f, steps := rest, issued := false, stats := c.stats.filter (fun x => x.sector != sec),
               watch := c.watch.filter (· != sec) ++ (if watch then [sec] else []) })
    celGo (if !ok then retireSector sec 3 s1 else if slow then retireSector sec 2 s1 else s1)
  | _, _ => s

/-- A program completes (R314): one that failed is noticed by the read-back, and in a header word retires the sector (R333). -/
def programDone (ok : Bool) (s : State) : State :=
  match s.cel.issued, s.cel.steps with
  | true, .prog a b :: t =>
    let f := if ok then flashProgram s.cel.flash a b else flashTorn s.cel.flash (Config.tornBits s.free) a b
    let sec := a / sectorBytes
    let header := decide (a % sectorBytes < 0x40)
    let s1 := { s with free := s.free + b2n (!ok) }.modCel (fun c =>
      { c with flash := f, steps := t, issued := false, failed := c.failed || (!ok && !header && decide (poolBase ≤ sec)) })
    celGo (if !ok && header then
        retireSector sec 3 (leaveSector sec s1)
      else s1)
  | _, _ => s

/-- A suspended erase resumes: no read waits in this model (R318). -/
def eraseResumed (s : State) : State := noteCel (s.modCel (fun c => { c with suspended := false }))

/-! ## Background work -/

/-- The Keepsake is mounted and nothing runs. -/
def State.celIdle (s : State) : Bool := s.mounted && s.cel.steps.isEmpty && s.cel.todo.isEmpty && s.cel.active.isNone

/-- Copies of the live records that lie in a sector. -/
def copiesOf (s : State) (sec : Nat) : List CelTask :=
  (s.cel.recs.filter (fun r => r.places.any (fun p => p.1 == sec))).map (fun r => .copy r.seq)

/-- Reclaim (R330): a journal sector that holds nothing live is erased after an intent; when few are free, the oldest one's live
records are copied forward; when the erase counts spread, those of the one with the lowest count. -/
def reclaim (s : State) : State :=
  if !s.celIdle then s
  else
    let js := (journalSectors s).filter (fun sec => !s.isRetired sec && (match s.cel.jpos with | some p => p.1 != sec | none => true))
    let live (sec : Nat) : Bool := s.cel.recs.any (fun r => r.places.any (fun p => p.1 == sec))
    let count (sec : Nat) : Nat := (eraseCount s.cel.flash sec).getD 0
    let held := js.filter live
    let work : List CelTask := match js.find? (fun sec => !live sec) with
      | some sec => [.erase sec (count sec + 1) true]
      | none =>
        if (freeSectors s).length < s.reserve then copiesOf s (held.headD 0)
        else if s.fld Reg.celHealthCfg 16 16 < (s.reg (Reg.celWear + 4)).toNat - (s.reg Reg.celWear).toNat then
          match held with
          | [] => []
          | x :: t => copiesOf s (t.foldl (fun b y => if count y < count b then y else b) x)
        else []
    celGo (s.modCel (fun c => { c with todo := work }))

/-- Age limit of an anchor in seconds: a quarter when a sector of it has passed its rated cycles (R332). -/
def ageLimit (s : State) (r : CelRec) : Nat :=
  let days := max 1 (s.fld Reg.celScrub 16 10)
  let worn := r.places.any (fun p => decide ((s.reg (Reg.celHealthCfg + 4)).toNat < (eraseCount s.cel.flash p.1).getD 0))
  days * 86400 / (if worn then 4 else 1)

/-- The retention scrub (R332): live anchors older than their limit are rewritten. -/
def retention (s : State) : State :=
  if !s.celIdle || s.fld Reg.celScrub 0 1 == 0 || s.fld Reg.celStatus 6 1 == 0 then s
  else
    let old := s.cel.recs.filter (fun r => r.type == 0x12 && decide (ageLimit s r < s.clock - r.time))
    celGo (s.modCel (fun c => { c with todo := old.map (fun r => .copy r.seq) }))

/-- The patrol (R332): every live word is read, for which an erase is suspended (R318), and a record with a word of two corrected bits is
rewritten. -/
def cellarPatrol (s : State) : State :=
  if !s.mounted || s.fld Reg.celScrub 0 1 == 0 then s
  else
    let (weak, s1) := s.cel.recs.foldl (fun acc r =>
      let (weak, s) := acc
      let (ws, s1) := readPlaces r.places s
      (if ws.any (fun w => match w with | .good _ 2 => true | _ => false) then weak ++ [CelTask.copy r.seq] else weak, s1)) (([] : List CelTask), s)
    celGo (s1.modCel (fun c => { c with todo := c.todo ++ weak.filter (fun t => !c.todo.contains t) }))

/-- The wall clock advances once a second (R332). -/
def wallclock (s : State) : State := s.setReg Reg.celWallclock (s.reg Reg.celWallclock + 1)

/-- A sector's health record is captured into the view (R315). -/
def healthView (sec : Nat) (s : State) : State :=
  let (x, s1) := readWord sec sectorWords s
  let words := (List.range 7).map (fun w => fieldOf (x.data?.getD (wordParts s1.visibleFlash sec sectorWords).2.1) (4 * w) 4) ++
    [b2n (s1.isRetired sec) + 2 * b2n x.data?.isNone]
  noteCel (words.zipIdx.foldl (fun s w => s.setReg (Reg.celHealthDataw + 4 * w.2) (BitVec.ofNat 32 w.1)) s1)

/-! ## Resets and start-up -/

/-- A reset (R329, R375): the part finishes the erase or program that it has accepted, and the Cellar forgets the rest but what its sectors
have shown since their last erase (R315). -/
def cellarReset (s : State) : State :=
  let f := match s.cel.issued, s.cel.steps with
    | true, .erase sec _ :: _ => flashErase s.cel.flash sec
    | true, .prog a b :: _ => flashProgram s.cel.flash a b
    | _, _ => s.cel.flash
  { s with cel := { flash := f, stats := s.cel.stats, watch := s.cel.watch } }

/-- Power fails: what the part was doing is cut short (R331). -/
def cellarCut (s : State) : State :=
  let mask := Config.tornBits s.free
  let f := match s.cel.issued, s.cel.steps with
    | true, .erase sec _ :: _ => flashHalfErase s.cel.flash mask sec
    | true, .prog a b :: _ => flashTorn s.cel.flash mask a b
    | _, _ => s.cel.flash
  { s with free := s.free + b2n s.cel.issued, cel := { flash := f } }

/-- Stages 2 to 4 of start-up (R304, R310, R320, R323): what SFDP reports, accepted or not, the boot slot and the calibration; whether a slot
passed its check. -/
def cellarBoot (b : BootFacts) (s : State) : Bool × State :=
  let ok := b.partOk && decide (8192 ≤ b.sectors)
  let sectors := min 65536 b.sectors
  let s1 := ((s.setFld Reg.celStatus 0 1 (b2n ok)).setFld Reg.celPart 0 17 sectors).setReg64 Reg.celTimes
    (b.tSusUs.toNat + 2 ^ 16 * b.eraseTypMs.toNat + 2 ^ 32 * b.eraseMaxMs.toNat + 2 ^ 48 * b.tRsUs.toNat)
  let named := namedSlot s.cel.flash
  let loaded := if !ok then none else if slotOk s.cel.flash named then some named else if slotOk s.cel.flash (1 - named) then some (1 - named) else none
  match loaded with
  | none => (false, s1)
  | some slot =>
    let s2 := (s1.setFld Reg.porchStatus 5 1 slot).setFld Reg.porchStatus 6 1 (b2n (slot != named))
    let copy := if (calPayload s.cel.flash 0).isSome then some 0 else if (calPayload s.cel.flash 1).isSome then some 1 else none
    let s3 := s2.modCel (fun c => { c with slot := some slot, cal := copy })
    match copy.bind (calPayload s.cel.flash) with
    | none => (true, celEvent 4 ({ s3 with chim := { s3.chim with cal := none } }.setFld Reg.celStatus 5 1 1))
    | some p =>
      let margins := p.drop (p.length - 64)
      let mask := 0x9FFFFFFF
      let s4 := (List.range 16).foldl (fun s i => s.setReg (Reg.celMargini + 4 * i) (BitVec.ofNat 32 (fieldOf margins (4 * i) 4) &&& BitVec.ofNat 32 mask)) s3
      let s5 := { s4 with chim := { s4.chim with cal := some (Memory.putBytes [] 0 (p.take 0x360)) } }
      (true, if copy = some 1 then celEvent 4 s5 else s5)

end Sys2Proof.Machine
end

