-- ==== Sys2Proof/Machine/Access.lean ====
section
/-! DEFINITION. Control accesses: which the block serves and which get an error response (R4-R7, R14-R16, R280, R306, R307),
and the response itself (R370). -/

namespace Sys2Proof.Machine

/-- The block is powered, not clamped and out of cold reset: PORCH_PRESENCE.alive (R307, R376, R379). -/
def Pins.up (p : Pins) : Bool := !p.cold && !p.iso && p.rails

/-- The block is up (R307). -/
def State.up (s : State) : Bool := s.pins.up

/-- PORCH_STATUS.ready (R304). -/
def State.ready (s : State) : Bool := s.fld Reg.porchStatus 0 1 == 1

/-- Offsets that are served before ready (R306). -/
def servedEarly (off : Nat) : Bool :=
  off == 0 || off == 4 || off == 8 || decide (0x40000 ≤ off ∧ off < 0x50000) || decide (0x70000 ≤ off ∧ off < 0x80000)

/-- Whether a register accepts an access of a context: a managing register writes of context 0 only, a queue's register accesses of
its owner and of context 0 only (R280, R308). -/
def permitted (s : State) (c : Ctx) (off : Nat) (write : Bool) : Bool :=
  match (regRow off).perm with
  | 1 => !write || c.val == 0
  | 2 => c.val == 0 || c.val == s.fld (Reg.porchQqCfg + 0x40 * ((off - Reg.porchQqSbase) / 0x40)) 4 5
  | _ => true

/-- Whether an access gets an error response and changes nothing. PORCH_PRESENCE never does while the block is not up (R307), and then
only one that is not of a whole word does (R7). -/
def refuses (s : State) (c : Ctx) (off be : Nat) (write : Bool) : Bool :=
  if off = 0 then s.up && be != 0xF
  else
    off % 4 != 0 || be != 0xF || !s.up || (!s.ready && !servedEarly off) || !permitted s c off write ||
      (match roomOfOffset off with | some (r, _) => (s.rooms.get r).power == .off | none => false)

/-- What happens inside the block: it changes neither the commands that wait nor what the block's pins and rails say. -/
def sealed (k : State → State) (s : State) : State := { k s with pending := s.pending, pins := s.pins }

/-- A response with data. -/
def respond (v : Nat) (s : State) : State := { s with resp := ⟨BitVec.ofNat 32 v, false⟩ }

/-- An error response. -/
def refuse (s : State) : State := { s with resp := ⟨0, true⟩ }

/-- The Porch stub answers while the block is not up: an error, and 0 for PORCH_PRESENCE (R16, R307). -/
def stubAnswer (off : Nat) (s : State) : State := if off = 0 then respond 0 s else refuse s

/-- A control access: refused, or served with its effect. -/
def access (c : Ctx) (off be : Nat) (write : Bool) (k : State → State) (s : State) : State :=
  if refuses s c off be write then refuse s else k s

/-- A write that is served: the effect of a register with a behaviour of its own. -/
def writing (c : Ctx) (off : Nat) (k : State → State) (s : State) : State := access c off 0xF true (fun s => k (respond 0 s)) s

/-- The key of a register's word: a per-context one has a word for each context (R8). -/
def regKey (c : Ctx) (off : Nat) : Nat := if (regRow off).perCtx then ctxKey c off else off

/-- A write sets, clears or ignores each field by its access code (R4, R6). -/
def plainWrite (c : Ctx) (off : Nat) (v : Word) (s : State) : State :=
  let w := regRow off
  let k := regKey c off
  let rw := BitVec.ofNat 32 w.rw
  let old := s.reg k
  s.setReg k (((old &&& ~~~rw) ||| (v &&& rw)) &&& ~~~(v &&& BitVec.ofNat 32 w.w1c))

/-! ## Forms of a command -/

/-- A command that acts inside the block: nothing happens while the block is not up (R307, R373, R376, R379). -/
def inBlock (k : State → State) (s : State) : Host.Outcome State Fault Refusal := .next (if s.up then sealed k s else s)

/-- A control access of an offset: while the block is not up, the Porch stub answers it. -/
def atPort (off : Nat) (k : State → State) (s : State) : Host.Outcome State Fault Refusal :=
  .next (if s.up then sealed k s else stubAnswer off s)

/-- The response goes to the port that the access came in by (R370). -/
def viaPort (p : CtlPort) (k : State → State) (s : State) : State :=
  match p with
  | .control _ => k s
  | .debug => { k s with debugResp := (k s).resp, resp := s.resp }

/-- A control access of an offset, of either port. -/
def atSide (p : CtlPort) (off : Nat) (k : State → State) (s : State) : Host.Outcome State Fault Refusal :=
  .next (viaPort p (fun s => if s.up then sealed k s else stubAnswer off s) s)

/-- A command that acts on the pins of the block, or on what they hold: only the commands that wait stay as they are. -/
def atPins (k : State → State) (s : State) : Host.Outcome State Fault Refusal := .next { k s with pending := s.pending }

end Sys2Proof.Machine
end

