-- ==== Sys2Proof/Machine/Window.lean ====
section
/-! DEFINITION. The Window (15_window_study.md, R348-R355): room counters, the block meters' window end, snapshots and their
dump, and the controls of counters and sampling. -/

namespace Sys2Proof.Machine

/-! ## Counters -/

/-- The value of an event in a room cycle (R348): what the room's state says, and for the events of the units' datapaths and of the Hall
what the cycle gives; a room cycle is 1, a reserved code 0. An instruction that has issued, a word corrected and a stretched edge each
count in one cycle (log entry 131). -/
def eventValue (s : State) (r : RoomId) (es : CycleEvents) (code : Nat) : Nat :=
  let m := s.room r
  if code = 0 then 1
  else if code = 0x01 then min 1 m.issues
  else if code = 0x02 then b2n (m.stew.stall != .none)
  else if code < 0x0A then b2n (m.stew.stall.code == code - 2)
  else if code < 0x0F then (m.queue (Fin.ofNat 5 (code - 0x0A))).entries.length
  else if code = 0x16 then roomTags s false r
  else if code = 0x17 then roomTags s true r
  else if code = 0x1A then min 1 m.stretches
  else if code = 0x1B then min 1 m.fixes
  else if 0x1B < code then 0
  else ((es.find? (fun e => e.1 == code)).map Prod.snd).getD 0

/-- What a room cycle has counted of the events that wait for one. -/
def cycleTakes (m : Room) : Room := { m with issues := m.issues - 1, fixes := m.fixes - 1, stretches := m.stretches - 1 }

/-- One counter in one room cycle: it wraps and sets its bit of WIN_OVF (R348, R349). -/
def countEvent (r : RoomId) (es : CycleEvents) (s : State) (n : Nat) : State :=
  let sel := (s.reg (rreg r Reg.winSeln + 4 * n)).toNat
  if bitAt sel 17 then
    let v := eventValue s r es (bitsOf sel 0 8)
    let add := if bitAt sel 16 then b2n (decide (bitsOf sel 8 8 < v)) else v
    let k := rreg r Reg.winCntn + 8 * n
    let x := s.reg64 k + add
    let s1 := s.setReg64 k (x % 2 ^ 48)
    if 2 ^ 48 ≤ x then s1.orReg (rreg r Reg.winOvf) (2 ^ n) else s1
  else s

/-- One room cycle of a room's counters (R349). -/
def countCycle (r : RoomId) (s : State) (es : CycleEvents) : State :=
  let s1 := s.count64 (rreg r Reg.winCycles) 1
  (if s1.fld (rreg r Reg.winCtl) 0 1 = 1 then (List.range 8).foldl (countEvent r es) s1 else s1).modRoom r cycleTakes

/-- WIN_CNT0–7 and WIN_OVF are 0 (R349). -/
def clearCounters (r : RoomId) (s : State) : State :=
  ((List.range 8).foldl (fun s n => s.setReg64 (rreg r Reg.winCntn + 8 * n) 0) s).setReg (rreg r Reg.winOvf) 0

/-- A write of WIN_CTL. -/
def writeWinCtl (r : RoomId) (v : Word) (s : State) : State :=
  let s1 := s.setFld (rreg r Reg.winCtl) 0 1 (b2n (v.getLsbD 0))
  if v.getLsbD 1 then clearCounters r s1 else s1

/-- A write of WIN_SAMP_CTL: a rise of enable loads the LFSR from the seed, 0 acting as 0xACE1; clear empties the buffer
(R354). -/
def writeSampCtl (c : Ctx) (r : RoomId) (v : Word) (s : State) : State :=
  let k := rreg r Reg.winSampCtl
  let rises := s.fld k 0 1 == 0 && v.getLsbD 0
  let s1 := plainWrite c k v s
  let seed := s1.fld k 16 16
  let s2 := if rises then s1.modRoom r (fun m =>
      { m with sampler := { m.sampler with count := 0, lfsr := BitVec.ofNat 16 (if seed = 0 then 0xACE1 else seed) } }) else s1
  if v.getLsbD 7 then (s2.setFld (rreg r Reg.winSampStatus) 0 6 0).setFld (rreg r Reg.winSampStatus) 6 5 0 else s2

/-! ## Meters -/

/-- A meter window ends: every count moves into its register and counting restarts (R350). -/
def meterEnd (s : State) : State :=
  if metering s then
    let put (base : Nat) (l : List (Nat × Nat)) (n : Nat) (s : State) : State :=
      (List.range n).foldl (fun s i => s.setReg (base + 4 * i) (BitVec.ofNat 32 (sget 0 l i))) s
    let s1 := put Reg.winLinkiDd s.win.links 112 (put Reg.winPortkRd s.win.ports 8 s)
    { s1 with win := { s1.win with ports := [], links := [] } }
  else s

/-! ## Snapshots -/

/-- A dump record with its CRC (R352). -/
def dumpRecord (bs : List Byte) : List Byte :=
  let body := (bs ++ List.replicate 124 0).take 124
  body ++ bytesOfNat 4 (crc32c body)

/-- CHIM_ROOMn_CTL.power (R337). -/
def Power.code : Power → Nat
  | .off => 0 | .retain => 1 | .on => 2

/-- The block record (R352). -/
def blockRecord (s : State) (src records mask : Nat) : List Byte :=
  let meter (i : Nat) : List Byte := bytesOfNat 4 (s.reg (Reg.winPortkRd + 4 * i)).toNat
  dumpRecord (bytesOfNat 1 1 ++ bytesOfNat 1 src ++ bytesOfNat 2 records ++ bytesOfNat 4 s.win.snaps ++ bytesOfNat 8 s.timebase ++
    [0, 2, 4, 6].flatMap meter ++ [1, 3, 5, 7].flatMap meter ++ bytesOfNat 8 (s.reg64 Reg.chimEnergy) ++ bytesOfNat 4 mask)

/-- A room record (R352); a room without a job gives the job number of no job (log entry 54). -/
def roomRecord (s : State) (r : RoomId) : List Byte :=
  let m := s.room r
  let k (o : Nat) : Nat := rreg r o
  let temp := signedOf (s.fld (Reg.chimRoomnStat + 8 * r.val) 0 13) 13
  dumpRecord (bytesOfNat 1 2 ++ bytesOfNat 1 r.val ++ bytesOfNat 1 m.power.code ++ bytesOfNat 1 (s.reg (k Reg.winOvf)).toNat ++
    bytesOfNat 4 s.win.snaps ++ bytesOfNat 8 s.timebase ++ bytesOfNat 8 (winCycles s r) ++
    (List.range 8).flatMap (fun n => bytesOfNat 6 (s.reg64 (k Reg.winCntn + 8 * n))) ++ bytesOfNat 4 m.stew.pc ++
    bytesOfNat 1 m.stew.stall.code ++ bytesOfNat 1 (b2n m.stew.running) ++ bytesOfNat 2 (wrapTo temp 16) ++ bytesOfNat 8 (stepOf s r) ++
    bytesOfNat 4 (match m.job with | some j => (s.job j).number | none => 0xFFFFFFFF) ++
    bytesOfNat 2 (s.fld (Reg.chimRoomnCtl + 8 * r.val) 3 11))

/-- A link record (R352). -/
def linkRecord (s : State) (part : Nat) : List Byte :=
  dumpRecord (bytesOfNat 1 3 ++ bytesOfNat 1 part ++ bytesOfNat 2 0 ++ bytesOfNat 4 s.win.snaps ++
    (List.range 28).flatMap (fun i => bytesOfNat 4 (s.reg (Reg.winLinkiDd + 4 * (28 * part + i))).toNat))

/-- The records of a snapshot, in order (R352). -/
def snapRecords (s : State) (src : Nat) : List (List Byte) :=
  let rooms := (List.finRange 32).filter (fun r => (s.room r).power != .off)
  let links := if s.fld Reg.winDumpCtl 1 1 = 1 then (List.range 4).map (linkRecord s) else []
  let mask := (rooms.map (fun r => 2 ^ r.val)).foldl (· + ·) 0
  blockRecord s src (1 + rooms.length + links.length) mask :: (rooms.map (roomRecord s) ++ links)

/-- Records of the dump ring: 2^k with k from 8 to 15 (R352). -/
def dumpSize (s : State) : Nat := 2 ^ max 8 (min 15 (s.fld Reg.winDumpCtl 7 4))

/-- Whether a record of the last dump has not been written yet (R351, R353). -/
def dumpPending (s : State) : Bool := (s.hubFlight ++ s.hubWrites).any (fun h => s.win.dumping.contains (h.ctx, h.w.line))

/-- A snapshot's records are written whole into the dump ring, with the dumps' context, or dropped (R352, R353). -/
def dump (src : Nat) (s : State) : State :=
  let rs := snapRecords s src
  let prod := s.fld Reg.winDumpProd 0 16
  let used := (prod + 2 ^ 16 - s.fld Reg.winDumpCons 0 16) % 2 ^ 16
  if dumpSize s < used + rs.length then s.satFld Reg.winDumpStatus 16 16 1
  else
    let c := s.fld Reg.winDumpCtl 2 5
    let at_ (i : Nat) : Nat := s.reg64 Reg.winDumpBase % 2 ^ 48 / 0x1000 * 0x1000 + 128 * ((prod + i) % dumpSize s)
    let s1 := rs.zipIdx.foldl (fun (s : State) (r : List Byte × Nat) => hubWrite (ctxBase c + at_ r.2) r.1 s) s
    { s1 with win := { s1.win with dumping := rs.zipIdx.map (fun (r : List Byte × Nat) => (c, at_ r.2 % 2 ^ 48 / lineBytes)) } }.setFld Reg.winDumpProd 0 16 (prod + rs.length)

/-- A snapshot is taken (R351): it is skipped while the one before is still being written. -/
def snapshot (src : Nat) (timebase : Word64) (s : State) : State :=
  let s1 := s.setReg64 Reg.thrTimebase timebase.toNat
  if dumpPending s1 then s1.satFld Reg.winDumpStatus 0 16 1
  else
    let s2 := if s1.fld Reg.winDumpCtl 0 1 = 1 then dump src s1 else s1
    { s2 with win := { s2.win with snaps := s2.win.snaps + 1 } }

end Sys2Proof.Machine
end

