-- ==== Sys2Proof/Machine/Chimney.lean ====
section
/-! DEFINITION. The Chimney (14_chimney.md, R335-R347): operating points, the six loops, sensors and thermal decisions, and the power
states of rooms. Droops, margins, temperatures, event counts and static energy come with the commands (log entry 55). -/

namespace Sys2Proof.Machine

/-- Changes the Chimney's state. -/
def State.modChim (s : State) (f : Chimney → Chimney) : State := { s with chim := f s.chim }

/-- A CHIM_EVENT bit is set, and source 19 raised (R302, R346). -/
def chimEvent (bit : Nat) (s : State) : State := raiseSource 19 (s.orReg Reg.chimEvent (2 ^ bit))

/-- The loops are running (R304, stage 6). -/
def State.loopsRun (s : State) : Bool := s.fld Reg.chimStatus 0 1 == 1

/-- CHIM_ROOMn_CTL and CHIM_ROOMn_STAT of a room. -/
def ctlKey (r : RoomId) : Nat := Reg.chimRoomnCtl + 8 * r.val
def statKey (r : RoomId) : Nat := Reg.chimRoomnStat + 8 * r.val

/-- A room's frequency in MHz. -/
def State.mhz (s : State) (r : RoomId) : Nat := s.fld (ctlKey r) 3 11
/-- A room's corrected temperature in 1/16 °C. -/
def State.temp (s : State) (r : RoomId) : Int := signedOf (s.fld (statKey r) 0 13) 13

/-- A room that holds a running job (R343). -/
def busyRoom (s : State) (r : RoomId) : Bool :=
  (s.room r).power == .on && (match (s.room r).job with | some j => (s.job j).st == .running | none => false)

/-- The rooms that are ON. -/
def onRooms (s : State) : List RoomId := (List.finRange 32).filter (fun r => (s.room r).power == .on)

/-! ## Operating points -/

/-- The voltage of a room at a point of 0.30 GHz and 0.10 GHz steps; without a calibration, the built-in curve plus 25 mV (R338). -/
def pointMv (s : State) (r : RoomId) (p : Nat) : Nat :=
  match s.chim.cal with
  | some m => m.getN (18 * r.val + 2 * p) 2
  | none => Config.builtinVoltage r.val p + 25

/-- A room's voltage at a frequency: between two points, that of the higher one (R338). -/
def needMv (s : State) (r : RoomId) (mhz : Nat) : Nat := pointMv s r (min 8 (ceilDiv (mhz - 300) 100))

/-- CHIM_FLOOR: 300 to 1,100 MHz, rounded up to 25 MHz (R343). -/
def floorMhz (s : State) : Nat := max 300 (min 1100 (ceilDiv (s.fld Reg.chimFloor 0 11) 25 * 25))

/-- A room's target frequency (R339, R343, R346). -/
def targetMhz (s : State) (r : RoomId) : Nat :=
  if s.chim.emergency.getLsbD r.val then 300
  else
    let c := max 300 (min 1100 (s.chim.ceil.get r))
    if busyRoom s r then max (floorMhz s) c else c

/-- The group of a room (R335). -/
def railOf (r : RoomId) : Fin 4 := Fin.ofNat 4 (r.val / 8)
/-- A group's rail as requested of the PMIC, mV. -/
def State.rail (s : State) (g : Fin 4) : Nat := s.fld (Reg.chimGroupg + 4 * g.val) 0 10

/-- A room's requirement in mV: that of its target frequency, and while it still runs faster that of its frequency (R336, R341). -/
def requirement (s : State) (r : RoomId) : Nat := max (needMv s r (targetMhz s r)) (needMv s r (s.mhz r))

/-- The rail that a group wants: the highest requirement among its ON rooms, less 50 mV, in 5 mV steps from 0.45 to 0.85 V (R335,
R336). -/
def wantedRail (s : State) (g : Fin 4) : Nat :=
  let rooms := (onRooms s).filter (fun r => railOf r == g)
  let need := (rooms.map (requirement s)).foldl max 0
  max 450 (min 850 (ceilDiv (need - 50) 5 * 5))

/-- Requests a group's rail: a rise has to settle (R336). -/
def requestRail (s : State) (g : Fin 4) : State :=
  let want := wantedRail s g
  let have_ := s.rail g
  if want = have_ then s
  else
    let s1 := (s.setFld (Reg.chimGroupg + 4 * g.val) 0 10 want).modChim (fun c => { c with vreq := c.vreq ^^^ BitVec.ofNat 4 (2 ^ g.val) })
    if have_ < want then s1.modChim (fun c => { c with settling := c.settling.set g true }) else s1

/-- An integer quotient, rounded as the implementation rounds (log entry 15). -/
def roundDiv (site : Nat) (a : Int) (b : Nat) : Int :=
  let q := a / (b : Int)
  if a % (b : Int) ≠ 0 ∧ Config.roundUp site then q + 1 else q

/-- A value held to a range. -/
def holdInt (lo hi x : Int) : Int := max lo (min hi x)

/-- The LDO trim of a room in 5 mV units: its requirement above the rail, and the PI loop's correction towards CHIM_PI.margin
(R336, R341). -/
def trimOf (s : State) (r : RoomId) (err : Int) : Int :=
  let kp : Int := s.fld Reg.chimPi 0 8
  let ki : Int := s.fld Reg.chimPi 8 8
  let base : Int := holdInt (-50) 50 ((requirement s r : Int) - s.rail (railOf r))
  let total : Int := base * 256 + kp * 16 * err + ki * s.chim.integ.get r
  holdInt (-10) 10 (roundDiv 20 total 1280)

/-- One room in one microsecond: its frequency moves a step towards the target, up only once the rail has settled and the LDO trim is
set for the higher frequency (R339, R341). -/
def stepFreq (s : State) (r : RoomId) : State :=
  let f := s.mhz r
  let t := targetMhz s r
  let f' := if f < t then
      if s.chim.settling.get (railOf r) || decide (s.rail (railOf r) + 50 < needMv s r (min t (f + 25))) ||
          decide (s.chim.trimmed.get r < needMv s r (min t (f + 25))) then f else min t (f + 25)
    else max t (f - 25)
  s.setFld (ctlKey r) 3 11 f'

/-- One room's PI loop (R341). -/
def stepTrim (margins : List (RoomId × BitVec 8)) (s : State) (r : RoomId) : State :=
  let err : Int := match margins.find? (fun m => m.1 == r) with
    | some m => (s.fld Reg.chimPi 16 8 : Int) - (m.2.toNat : Int)
    | none => 0
  let s1 := s.modChim (fun c => { c with integ := c.integ.set r (c.integ.get r + err), trimmed := c.trimmed.set r (requirement s r) })
  s1.setFld (ctlKey r) 14 7 (wrapTo (trimOf s1 r err) 7)

/-- A microsecond of the room loops and of the rooms' counters (R339, R341, R348, R349). -/
def roomLoops (margins : List (RoomId × BitVec 8)) (cycles : List (RoomId × List CycleEvents)) (s : State) : State :=
  let s1 := cycles.foldl (fun s x => if (s.room x.1).power == .on then x.2.foldl (countCycle x.1) s else s) s
  if s1.loopsRun then
    let s2 := (onRooms s1).foldl stepFreq s1
    let s3 := (List.finRange 4).foldl requestRail s2
    (onRooms s3).foldl (stepTrim margins) s3
  else s1

/-- A rail's rise has settled (R336). -/
def railSettled (g : Fin 4) (s : State) : State := s.modChim (fun c => { c with settling := c.settling.set g false })

/-- A droop stretches one or two edges of a room's clock and is counted (R339, R341). -/
def droop (r : RoomId) (edges : Nat) (s : State) : State :=
  if edges = 0 ∨ (s.room r).power != .on then s else (s.satFld (statKey r) 13 19 1).modRoom r (fun m => { m with stretches := m.stretches + 1 })

/-! ## The budget -/

/-- Energy of an event in quarters of a pJ: calibrated, or 1.25 times the built-in value (R338, R342). -/
def eventEnergy (s : State) (i : Nat) : Nat :=
  match s.chim.cal with
  | some m => 4 * m.getN (0x300 + 4 * i) 4
  | none => 5 * Config.builtinEnergy i

/-- Sustained ceiling of the profile in force, mW (R340). -/
def profileMw (s : State) : Nat := if s.fld Reg.chimStatus 1 1 = 1 then 14000 else 3000

/-- CHIM_SKIN.min_mw in mW (R344). -/
def skinMin (s : State) : Nat := 8 * s.fld Reg.chimSkin 21 11

/-- The sustained ceiling in force, mW (R340, R344). -/
def sustainedMw (s : State) : Nat :=
  min (profileMw s) (if s.chim.stale then skinMin s else s.chim.skin.getD (profileMw s))

/-- Burst time used in the sliding window, in periods of 10 µs (R340). -/
def burstUsed (s : State) : Nat := s.chim.slots.foldl (· + ·) 0 + s.chim.slotBurst

/-- Whether the burst limit is in force: the handset's, while less than 2.0 s is used (R340). -/
def inBurst (s : State) : Bool := s.fld Reg.chimStatus 1 1 == 0 && decide (burstUsed s < 200000)

/-- The power limit in force, mW (R340). -/
def limitMw (s : State) : Nat := if inBurst s then 6000 else sustainedMw s

/-- Counts a period of the sliding window of 2,000 slots of 10 ms (R340). -/
def countBurst (overNow : Bool) (c : Chimney) : Chimney :=
  let n := c.slotBurst + b2n overNow
  if c.slotPeriods + 1 = 1000 then { c with slots := (n :: c.slots).take 1999, slotBurst := 0, slotPeriods := 0 }
  else { c with slotBurst := n, slotPeriods := c.slotPeriods + 1 }

/-- The first of a list of rooms that no other beats. -/
def firstBest (better : RoomId → RoomId → Bool) : List RoomId → Option RoomId
  | [] => none
  | x :: t => some (t.foldl (fun b y => if better y b then y else b) x)

/-- A budget period (R340, R342): energy, burst time, and the ceilings of the busy rooms. -/
def budget (events : List (RoomId × List Nat)) (otherPj : Nat) (s : State) : State :=
  if !s.loopsRun then s
  else
    let s0 := s.setFld Reg.chimStatus 1 1 (s.fld Reg.chimCtl 0 1)
    let total := (events.map (fun e => (e.2.zipIdx.map (fun n => n.1 * eventEnergy s0 n.2)).foldl (· + ·) 0)).foldl (· + ·) (4 * otherPj)
    let sum := s0.chim.rest + total
    let overNow := decide (40000 * sustainedMw s0 < total)
    let s1 := (s0.count64 Reg.chimEnergy (sum / 4000000)).modChim (fun c => countBurst overNow { c with rest := sum % 4000000 })
    let limit := 40000 * limitMw s1
    let busy := (List.finRange 32).filter (busyRoom s1)
    let floor := floorMhz s1
    let atFloor := !busy.isEmpty && busy.all (fun r => decide (s1.chim.ceil.get r ≤ floor))
    let s2 :=
      if limit < total then
        s1.modChim (fun c => { c with ceil := busy.foldl (fun v r => if floor < v.get r then v.set r (max floor (v.get r - 25)) else v) c.ceil })
      else if total * 100 < 95 * limit then
        match firstBest (fun a b => decide (s1.temp a < s1.temp b)) (busy.filter (fun r => decide (s1.chim.ceil.get r < 1100))) with
        | some r => s1.modChim (fun c => { c with ceil := c.ceil.set r (min 1100 (c.ceil.get r + 25)) })
        | none => s1
      else s1
    let s3 := s2.modChim (fun c => { c with overTicks := if limit < total ∧ atFloor then c.overTicks + 1 else 0 })
    let atFloor' := !busy.isEmpty && busy.all (fun r => decide (s3.chim.ceil.get r ≤ floor))
    ((s3.setFld Reg.chimStatus 2 1 (b2n (inBurst s3))).setFld Reg.chimStatus 4 1 (b2n atFloor')).setFld Reg.chimStatus 16 16 (burstUsed s3 / 100)

/-! ## Skin, bias and pacing -/

/-- The skin loop, once a second (R344). -/
def skinLoop (s : State) : State :=
  if !s.loopsRun then s
  else
    let c0 := s.chim
    if c0.stale then s.modChim (fun c => { c with skinAge := c.skinAge + 1 })
    else
      let err : Int := signedOf (s.fld Reg.chimSkin 0 13) 13 - 16 * (s.fld Reg.chimSkin 13 8 : Int)
      let integ := max 0 (c0.skinInteg + err)
      let less := roundDiv 21 ((s.fld Reg.chimSkinPi 0 16 : Int) * err + (s.fld Reg.chimSkinPi 16 16 : Int) * integ) 16
      let mw := max (skinMin s : Int) ((profileMw s : Int) - max 0 less)
      let low := decide (mw < (profileMw s : Int))
      (s.modChim (fun c => { c with skinInteg := integ, skinAge := c.skinAge + 1, skin := if low then some mw.toNat else none })).setFld
        Reg.chimStatus 3 1 (b2n low)

/-- The skin estimate is stale once three seconds have passed without a write (R344). -/
def skinStale (s : State) : State :=
  if s.loopsRun && decide (3 ≤ s.chim.skinAge) && !s.chim.stale then
    chimEvent 1 ((s.modChim (fun c => { c with stale := true })).setFld Reg.chimStatus 3 1 (b2n (decide (skinMin s < profileMw s))))
  else s

/-- A write of CHIM_SKIN is a fresh estimate (R344). -/
def writeSkin (c : Ctx) (v : Word) (s : State) : State :=
  (plainWrite c Reg.chimSkin v s).modChim (fun c => { c with skinAge := 0, stale := false })

/-- Placement bias of a room, in rows (R345). -/
def biasOf (s : State) (r : RoomId) : Nat :=
  let on := onRooms s
  let n : Int := on.length
  let step := s.fld Reg.chimBias 0 8
  if step = 0 ∨ on.isEmpty then 0
  else
    let sum := (on.map s.temp).foldl (· + ·) 0
    (holdInt 0 15 ((n * s.temp r - sum) / (16 * n * step))).toNat

/-- The placement bias loop of every room, once a millisecond (R345); a room that holds no job grows idle (R337). -/
def biasLoop (s : State) : State :=
  if !s.loopsRun then s
  else
    let s1 := (List.finRange 32).foldl (fun (x : State) r => x.setFld (ctlKey r) 21 4 (biasOf s r)) s
    s1.modChim (fun c => { c with idle := Vector.ofFn (fun r =>
      if (s1.room r).job.isNone && (s1.thr.joins.get r).isNone then c.idle.get r + 1 else 0) })

/-- A write of CHIM_PACE is a request of its own: if the claims hold it, it is reported (R345). -/
def writePace (c : Ctx) (v : Word) (s : State) : State := (plainWrite c Reg.chimPace v s).modChim (fun c => { c with paceHeld := false })

/-- Port pacing, every 10 µs: never below the admitted claims (R345). -/
def pacing (s : State) : State :=
  if !s.loopsRun then s
  else
    let want := s.fld Reg.chimPace 0 16
    let claims := s.fld Reg.thrPortClaimed 0 16 + s.fld Reg.thrPortClaimed 16 16
    let held := decide (want < claims)
    let s1 := s.modChim (fun c => { c with paced := max want claims, paceHeld := held })
    if held && !s.chim.paceHeld then chimEvent 2 s1 else s1

/-! ## Thermal decisions -/

/-- A thermal decision fences a room (R241, R343, R346). -/
def thermalDecision (r : RoomId) (bit : Nat) (s : State) : State :=
  chimEvent bit (fenceRoom r (s.modChim (fun c => { c with thermal := c.thermal ||| roomBit r })))

/-- With power above the limit for 10 ms and every busy room at the floor, the hottest busy room is fenced (R343). -/
def floorFence (s : State) : State :=
  if s.chim.overTicks < 1000 then s
  else
    let busy := (List.finRange 32).filter (fun r => busyRoom s r && !s.thr.fenceDue.getLsbD r.val)
    match firstBest (fun a b => decide (s.temp b < s.temp a)) busy with
    | some r => thermalDecision r 0 (s.modChim (fun c => { c with overTicks := 0 }))
    | none => s

/-- The correction of a room's sensor: offset in 1/16 °C and gain × 2¹⁵ (R338). -/
def sensorGain (s : State) (r : RoomId) : Nat :=
  match s.chim.cal with
  | some m => m.getN (0x240 + 4 * r.val) 4
  | none => (Config.builtinSensor r.val).toNat

/-- A sensor reading in 1/16 °C (R346): out of range it counts as 115 °C. -/
def sensor (r : RoomId) (raw : Int) (s : State) : State :=
  let w := sensorGain s r
  let bad := decide (raw < -640) || decide (2400 < raw)
  let t : Int := if bad then 1840 else holdInt (-640) 2400 (roundDiv 22 (raw * (bitsOf w 16 16 : Int)) 32768 + signedOf w 16)
  let th (lo : Nat) : Int := 16 * (s.fld Reg.chimTherm lo 8 : Int)
  let hot := decide (th 0 ≤ t)
  let cool := decide (t ≤ th 8)
  let em := decide (th 16 ≤ t)
  let s1 := (s.setFld (statKey r) 0 13 (wrapTo t 13)).modChim (fun c =>
    { c with hot := c.hot.set r (if hot then c.hot.get r + 1 else 0), cool := c.cool.set r (if cool then c.cool.get r + 1 else 0),
             emergency := if em then c.emergency ||| roomBit r else c.emergency &&& ~~~roomBit r })
  let s2 := if bad then chimEvent 4 s1 else s1
  if em then chimEvent 3 (s2.setFld (ctlKey r) 3 11 (min 300 (s2.mhz r))) else s2

/-- A room at or above fence_on for 1 ms is fenced (R346): ten readings, one every 100 µs. -/
def thermalFence (r : RoomId) (s : State) : State :=
  if decide (s.chim.hot.get r < 10) || s.chim.thermal.getLsbD r.val then s else thermalDecision r 5 s

/-- Stage 1 of R242 begins for a fenced room that nothing holds any more; a room that is OFF waits for its return to ON (R337). -/
def beginReadmit (r : RoomId) (s : State) : State :=
  if s.fenced.getLsbD r.val && !s.thr.faultFence.getLsbD r.val && !s.chim.thermal.getLsbD r.val && (s.room r).power != .off then
    noteReadmit ((s.modRoom r (fun m => { m with power := .on })).modThr (fun t => { t with readmit := t.readmit.set r .selfTest }))
  else s

/-- A room that the Chimney has fenced and that has been cool for 100 ms is released: it returns to ON and re-admission begins (R346);
one that a fault fence holds too waits for that (R347). A decision that has not taken effect is withdrawn. -/
def chimneyRelease (r : RoomId) (s : State) : State :=
  if decide (s.chim.cool.get r < 1000) || !s.chim.thermal.getLsbD r.val then s
  else
    let s1 := s.modChim (fun c => { c with thermal := c.thermal &&& ~~~roomBit r })
    if s1.fenced.getLsbD r.val then beginReadmit r s1
    else if s1.thr.faultFence.getLsbD r.val then s1
    else s1.modThr (fun t => { t with fenceDue := t.fenceDue &&& ~~~roomBit r })

/-! ## Power states -/

/-- A room that has held no job for idle_ms goes to RETAIN, its Hall queues drained (R24, R337). -/
def idleRetain (r : RoomId) (s : State) : State :=
  let ms := s.fld Reg.chimCtl 16 16
  if ms ≠ 0 ∧ ms ≤ s.chim.idle.get r ∧ (s.room r).power = .on ∧ (s.room r).job.isNone ∧ (s.thr.joins.get r).isNone ∧ s.thr.readmit.get r = .no then
    (quietRoom r s).modRoom r (fun m => { m with power := .retain })
  else s

/-- A retained room on which work is placed returns to ON (R337). -/
def wakeRoom (r : RoomId) (s : State) : State :=
  if (s.room r).power = .retain ∧ ((s.room r).job.isSome ∨ (s.thr.joins.get r).isSome) then
    settle r ((s.modRoom r (fun m => { m with power := .on })).modChim (fun c => { c with idle := c.idle.set r 0 }))
  else s

/-- The transition to OFF clears a room's arrays and its counters (R337, R349). -/
def roomOff (r : RoomId) (s : State) : State :=
  let s1 := (quietRoom r s).modRoom r (fun m =>
    { m with power := .off, shelf := [], chest := [], lamp := [], parlour := [], icache := [], ecc := [], rewrites := [] })
  ((clearCounters r s1).setReg64 (rreg r Reg.winCycles) 0).modThr (fun t => { t with readmit := t.readmit.set r .no })

/-- A write of CHIM_ROOMn_CTL (R337): OFF is taken only while the room is fenced; on the return to ON it runs its self-test. -/
def writeRoomCtl (r : RoomId) (v : Word) (s : State) : State :=
  if v.getLsbD 2 then
    if s.fenced.getLsbD r.val then noteReadmit (roomOff r (s.setFld (ctlKey r) 2 1 1)) else s
  else
    let s1 := s.setFld (ctlKey r) 2 1 0
    if (s1.room r).power = .off then
      noteReadmit ((s1.modRoom r (fun m => { m with power := .on })).modThr (fun t => { t with readmit := t.readmit.set r .selfTest }))
    else s1

/-- Stage 6 of start-up (R304): the gains take their reset values from the calibration, every room starts at 0.30 GHz and every
rail settles there (R338, log entry 56). -/
def chimneyStart (s : State) : State :=
  let gain (i : Nat) : BitVec 32 := match s.chim.cal with
    | some m => BitVec.ofNat 32 (m.getN (0x340 + 4 * i) 4)
    | none => Config.builtinGains i
  let s1 := (s.setReg Reg.chimPi (gain 0 &&& 0xFFFFFF)).setReg Reg.chimSkinPi (gain 1)
  let s2 := (onRooms s1).foldl (fun (s : State) r => s.setFld (ctlKey r) 3 11 300) s1
  let s3 := (onRooms s2).foldl (stepTrim []) ((List.finRange 4).foldl requestRail s2)
  (s3.modChim (fun c => { c with settling := Vector.replicate 4 false })).setFld Reg.chimStatus 0 1 1

end Sys2Proof.Machine
end

