-- ==== Sys2Proof/Machine/Threshold.lean ====
section
/-! DEFINITION. Threshold (R228-R253): its commands (R231), admission of streams (R233), feeds and token buckets (R234), its
1 ms tick with shedding (R236) and the placement loop (R239), time windows (R245), fencing and re-admission (R241, R242). -/

namespace Sys2Proof.Machine

/-! ## OPEN and RESTORE -/

/-- What OPEN and RESTORE name in their arguments (R231). -/
structure OpenArgs where
  job : Nat
  cls : Nat
  duplex : Bool
  attic : Nat
  win : Nat
  deriving DecidableEq, Repr

/-- The arguments of a context's command. -/
def openArgs (c : Ctx) (s : State) : OpenArgs :=
  let arg (a : Nat) : Nat := (s.reg (ctxKey c (Reg.thrCmdArga + 4 * a))).toNat
  { job := bitsOf (arg 0) 0 19, cls := bitsOf (arg 0) 19 2, duplex := bitAt (arg 0) 21,
    attic := arg 1 + 2 ^ 32 * bitsOf (arg 2) 0 16, win := arg 3 }

/-- The Attic records of what is opened: P's, and Q's in a duplex session. -/
def OpenArgs.records (a : OpenArgs) : List Nat := if a.duplex then [a.attic, Config.partnerAttic a.attic % 2 ^ 48] else [a.attic]

/-- The job of a context with a number (R286). -/
def jobWith (s : State) (c : Ctx) (number : Nat) : Option SlotId :=
  (List.finRange 8).find? (fun j => (s.job j).st != .free && (s.job j).number == number && (s.job j).ctx == c)

/-- Whether an Attic record, by its DRAM key, passes its magic, version and CRC checks (R231, R250). -/
def atticOk (s : State) (a : Nat) : Bool :=
  s.dnum a 4 == 0x43545441 && s.dnum (a + 4) 2 == 1 && s.dnum (a + 0x3C) 4 == crc32c (s.dbytes a 0x3C)

/-- The free entries at which so many entries in a row are free (R231). -/
def freeEntries (s : State) (n : Nat) : List Nat :=
  let used := s.streams
  (List.range (ledgerSize + 1 - n)).filter (fun i => (List.range n).all (fun k => !used.contains (i + k)))

/-- Whether a window in ticks is at least the job's worst-case step time, of 16 Hall cycles of 1.2 GHz a unit (R233, R275). -/
def windowFits (c : Sched) (win : Nat) : Bool := decide (c.stepTime * 16 * Config.timebaseKHz ≤ win * 1200000)

/-- d of R233: ⌈256 × T ÷ W⌉. -/
def liveShare (c : Sched) (win : Nat) : Nat := ceilDiv (256 * c.stepTime * 16 * Config.timebaseKHz) (win * 1200000)

/-- Whether the job's panes and Larder can hold the reservations of n more streams (R202, R173, R233). -/
def canReserve (s : State) (j : SlotId) (n : Nat) : Bool :=
  let b := s.job j
  let open_ := (s.streamsOf j).length
  let panes := ((b.desc.panes.filter (fun e => bitAt e 45)).map (fun e => 64 * bitsOf e 28 15)).foldl (· + ·) 0
  let pages := if b.desc.larder = 0 then 0 else (larderPages s (larderHdr s b.desc.larder)).length
  let same := (List.finRange 8).filter (fun k => (s.job k).st != .free && (s.job k).desc.larder == b.desc.larder)
  let held := (same.flatMap (fun k => (s.streamsOf k).map (fun i => s.led i Led.reserved))).foldl (· + ·) 0
  decide (b.sched.paneBytes * (open_ + n) ≤ panes * b.desc.rooms) && decide (b.sched.larderPages = 0 ∨ held + n * b.sched.larderPages ≤ pages)

/-- Why an OPEN or RESTORE is refused, in this order: 7, 8, 2, 4, 3, 5; none when it is admitted (R231, R233). -/
def openRefusal (a : OpenArgs) (restore : Bool) (j : Option SlotId) (s : State) : Option Nat :=
  match j with
  | none => some 7
  | some j =>
    let b := s.job j
    let n := a.records.length
    if restore && !a.records.all (fun x => atticOk s (ctxBase b.ctx.val + x)) then some 8
    else if (freeEntries s n).isEmpty then some 2
    else if a.cls = 0 ∧ (64 < s.liveStreams + n ∨ a.win = 0 ∨ windowFits b.sched a.win = false) then some 4
    else if a.cls = 0 ∧ 256 * b.reserves.getD 0 0 < s.liveDemand b.number + n * liveShare b.sched a.win then some 3
    else if !canReserve s j n then some 5
    else none

/-- An entry leaves FREE (R228, R229). A job without checkpoints keeps headers that name no image, and its streams are exempt from the
feed check of R252 (R295, log entry 128). -/
def openEntry (c : Ctx) (j : SlotId) (a : OpenArgs) (restore : Bool) (i partner : Nat) (q : Bool) (attic : Nat) (s : State) : State :=
  let b := s.job j
  let kind := a.cls + 4 * b2n (a.win != 0) + 8 * b2n a.duplex + 16 * b2n q
  let gen := s.led i Led.gen + 1
  let demand := if a.cls = 0 then liveShare b.sched a.win else 0
  let fields : List (LedField × Nat) := [(Led.state, Led.IDLE), (Led.kind, kind), (Led.gen, gen), (Led.ctx, c.val), (Led.room, 0xFF),
    (Led.job, b.number), (Led.partner, partner), (Led.demand, demand), (Led.attic, attic), (Led.winLen, a.win),
    (Led.reserved, b.sched.larderPages)]
  let s1 := fields.foldl (fun s f => s.setLed i f.1 f.2) s
  let pos := if restore then atticPos s1 i else 0
  let s2 := (s1.setLed i Led.fed pos).setLed i Led.consumed pos
  let s3 := if b.desc.ckpt then s2
    else (putHeader i 0xFF (s2.dnum (s2.atticKey i + 0x10) 8) 0 s2).modThr (fun t => { t with noCkpt := t.noCkpt ++ [i] })
  if a.win = 0 then s3 else s3.modThr (fun t => { t with noOrigin := t.noOrigin ++ [i] })

/-- OPEN and RESTORE (R231, R233): any of the free entries is taken. -/
def openStream (c : Ctx) (restore : Bool) (s : State) : State :=
  let a := openArgs c s
  let job := jobWith s c a.job
  match openRefusal a restore job s, job with
  | some code, _ => thrAnswer c code 0 s
  | none, none => thrAnswer c 7 0 s
  | none, some j =>
    match pickOf (freeEntries s a.records.length) s with
    | (none, s1) => thrAnswer c 2 0 s1
    | (some i, s1) =>
      let s2 := if a.duplex then
          openEntry c j a restore (i + 1) i true ((a.records)[1]?.getD 0) (openEntry c j a restore i (i + 1) false a.attic s1)
        else openEntry c j a restore i 0xFFFF false a.attic s1
      thrAnswer c 0 i (noteStreams s2)

/-! ## CLOSE, PARK and UNPARK -/

/-- CLOSE (R229, R249): at once, or at the release when a member is ACTIVE. -/
def closeStream (c : Ctx) (i : Nat) (s : State) : State :=
  if (s.unit i).any (fun x => s.led x Led.state == Led.ACTIVE) then
    thrAnswer c 0 i (s.modThr (fun t => { t with closing := t.closing ++ (s.unit i).filter (fun x => !t.closing.contains x) }))
  else thrAnswer c 0 i (closeUnit i s)

/-- PARK and UNPARK go to the Cellar and answer when it has finished (R231, R328). -/
def toCellar (c : Ctx) (op i : Nat) (s : State) : State :=
  if (s.unit i).any (fun x => s.led x Led.state != (if op = 3 then Led.IDLE else Led.PARKED)) then thrAnswer c 6 i s
  else
    let s1 := (s.setReg (ctxKey c Reg.thrCmdStatus) 0).modThr (fun t => { t with cmds := t.cmds.set c (some ⟨op, i⟩) })
    celGo (s1.modCel (fun x => { x with waiting := x.waiting ++ [if op = 3 then .park c i else .unpark c i] }))

/-- Ops 2 to 4 on an entry (R231). -/
def entryCommand (c : Ctx) (op i : Nat) (s : State) : State :=
  let s1 := readEntry i s
  if s1.led i Led.state = Led.FREE then thrAnswer c 6 i s1
  else if s1.led i Led.ctx ≠ c.val then thrAnswer c 7 i s1
  else if op = 2 then closeStream c i s1
  else toCellar c op i s1

/-- A write of THR_CMD (R231): discarded, with result 1 shown, while the context's previous command has not answered. -/
def thrCommand (c : Ctx) (v : Word) (s : State) : State :=
  let op := bitsOf v.toNat 0 4
  if (s.thr.cmds.get c).isSome then s.setReg (ctxKey c Reg.thrCmdStatus) 2
  else if op = 1 then openStream c false s
  else if op = 5 then openStream c true s
  else if 2 ≤ op ∧ op ≤ 4 then entryCommand c op (bitsOf v.toNat 4 12) s
  else thrAnswer c 11 0 s

/-! ## Feeds -/

/-- Whether a class is shedding: only BULK and BACKGROUND do (R236). -/
def sheds (s : State) (cls : Nat) : Bool := (cls == 3 && s.thr.shedBulk) || (cls == 2 && s.thr.shedBg)

/-- Whether a feed of n positions would overwrite a position at or after the checkpoint's (R252): also of a stream whose checkpointed job
has ended, but never of one whose job is not checkpointed (R295). -/
def overwrites (s : State) (i n : Nat) : Bool :=
  let exempt := match s.jobOf i with
    | some j => !(s.job j).desc.ckpt
    | none => s.thr.noCkpt.contains i
  !exempt && decide (ringSize s i < s.led i Led.fed + n - atticPos s i)

/-- The first check that a feed fails, or 0 (R234). -/
def feedResult (c : Ctx) (i n : Nat) (s : State) : Nat :=
  let st := s.led i Led.state
  let cls := s.classOf i
  if ¬(Led.IDLE ≤ st ∧ st ≤ Led.ACTIVE) ∨ s.led i Led.ctx ≠ c.val then 5
  else if sheds s cls then 1
  else if s.thr.bucket.get (Fin.ofNat 4 cls) < 16 * n then 2
  else if s.fld (Reg.thrClasscCfg + 0x10 * cls) 8 12 < s.pendingOf cls + n then 3
  else if overwrites s i n then 4
  else 0

/-- An accepted feed (R229, R234, R245): the origin of a windowed stream is its first record's timestamp. -/
def acceptFeed (i n : Nat) (s : State) : State :=
  let cls := Fin.ofNat 4 (s.classOf i)
  let s1 := s.modThr (fun t => { t with bucket := t.bucket.set cls (t.bucket.get cls - 16 * n) })
  let s2 := if s.thr.noOrigin.contains i && decide (0 < n) then
      (s1.setLed i Led.origin (logRec s1 i (s1.led i Led.fed)).time).modThr (fun t => { t with noOrigin := t.noOrigin.filter (· != i) })
    else s1
  let s3 := s2.setLed i Led.fed (s2.led i Led.fed + n)
  noteOldest i (if s3.led i Led.state = Led.IDLE then s3.setLed i Led.state (restState s3 i) else s3)

/-- A write of THR_FEED (R234). -/
def feed (c : Ctx) (v : Word) (s : State) : State :=
  let i := bitsOf v.toNat 0 12
  let n := bitsOf v.toNat 12 16
  let s1 := readEntry i s
  let code := feedResult c i n s1
  let s2 := s1.setReg (ctxKey c Reg.thrFeedStatus) (BitVec.ofNat 32 code)
  if code = 5 then s2
  else
    let s3 := s2.setLed i Led.kind (setBits (s2.led i Led.kind) 5 1 (b2n (sheds s2 (s2.classOf i))))
    if code = 0 then noteStreams (acceptFeed i n s3)
    else (s3.satFld (Reg.thrClasscShed + 0x10 * s3.classOf i) 0 32 1).satLed i Led.refused 1

/-! ## The 1 ms tick -/

/-- THR_SHED_HOLD.ms: 0 acts as 1. -/
def shedHold (s : State) : Nat := max 1 (s.fld Reg.thrShedHold 0 8)

/-- A class's shedding after a tick (R236): whether it sheds, its ticks in a row at or below `off`, and the ticks before its
next change. -/
def shedStep (hold on off p : Nat) (shed : Bool) (quiet wait : Nat) : Bool × Nat × Nat :=
  let q := if p ≤ off then quiet + 1 else 0
  let w := wait - 1
  if w = 0 ∧ shed = false ∧ on ≤ p then (true, 0, hold)
  else if w = 0 ∧ shed = true ∧ hold ≤ q then (false, q, hold)
  else (shed, q, w)

/-- Shedding is decided after a tick (R236). -/
def shedTick (s : State) : State :=
  let p := s.pendingOf 1 + s.pendingOf 2 + s.pendingOf 3
  let hold := shedHold s
  let t := s.thr
  let (b, qb, wb) := shedStep hold (s.fld Reg.thrShedBulk 0 16) (s.fld Reg.thrShedBulk 16 16) p t.shedBulk t.quietBulk t.sinceBulk
  let (g, qg, wg) := shedStep hold (s.fld Reg.thrShedBg 0 16) (s.fld Reg.thrShedBg 16 16) p t.shedBg t.quietBg t.sinceBg
  let s1 := s.modThr (fun t => { t with shedBulk := b, quietBulk := qb, sinceBulk := wb, shedBg := g, quietBg := qg, sinceBg := wg })
  (s1.setFld Reg.thrStatus 0 1 (b2n b)).setFld Reg.thrStatus 1 1 (b2n g)

/-- A bucket holds at most depth tokens, in sixteenths (R234). -/
def bucketTop (s : State) (cls : Nat) : Nat := 16 * s.fld (Reg.thrClasscBucket + 0x10 * cls) 16 16

/-- Every bucket is refilled (R234). -/
def refill (s : State) : State :=
  s.modThr (fun t => { t with bucket := Vector.ofFn (fun (c : Fin 4) =>
    min (bucketTop s c.val) (t.bucket.get c + s.fld (Reg.thrClasscBucket + 0x10 * c.val) 0 16)) })

/-- A room in the placement loop: logical, physical, score and free rows. -/
structure Score where
  logical : Nat
  phys : RoomId
  score : Nat
  free : Nat
  deriving DecidableEq, Repr

/-- Where a placed row's stream is or is to move (R240). -/
def Job.spot (b : Job) (x : PlacedRow) : Nat :=
  match b.moves.find? (fun m => m.1 == x.stream) with
  | some m => m.2
  | none => x.room

/-- The scores of a gang's rooms (R239). -/
def gangScores (s : State) (b : Job) (mask : Nat) : List Score :=
  b.rooms.zipIdx.filterMap (fun x => match x.1 with
    | some r =>
      if bitAt mask x.2 then
        let n := (b.placed.filter (fun y => b.spot y == x.2)).length
        some ⟨x.2, r, n + s.fld (ctlKey r) 21 4, b.sched.rows - n⟩
      else none
    | none => none)

/-- The first of a list that no other beats. -/
def bestScore (better : Score → Score → Bool) (l : List Score) : Option Score :=
  l.foldl (fun b x => match b with
    | none => some x
    | some y => if better x y then some x else some y) none

/-- The streams that may move from a room: not deciding to move already, and not moved within min_dwell ms (R239). A pair moves
whole, and needs two rows (R249). -/
def movable (s : State) (b : Job) (l free : Nat) : List Nat :=
  let dwell := s.fld Reg.thrPlace 8 8
  let still (i : Nat) : Bool := !(b.moves.any (fun m => m.1 == i)) &&
    (match s.thr.movedMs.find? (fun m => m.1 == i) with
     | some m => decide (dwell ≤ s.thr.ms - m.2)
     | none => true)
  ((b.placed.filter (fun x => b.spot x == l)).map PlacedRow.stream).filter (fun i =>
    (s.unit i).all still && decide ((s.unit i).length ≤ free))

/-- The placement loop of one gang, with the moves left (R239). -/
def placeGang (j : SlotId) (mask : Nat) : Nat → State → State
  | 0, s => s
  | k + 1, s =>
    let b := s.job j
    let l := gangScores s b mask
    let hi := bestScore (fun x y => decide (y.score < x.score) || (x.score == y.score && decide (x.phys < y.phys))) l
    let lo := bestScore (fun x y => decide (x.score < y.score) || (x.score == y.score && decide (x.phys < y.phys))) l
    match hi, lo with
    | some hi, some lo =>
      if hi.score < lo.score + 2 ∨ lo.free = 0 then s
      else
        let older (x y : Nat) : Bool := decide (s.led x Led.lastMove < s.led y Led.lastMove) || (s.led x Led.lastMove == s.led y Led.lastMove && decide (x < y))
        let first := (movable s b hi.logical lo.free).foldl (fun (a : Option Nat) i => match a with
          | none => some i
          | some y => if older i y then some i else some y) none
        match first with
        | none => s
        | some i => placeGang j mask k (s.modJob j (fun b => { b with moves := b.moves ++ (s.unit i).map (fun x => (x, lo.logical)) }))
    | _, _ => s

/-- The placement loop runs over every gang of every running job (R239). -/
def placementLoop (s : State) : State :=
  if s.fld Reg.thrCtl 0 1 = 0 then s
  else
    let n := s.fld Reg.thrPlace 0 4
    ((List.finRange 8).filter (fun j => (s.job j).st == .running)).foldl (fun s j =>
      (s.job j).sched.gangs.foldl (fun s mask => placeGang j mask n s) s) s

/-- The number that a Gray-coded sample of the system counter carries (R23, R372): each bit is the exclusive-or of the sample's bits from
it upward. -/
def grayDecode (g : Word64) : Word64 := [1, 2, 4, 8, 16, 32].foldl (fun x k => x ^^^ (x >>> k)) g

/-- The system counter is sampled (R245). -/
def setTimebase (t : Word64) (s : State) : State := s.setReg64 Reg.thrTimebase t.toNat

/-- Threshold's 1 ms tick, which does not run before ready (R234, R236, R239). -/
def thresholdTick (t : Word64) (s : State) : State :=
  let s1 := setTimebase t s
  if !s1.ready then s1
  else placementLoop (shedTick (refill (s1.modThr (fun t => { t with ms := t.ms + 1 }))))

/-! ## Windows and pages -/

/-- A window of a stream becomes due (R245): the next one that is not due yet, when the counter has reached its end plus the
grace. An IDLE stream then has a position pending. -/
def windowDue (i : Nat) (t : Word64) (s : State) : State :=
  let s1 := setTimebase t s
  let st := s1.led i Led.state
  let at_ := winDueAt s1 i (s1.led i Led.window + (s1.dueOf i).length)
  if s1.windowed i && decide (Led.IDLE ≤ st ∧ st ≤ Led.ACTIVE) && !s1.thr.noOrigin.contains i && decide (at_ ≤ t.toNat) then
    let s2 := s1.modThr (fun t => { t with due := t.due ++ [⟨i, at_⟩] })
    if st = Led.IDLE then s2.setLed i Led.state Led.READY else s2
  else s1

/-- The Hall has carried the states that a job's next step waits for (R240). -/
def stateMoveCopy (j : SlotId) (s : State) : State := settleAll (copyStates j s)

/-- A spilled page of a job's Larder is fetched back (R171). -/
def spillPrefetch (j : SlotId) (p : Nat) (s : State) : State :=
  let b := s.job j
  if b.st.live && b.desc.larder != 0 then prefetchPage (larderHdr s b.desc.larder) p s else s

/-- A write of THR_LEDGER_SEL: the entry is captured (R228, R230). -/
def ledgerSel (v : Word) (s : State) : State :=
  let i := bitsOf v.toNat 0 12
  let s1 := (readEntry i s).setReg Reg.thrLedgerSel (BitVec.ofNat 32 i)
  (List.range 64).foldl (fun s w => s.setReg (Reg.thrLedgerDataw + 4 * w) (BitVec.ofNat 32 (s1.thr.ledger.getN (256 * i + 4 * w) 4))) s1

/-! ## Fencing and re-admission -/

/-- The rooms of a mask, in order. -/
def roomsOf (v : Word) : List RoomId := (List.finRange 32).filter (fun r => v.getLsbD r.val)

/-- A write of THR_FENCE (R241). -/
def thrFence (v : Word) (s : State) : State :=
  let s1 := s.modThr (fun t => { t with faultFence := t.faultFence ||| v })
  noteReadmit ((roomsOf v).foldl (fun s r => fenceRoom r s) s1)

/-- A write of THR_UNFENCE: R242 starts for the fenced rooms it names (R242, R347). -/
def thrUnfence (v : Word) (s : State) : State :=
  (roomsOf (v &&& s.fenced)).foldl (fun s r =>
    beginReadmit r (s.modThr (fun t => { t with faultFence := t.faultFence &&& ~~~roomBit r }))) s

/-- A room that no fence holds joins the job that it is on its way into, or one that lacks a room; without either it is free
(R241, R242). -/
def admitRoom (r : RoomId) (s : State) : State :=
  let waiting := (List.finRange 8).filter (fun j => (s.job j).st.live && (s.job j).noRoom && decide (0 < lacking s j))
  let (job, s1) := match s.thr.joins.get r with
    | some j => (some j, s)
    | none => pickOf waiting s
  match job with
  | none => noteReadmit (s1.modThr (fun t => { t with readmit := t.readmit.set r .no }))
  | some j =>
    if (s1.job j).st = .running then
      noteReadmit (s1.modThr (fun t => { t with joins := t.joins.set r (some j), readmit := t.readmit.set r .load }))
    else joinRoom r j s1

/-- Stage 1 of R242 ends: the self-test of a room has passed or failed. -/
def selftestDone (r : RoomId) (pass : Bool) (s : State) : State :=
  if s.thr.readmit.get r ≠ .selfTest ∨ (s.room r).power ≠ .on then s
  else if pass then
    let s1 := s.orReg Reg.porchRoomsOk (2 ^ r.val)
    if s1.thr.faultFence.getLsbD r.val || s1.chim.thermal.getLsbD r.val then
      noteReadmit (s1.modThr (fun t => { t with readmit := t.readmit.set r .no }))
    else admitRoom r { s1 with fenced := s1.fenced &&& ~~~roomBit r }
  else
    let s1 := s.setReg Reg.porchRoomsOk (s.reg Reg.porchRoomsOk &&& ~~~roomBit r)
    let s2 := thrEvent 2 (s1.modThr (fun t => { t with faultFence := t.faultFence ||| roomBit r }))
    let s3 := (fenceRoom r s2).modThr (fun t => { t with readmit := t.readmit.set r .no, joins := t.joins.set r none })
    noteReadmit s3

/-- The states of the streams whose room is gone follow into a room's Chest, when the job's state is resident (R240). -/
def carryStates (r : RoomId) (j : SlotId) (s : State) : State :=
  match (s.job j).desc.resident, goneRoom s j with
  | true, some old =>
    moveStates j (((s.streamsOf j).filter (fun i => s.led i Led.room == old)).map (fun i =>
      ⟨i, Fin.ofNat 32 old, s.led i Led.row, r, s.led i Led.row⟩)) s
  | _, _ => s

/-- Stages 2 to 4 of R242: the room is loaded and joins the job, which is held between two steps: its next step starts. -/
def loadDone (r : RoomId) (s : State) : State :=
  match s.thr.readmit.get r, s.thr.joins.get r with
  | .load, some j =>
    if (s.job j).st = .running then
      let l := (s.job j).rooms.findIdx? Option.isNone
      let s1 := joinRoom r j (carryStates r j s)
      let s2 := match l with
        | some l => loadRoom j l r s1
        | none => s1
      settleAll (proceed j ((s2.job j).chans.foldl (fun s ch => joinMembers ch s) s2))
    else joinRoom r j s
  | _, _ => s

end Sys2Proof.Machine
end

