-- ==== Sys2Proof/Machine/Porch.lean ====
section
/-! DEFINITION. The Porch (R280-R308): queues and submissions (R281-R287), the life of a job (R288, R289), faults and restarts
(R290-R299), context reset (R301), interrupts (R302, R303), and the release of barriers (R206, R211), at which steps end. -/

namespace Sys2Proof.Machine

/-! ## Submissions -/

/-- A submission entry (R282). -/
structure Entry where
  addr : Nat
  tag : Nat
  op : Nat
  number : Nat
  /-- A reserved field is not zero. -/
  bad : Bool
  deriving DecidableEq, Repr

/-- The entry at a queue's head, in the context of the queue's owner (R188, R281, R282): the address that it names is a DRAM key. -/
def headEntry (s : State) (q : Fin 16) : Entry :=
  let a := s.reg64 (Reg.porchQqSbase + qOff q) % 2 ^ 48 / 0x1000 * 0x1000 + 32 * (s.fld (Reg.porchQqHead + qOff q) 0 16 % qSize s q)
  let v := s.dnum (ctxBase (qOwner s q) + a) 32
  { addr := ctxBase (qOwner s q) + bitsOf v 0 48, tag := bitsOf v 64 32, op := bitsOf v 96 8, number := bitsOf v 128 19,
    bad := bitsOf v 48 16 != 0 || bitsOf v 104 24 != 0 || bitsOf v 147 13 != 0 || bitsOf v 160 96 != 0 }

/-- Entries of a queue that the Porch has not taken (R283). -/
def qWaiting (s : State) (q : Fin 16) : Nat :=
  (s.fld (Reg.porchQqTail + qOff q) 0 16 + 2 ^ 16 - s.fld (Reg.porchQqHead + qOff q) 0 16) % 2 ^ 16

/-- Whether the Porch may take an entry of a queue: it is enabled and not stopped, has one, has had its previous one answered,
and its completion ring has room (R283, R285). -/
def qReady (s : State) (q : Fin 16) : Bool :=
  let k := Reg.porchQqCfg + qOff q
  s.fld k 9 1 == 1 && s.fld k 11 1 == 0 && qWaiting s q != 0 && (s.porch.queues.get q).awaits.isNone &&
    (s.porch.queues.get q).held.isEmpty && qRoom s q

/-- The queue that is served next: round-robin in ascending order (R283). -/
def nextQueue (s : State) : Option (Fin 16) :=
  ((List.range 16).map (fun i => Fin.ofNat 16 (s.porch.last.val + 1 + i))).find? (qReady s)

/-- Takes the entry at a queue's head; from now on the queue waits for an answer. -/
def takeEntry (q : Fin 16) (w : Await) (s : State) : State :=
  let s1 := s.setFld (Reg.porchQqHead + qOff q) 0 16 (s.fld (Reg.porchQqHead + qOff q) 0 16 + 1)
  ({ s1 with porch := { s1.porch with last := q } }).modPorchQ q (fun x => { x with awaits := some w })

/-- Answers an entry that has no job (R284). -/
def answerEntry (q : Fin 16) (e : Entry) (number result : Nat) (s : State) : State :=
  complete q { tag := e.tag, number := number, result := result } (takeEntry q .answer s)

/-- Answers an entry that leaves its job as it is: with the job's number, its restarts and its last fault (R284). -/
def answerJob (q : Fin 16) (e : Entry) (j : SlotId) (result : Nat) (s : State) : State :=
  let b := s.job j
  complete q { tag := e.tag, number := b.number, result := result, fault := b.lastFault, restarts := b.restarts, flog := b.lastLog,
               step := b.faultHigh.getD b.highest } (takeEntry q .answer s)

/-- The number of no job. -/
def noNumber : Nat := 0xFFFFFFFF

/-- The job that an entry names: one admitted through this queue (R284). -/
def entryJob (s : State) (q : Fin 16) (e : Entry) : Option SlotId :=
  (List.finRange 8).find? (fun j => (s.job j).st != .free && (s.job j).number == e.number && (s.job j).queue == q)

/-- The next job number: it skips 0x7_FFFF and numbers still held (R286). -/
def nextNumber (s : State) : Nat → Nat
  | 0 => 0
  | k + 1 =>
    let n := (s.porch.number + (10 - k)) % 2 ^ 19
    if n = hostJob ∨ (List.finRange 8).any (fun j => (s.job j).st != .free && (s.job j).number == n) then nextNumber s k else n

/-- Words that jobs still to load will bind and have not bound (R276). -/
def promisedWords (s : State) : Nat :=
  (((List.finRange 8).filter (fun j => (s.job j).st == .loading || (s.job j).st == .restarting)).map (fun j =>
    let b := s.job j
    s.dnum b.desc.sync 2 - (wordsWhere s (fun v => wordCtx v == b.ctx.val && wordJob v == b.number)).length)).foldl (· + ·) 0

/-- Whether a handle of a context is bound by another owner than a job, or will be by one that loads (R276). -/
def handleTaken (s : State) (c own h : Nat) : Bool :=
  (match s.keyWord c h with
   | some w => !(wordJob (s.word w) == own && wordCtx (s.word w) == c)
   | none => false) ||
  (List.finRange 8).any (fun j =>
    let b := s.job j
    b.st == .loading && b.ctx.val == c && b.number != own && (syncTable s b.desc.sync).any (fun e => e.handle == h))

/-- Whether the resources of R284 for a job are there: channels, groups, rooms, words, handles and its Pantry region. `own` is
the number of a job that resumes, whose words count as free. -/
def resourcesOk (s : State) (d : JobDesc) (c : Sched) (own : Nat) : Bool :=
  let table := syncTable s d.sync
  let mine := (wordsWhere s (fun v => wordCtx v == d.ctx && wordJob v == own)).length
  let others := s.runningJobs.map s.job
  decide (d.chans ≤ (freeChans s).length) && decide (c.gangs.length ≤ (freeGroups s).length) && decide (d.rooms ≤ (freeRooms s).length) &&
    decide (table.length + promisedWords s + usedWords s ≤ syncWords + mine) &&
    table.all (fun e => !handleTaken s d.ctx own e.handle) &&
    decide (d.pantryBase + d.pantrySize ≤ Store.size .pantry) &&
    others.all (fun b => d.pantrySize == 0 || b.desc.pantrySize == 0 || decide (d.pantryBase + d.pantrySize ≤ b.desc.pantryBase) ||
      decide (b.desc.pantryBase + b.desc.pantrySize ≤ d.pantryBase))

/-- L of R293. -/
def restartBytes (s : State) (d : JobDesc) : Nat := progSize s d.prog + (if d.resident then 0x80000 * d.rooms else 0)

/-- Whether the bound of R293 exceeds PORCH_RESTART_LIMIT (R296): the claim is in units of 100 B/µs. -/
def restartTooLong (s : State) (d : JobDesc) (c : Sched) : Bool :=
  decide (s.fld Reg.porchRestartLimit 0 16 * (100 * c.readClaim) < 200 * (100 * c.readClaim) + restartBytes s d) || c.readClaim == 0

/-- The checks of R287 after the images, in order: the first that fails gives the result. -/
def jobRefusal (s : State) (q : Fin 16) (d : JobDesc) (c : Sched) (reserves : List Nat) (own : Nat) (slots : Bool) : Option Nat :=
  let sum (f : Job → Nat) : Nat := ((s.runningJobs.map s.job).map f).foldl (· + ·) 0
  if d.ctx ≠ qOwner s q then some Res.context
  else if s.fld Reg.thrPortBudget 0 16 < sum (fun b => b.sched.readClaim) + c.readClaim ∨
      s.fld Reg.thrPortBudget 16 16 < sum (fun b => b.sched.writeClaim) + c.writeClaim then some Res.bandwidth
  else if c.rows * d.rooms < reserves.foldl (· + ·) 0 then some Res.reserve
  else if restartTooLong s d c then some Res.restart
  else if !slots || !resourcesOk s d c own then some Res.resources
  else none

/-- The class reserves that the next admission takes. -/
def currentReserves (s : State) : List Nat := (List.range 4).map (fun c => s.fld (Reg.thrClasscCfg + 0x10 * c) 0 7)

/-- SUBMIT (R287, R288): a job that passes takes one of the free slots and is LOADING. -/
def submitEntry (q : Fin 16) (e : Entry) (s : State) : State :=
  if !imagesOk s e.addr then answerEntry q e noNumber Res.image s
  else
    let d := jobDesc s e.addr
    let c := schedOf s d.sched
    let slots := (List.finRange 8).filter (fun j => (s.job j).st == .free)
    match jobRefusal s q d c (currentReserves s) noNumber (!slots.isEmpty), pickOf slots s with
    | none, (some j, s1) =>
      let n := nextNumber s 10
      let job : Job := { st := .loading, queue := q, ctx := Fin.ofNat 32 d.ctx, number := n, tag := e.tag, desc := d, sched := c,
                         reserves := currentReserves s }
      let s2 := takeEntry q (.job j false) ({ s1 with porch := { s1.porch with number := n } })
      openLarder d.larder (placeJob j (s2.modJob j (fun _ => job)))
    | some r, _ => answerEntry q e noNumber r s
    | none, _ => answerEntry q e noNumber Res.resources s

/-- RESUME of a PREEMPTED job (R288): the checks of R287 on its images as they are now. -/
def resumeEntry (q : Fin 16) (e : Entry) (j : SlotId) (s : State) : State :=
  let b := s.job j
  if !imagesOk s b.desc.addr then answerJob q e j Res.image s
  else
    let d := jobDesc s b.desc.addr
    let c := schedOf s d.sched
    match jobRefusal s q d c b.reserves b.number true with
    | some r => answerJob q e j r s
    | none =>
      let s1 := takeEntry q (.job j false) s
      openLarder d.larder (placeJob j (s1.modJob j (fun b => { b with st := .loading, tag := e.tag, desc := d, sched := c })))

/-- END and PREEMPT (R288, R289): one that arrives during a restart waits until the replay has passed its step. -/
def endEntry (q : Fin 16) (e : Entry) (j : SlotId) (s : State) : State :=
  let b := s.job j
  let step := if b.st = .restarting then max b.step b.replayTo else b.step
  (takeEntry q (.job j true) s).modJob j (fun b => { b with endReq := some ⟨e.op == 4, e.tag, step⟩ })

/-- The Porch takes the next entry, if its op is one that this command stands for: `ops` (R283). It reads memory, which waits for
credits (R364, R378). -/
def takeNext (ops : Nat → Bool) (k : Fin 16 → Entry → State → State) (s : State) : State :=
  match nextQueue s with
  | none => s
  | some q =>
    let e := headEntry s q
    if !ops e.op || !s.canRead then s
    else if e.bad || e.op == 0 || decide (5 < e.op) then answerEntry q e noNumber Res.badEntry s
    else k q e s

/-- An entry that names a job: a number not admitted through this queue, or a state that the op does not take, is bad (R284). -/
def onJob (st : JobState → Bool) (k : Fin 16 → Entry → SlotId → State → State) (q : Fin 16) (e : Entry) (s : State) : State :=
  match entryJob s q e with
  | some j => if st (s.job j).st then k q e j s else answerJob q e j Res.badEntry s
  | none => answerEntry q e noNumber Res.badEntry s

/-- A SUBMIT entry, or one with a reserved op, is taken. -/
def submit (s : State) : State := takeNext (fun op => op == 1 || op == 0 || decide (5 < op)) submitEntry s

/-- An END entry is taken. -/
def endJob (s : State) : State := takeNext (· == 2) (onJob (fun x => x == .running || x == .restarting) endEntry) s

/-- A PREEMPT entry is taken. -/
def preempt (s : State) : State := takeNext (· == 4) (onJob (fun x => x == .running || x == .restarting) endEntry) s

/-- An ABORT entry is taken: the job stops at once, whatever its state (R288, R289). -/
def abort (s : State) : State :=
  settleAll (takeNext (· == 3) (onJob (fun x => x != .free) (fun q e j s => leaveSlot j Res.aborted e.tag (takeEntry q (.job j true) s))) s)

/-- A RESUME entry is taken. -/
def resume (s : State) : State := takeNext (· == 5) (onJob (fun x => x == .preempted) resumeEntry) s

/-! ## Queue registers -/

/-- A doorbell (R281, R283). -/
def doorbell (q : Fin 16) (v : Word) (s : State) : State :=
  let s1 := s.setFld (Reg.porchQqTail + qOff q) 0 16 (bitsOf v.toNat 0 16)
  if qSize s1 q < qWaiting s1 q then raiseSource 23 (s1.setFld (Reg.porchQqCfg + qOff q) 11 1 1) else s1

/-- A write of PORCH_Qq_CFG: the size only while the queue is disabled, the owner only from context 0 (R280, R281). -/
def writeQCfg (c : Ctx) (q : Fin 16) (v : Word) (s : State) : State :=
  let k := Reg.porchQqCfg + qOff q
  let x := v.toNat
  let s1 := if s.fld k 9 1 = 0 then s.setFld k 0 4 (bitsOf x 0 4) else s
  let s2 := if c.val = 0 then s1.setFld k 4 5 (bitsOf x 4 5) else s1
  let s3 := s2.setFld k 9 2 (bitsOf x 9 2)
  if bitAt x 11 then s3.setFld k 11 1 0 else s3

/-- A write of PORCH_Qq_CHEAD: held completions follow into the ring (R285). -/
def writeChead (q : Fin 16) (v : Word) (s : State) : State :=
  let s1 := s.setFld (Reg.porchQqChead + qOff q) 0 16 (bitsOf v.toNat 0 16)
  drainCompl q (s1.porch.queues.get q).held.length s1

/-! ## Interrupt registers -/

/-- A write of PORCH_IRQv_STATUS: the message is written again while a cause remains (R303). -/
def writeIrqStatus (c : Ctx) (v : Fin 8) (x : Word) (s : State) : State :=
  sendMessage v.val (plainWrite c (Reg.porchIrqvStatus + 0x20 * v.val) x s)

/-- A write of PORCH_IRQv_ENABLE: a masked status that leaves zero sends the message (R303). -/
def writeIrqEnable (c : Ctx) (v : Fin 8) (x : Word) (s : State) : State :=
  let k := 0x20 * v.val
  let was := s.reg (Reg.porchIrqvStatus + k) &&& s.reg (Reg.porchIrqvEnable + k)
  let s1 := plainWrite c (Reg.porchIrqvEnable + k) x s
  if was = 0 then sendMessage v.val s1 else s1

/-! ## Loading -/

/-- The image that a stream's state is in: of a job without checkpoints A, else the committed one, if there is one (R250, R295). -/
def stateImage (s : State) (j : SlotId) (i : Nat) : Option Nat := if (s.job j).desc.ckpt then atticImage s i else some 0

/-- Size of a stream's state images (R250). -/
def stateSize (s : State) (i : Nat) : Nat := s.dnum (s.atticKey i + 8) 4

/-- The image of a resident job's stream goes back to its row of the Chest; without one the state is zero (R293, R295). -/
def reloadState (j : SlotId) (i : Nat) (s : State) : State :=
  let room := s.led i Led.room
  if room < 32 ∧ (s.job j).physical.any (fun r => r.val == room) then
    let (off, n) := Config.rowState (s.led i Led.row)
    let size := stateSize s i
    let bs := match stateImage s j i with
      | some x => s.dbytes (imageAddr (s.atticKey i) x size) (min n size) ++ List.replicate (n - size) 0
      | none => List.replicate n 0
    match storeBytes (some (Fin.ofNat 32 room)) .chest off (fitting .chest off bs) s with
    | .ok _ s1 => s1
    | .error e s1 => hubFault 0x23 j e s1
  else s

/-- The rooms of a job are loaded, with its resident states when it has run before, and at a start its sync table is bound (R243, R276);
a restart has bound it in its stage 2 (R293). -/
def loadJob (j : SlotId) (again : Bool) (s : State) : State :=
  let s1 := loadRooms j (if (s.job j).st = .loading then bindTable j s else s)
  if again && (s1.job j).desc.resident then (s1.streamsOf j).foldl (fun s i => reloadState j i s) s1 else s1

/-- Whether a job can load: every logical room has a room that is ON, no fault of it waits, and memory can be read. -/
def canLoad (s : State) (j : SlotId) : Bool :=
  s.canRead && (s.job j).rooms.all (fun x => match x with | some r => (s.room r).on | none => false) && (faultsOf s j).isEmpty

/-- A LOADING job's rooms are loaded (R288): it runs, with an ADMITTED completion. -/
def jobLoaded (j : SlotId) (s : State) : State :=
  if (s.job j).st ≠ .loading ∨ canLoad s j = false then s
  else
    let s1 := loadJob j (decide (0 < (s.job j).next)) s
    if !(faultsOf s1 j).isEmpty then s1
    else settleAll (jobCompl j Res.admitted (s1.job j).tag (startJob j (s1.job j).next s1))

/-! ## Faults and restarts -/

/-- Faults that belong to no job are recorded at once and stop nothing (R292). -/
def recordStray (s : State) : State :=
  (s.faults.filter (fun e => e.slot.isNone)).foldl (fun s e => writeFault e s) { s with faults := s.faults.filter (fun e => e.slot.isSome) }

/-- An SRAM_UNCORRECTABLE fault in a room counts toward its fence (R241): the second within ue_window ms decides it. -/
def countUe (e : FaultEvent) (s : State) : State :=
  match e.code, e.room with
  | .sramUncorrectable, some r =>
    let w := s.fld Reg.thrFenceCtl 0 16
    let again := s.thr.ue.any (fun x => x.1 == r && decide (s.thr.ms - x.2 ≤ w))
    let s1 := s.modThr (fun t => { t with ue := (t.ue.filter (fun x => decide (t.ms - x.2 ≤ w))) ++ [(r, t.ms)] })
    if w = 0 then s
    else if again then requestFence r (s1.modThr (fun t => { t with faultFence := t.faultFence ||| roomBit r }))
    else s1
  | _, _ => s

/-- The windows of a stream that are due by now, from its open window on (R245, R294). -/
def dueFrom (s : State) (i : Nat) : List DueWindow :=
  let w := s.led i Led.winLen
  let past := s.timebase - (s.reg Reg.thrWinGrace).toNat - s.led i Led.origin
  let ended := if w = 0 then 0 else past / w
  let k := s.led i Led.window
  (List.range (ended - k)).map (fun n => ⟨i, winDueAt s i (k + n)⟩)

/-- A stream of a job without checkpoints restarts from zero: its image A is cleared (R295). -/
def zeroState (i : Nat) (s : State) : State :=
  let n := stateSize s i
  hubWrite (imageAddr (s.atticKey i) 0 n) (List.replicate n 0) s

/-- A stream returns to where its job restarts from (R26, R229, R293, R295). -/
def rewindStream (ckpt : Bool) (i : Nat) (s : State) : State :=
  let st := s.led i Led.state
  if st = Led.PARKED ∨ st = Led.FAULTED then s
  else if !ckpt && decide (ringSize s i < s.led i Led.fed) then s.setLed i Led.state Led.FAULTED
  else
    let mark := if ckpt then s.thr.marks.find? (fun m => m.index == i) else none
    let s1 := (s.setLed i Led.consumed (if ckpt then atticPos s i else 0)).setLed i Led.window ((mark.map Mark.window).getD 0)
    let s2 := s1.modThr (fun t => { t with ahead := (t.ahead.filter (fun a => a.1 != i)) ++ ((mark.map Mark.ahead).getD []).map (fun p => (i, p)) })
    let due := if s2.windowed i && !s2.thr.noOrigin.contains i then dueFrom s2 i else []
    let s3 := s2.modThr (fun t => { t with due := t.due.filter (fun d => d.index != i) ++ due })
    noteOldest i ((if ckpt then s3 else zeroState i s3).setLed i Led.state (restState s3 i))

/-- Stage 3 of R293. -/
def restartStreams (j : SlotId) (s : State) : State :=
  let s1 := readEntries (s.streamsOf j) (closePending j s)
  noteStreams ((s1.streamsOf j).foldl (fun s i => rewindStream (s.job j).desc.ckpt i s) s1)

/-- Stages 1 to 3 of a restart (R293), which counts as soon as it begins (R297). -/
def beginRestart (j : SlotId) (s : State) : State :=
  let s1 := s.modJob j (fun b =>
    { b with st := .restarting, restarts := b.restarts + 1, restartMs := if b.debug then b.restartMs else b.restartMs ++ [s.thr.ms],
             replayTo := max b.replayTo b.step, ckpts := [], ending := none, noRoom := false,
             next := if b.desc.ckpt then (match b.committed with | some n => n + 1 | none => 0) else 0 })
  fillRooms j (applyFences j (returnFreed j (restartStreams j (bindTable j s1))))

/-- Whether one more restart would exceed the limit within the window (R299); a debug job's restarts do not count (R356). -/
def recoveryEnds (s : State) (j : SlotId) : Bool :=
  let b := s.job j
  let w := max 1 (s.fld Reg.porchRecovery 8 24)
  !b.debug && decide (s.fld Reg.porchRecovery 0 8 < (b.restartMs.filter (fun t => decide (s.thr.ms - t < w))).length + 1)

/-- A fault of a job reaches the Porch (R290): of those that tie, the one with the lowest source is recorded and the others are
counted; the job restarts, or its recovery ends (R299). -/
def jobFault (j : SlotId) (tied : Nat) (s : State) : State :=
  let s0 := recordStray s
  let fs := faultsOf s0 j
  let tie := fs.take (max 1 tied)
  match tie with
  | [] => s0
  | x :: t =>
    if !(s0.job j).st.live then s0
    else
      let e := t.foldl (fun b y => if y.source < b.source then y else b) x
      let s1 := fs.foldl (fun s y => countUe y s) s0
      let s2 := stopJob j (writeFault e { s1 with faults := s1.faults.erase e })
      if recoveryEnds s2 j then settleAll (raiseSource 17 (leaveSlot j Res.failed (s2.job j).tag s2))
      else settleAll (beginRestart j s2)

/-- A restart that is held for want of a room goes on once one is free (R293). -/
def restartResume (j : SlotId) (s : State) : State :=
  let b := s.job j
  if b.st == .restarting && b.noRoom && !(freeRooms s).isEmpty then fillRooms j s else s

/-- Stages 4 to 6 of a restart are done, in so many µs (R293): the first replayed step starts. -/
def restartComplete (j : SlotId) (us : BitVec 16) (s : State) : State :=
  if (s.job j).st ≠ .restarting ∨ canLoad s j = false then s
  else
    let s1 := loadJob j true s
    if !(faultsOf s1 j).isEmpty then s1
    else
      let k := Reg.porchJobjRestartUs + 0x40 * j.val
      let s2 := (s1.setFld k 0 16 us.toNat).setFld k 16 16 (max us.toNat (s1.fld k 16 16))
      settleAll (jobCompl j Res.restarted (s2.job j).tag (startJob j (s2.job j).next s2))

/-! ## Steps -/

/-- Every state write of a job's oldest checkpoint has been answered: it commits, and with the last one an END or PREEMPT (R26,
R288). -/
def checkpointCommit (j : SlotId) (s : State) : State :=
  match (s.job j).ckpts with
  | [] => s
  | c :: _ =>
    if !ckptDone s c then s
    else
      let s1 := commitCkpt j c s
      match (s1.job j).ending, (s1.job j).ckpts with
      | some e, [] => settleAll (finishEnd j e s1)
      | _, _ => s1

/-- The step barrier of a job has released: its Stewards stop where they are, the step ends, and what follows begins (R25,
R257). A sample of a blocking arrival is complete (R354). -/
def stepReleased (j : SlotId) (s : State) : State :=
  let s1 := (s.job j).physical.foldl (fun s r => (sampleDone r none s).modStew r (fun w =>
    { w with running := false, waiting := .nothing, stall := if w.stall = .none then .halted else w.stall,
             stallFrom := if w.stall = .none then winCycles s r else w.stallFrom })) s
  if (s1.job j).inStep then afterStep j (endStep j s1) else s1

/-- The Stewards whose arrival on a channel has been released go on (R207). -/
def releaseWaiting (ch : ChanId) (s : State) : State :=
  (List.finRange 32).foldl (fun s r =>
    match (s.room r).stew.waiting with
    | .release c _ => if c = ch ∧ (s.room r).awaiting.get ch = false then released r s else s
    | _ => s) s

/-- Whether a channel releases: it has members, or will have, and every one has arrived (R206, R209); the job that holds it is
RUNNING. -/
def releases (s : State) (ch : ChanId) : Bool :=
  barMissing s ch == 0 && ((s.bar ch).members != 0 || writtenMembers s ch != 0) &&
    (match (s.bar ch).slot with | some j => (s.job j).st == .running | none => true)

/-- A channel releases when its last member has arrived (R206): of a step barrier, the step ends. -/
def barrierRelease (ch : ChanId) (s : State) : State :=
  if !releases s ch then s
  else
    let s1 := releaseBar ch s
    match stepJob s ch with
    | some j => settleAll (stepReleased j s1)
    | none => settleAll (releaseWaiting ch s1)

/-- A channel's watchdog expires (R211). -/
def stepWatchdog (ch : ChanId) (s : State) : State :=
  let b := s.bar ch
  match b.slot with
  | none => s
  | some j =>
    let miss := barMissing s ch
    if s.reg (Reg.landBarnWdog + 0x20 * ch.val) = 0 ∨ b.arrived = false ∨ miss = 0 ∨ (s.job j).st ≠ .running ∨ (s.job j).debug then s
    else s.addFault { code := .stepWatchdog, source := 0x21, room := none, slot := some j, ledger := 0xFFFF, pc := 0xFFFFFFFF,
                      capture := [ch.val, (s.reg (Reg.landBarnEpoch + 0x20 * ch.val)).toNat, miss] }

/-! ## Context reset -/

/-- A reset of a host context (R225, R301). -/
def resetContext (c : Ctx) (s : State) : State :=
  let jobs := (List.finRange 8).filter (fun j => (s.job j).st != .free && (s.job j).ctx == c)
  let s1 := clearContext c (jobs.foldl (fun s j => leaveSlot j Res.aborted (s.job j).tag s) s)
  let s2 := (s1.streams.filter (fun i => s1.led i Led.ctx == c.val)).foldl (fun s i => closeEntry i s) s1
  let s3 := (List.finRange 16).foldl (fun s q =>
    if qOwner s q = c.val then
      ((s.setFld (Reg.porchQqHead + qOff q) 0 16 (s.fld (Reg.porchQqTail + qOff q) 0 16)).setFld (Reg.porchQqCtail + qOff q) 0 16
        (s.fld (Reg.porchQqChead + qOff q) 0 16)).modPorchQ q (fun _ => {})
    else s) s2
  let other : CelTask → Bool
    | .park x _ => x != c
    | .unpark x _ => x != c
    | _ => true
  settleAll ((s3.modCel (fun x => { x with waiting := x.waiting.filter other })).modThr (fun t => { t with cmds := t.cmds.set c none }))

/-- A write of PORCH_CTX_RESET: the reset is done before the next command, so busy reads 0 (R301). -/
def writeCtxReset (v : Word) (s : State) : State :=
  let s1 := s.setFld Reg.porchCtxReset 0 5 (bitsOf v.toNat 0 5)
  if v.getLsbD 5 then resetContext (Fin.ofNat 32 (bitsOf v.toNat 0 5)) s1 else s1

end Sys2Proof.Machine
end

