-- ==== Sys2Proof/Machine/HostLanding.lean ====
section
/-! DEFINITION. The Landing's host side (R214, R215, R218-R224): operations on sync words, bindings, watch slots and the Porch's
barrier arrival. -/

namespace Sys2Proof.Machine

/-- What a host access finds at a handle of its context. -/
inductive Found where
  /-- The word, with no error or a corrected one. -/
  | word (w : Nat)
  | unbound
  /-- The word has a double-bit error (R179). -/
  | broken (w : Nat)
  deriving DecidableEq, Repr

/-- An uncorrectable error that a host access meets in the sync store or the Keyring (R179, R227): the job that owns the word
stops, or the fault belongs to no job. -/
def hostUe (slot : Option SlotId) (cap : List Nat) (s : State) : State :=
  match slot with
  | some j => hubFault 0x21 j ⟨.sramUncorrectable, cap⟩ s
  | none => writeFault { code := .sramUncorrectable, source := 0x21, room := none, slot := none, ledger := 0xFFFF, pc := 0xFFFFFFFF,
                         capture := cap } s

/-- A host access meets a Keyring word with a double-bit error: the fault is recorded (R179). -/
def hostKey (c : Ctx) (h : Nat) (s : State) : State := if keyBad s c.val h then hostUe none [8, 0, keyPlace c.val h] s else s

/-- Looks a handle up (R224): a Keyring entry with a double-bit error is not bound (R300). -/
def findHandle (c : Ctx) (h : Nat) (s : State) : Found × State :=
  if keyBad s c.val h then (.unbound, hostKey c h s)
  else
    let s1 := keyFix c.val h s
    match s1.keyWord c.val h with
    | none => (.unbound, s1)
    | some w =>
      if 2 ≤ syncEcc s1 w then (.broken w, hostUe (ownerSlot s1 (s1.word w)) [7, w / 512, w % 512] s1)
      else (.word w, { s1 with land := { s1.land with ecc := sset 0 s1.land.ecc w 0 } })

/-- LAND_H_STATUS of a context takes a result. -/
def hostStatus (c : Ctx) (result : Nat) (s : State) : State := s.setFld (ctxKey c Reg.landHStatus) 0 3 result

/-- A saturation of a word that a job owns is that job's fault too, with the Porch as its source (R215). -/
def hostSaturated (h w : Nat) (code : FaultCode) (s : State) : State :=
  match ownerSlot s (s.word w) with
  | some j => s.addFault { code := code, source := 0x20, room := none, slot := some j, ledger := 0xFFFF, pc := 0xFFFFFFFF,
                           capture := [h, w, (s.word w).toNat] }
  | none => s

/-- A host operation on a word (R214, R215, R223). -/
def hostOp (c : Ctx) (h : Nat) (act : SyncDo) (s : State) : State :=
  match findHandle c h s with
  | (.unbound, s1) => hostStatus c 1 s1
  | (.broken _, s1) => s1
  | (.word w, s1) =>
    match syncApply w act s1 with
    | (s2, .done) => hostStatus c 0 s2
    | (s2, .dropped) => hostStatus c 4 s2
    | (s2, .high) => hostStatus c 3 (hostSaturated h w .syncOverflow s2)
    | (s2, .low) => hostStatus c 3 (hostSaturated h w .syncUnderflow s2)
    | (s2, .kindError) => hostStatus c 2 s2
    | (s2, .free) => hostStatus c 2 s2

/-- A write of LAND_H_SIGNAL. -/
def hostSignal (c : Ctx) (v : Word) (s : State) : State := hostOp c (bitsOf v.toNat 0 10) .signal s

/-- A write of LAND_H_ADD: a signed 22-bit addend. -/
def hostAdd (c : Ctx) (v : Word) (s : State) : State := hostOp c (bitsOf v.toNat 0 10) (.add (signedOf (bitsOf v.toNat 10 22) 22)) s

/-- A write of LAND_H_SET. -/
def hostSet (c : Ctx) (v : Word) (s : State) : State := hostOp c (bitsOf v.toNat 0 10) (.set (bitsOf v.toNat 10 22)) s

/-- A write of LAND_H_BIND (R224). -/
def hostBind (c : Ctx) (v : Word) (s : State) : State :=
  let h := bitsOf v.toNat 0 10
  let kind := bitsOf v.toNat 10 4
  let home := bitsOf v.toNat 14 5
  let put (n : Nat) (s : State) : State := s.setFld (ctxKey c Reg.landHBindStatus) 0 2 n
  if kind = 0 ∨ 3 < kind then put 3 s
  else if (s.keyWord c.val h).isSome then put 1 s
  else
    let s0 := hostKey c h s
    match bindHandle c.val h kind hostJob home home (s.reg (ctxKey c Reg.landHBindValue)).toNat s0 with
    | some s1 => put 0 s1
    | none => put 2 s0

/-- A write of LAND_H_UNBIND: the word is abandoned, then freed, and the entry invalidated (R223). -/
def hostUnbind (c : Ctx) (v : Word) (s : State) : State :=
  let h := bitsOf v.toNat 0 10
  match s.keyWord c.val h with
  | none => s
  | some w => dropHandle c.val h (freeWord w (abandonWord w (hostKey c h s)))

/-- The key of a register of a host watch slot. -/
def wslotKey (c : Ctx) (k : Fin 64) (off : Nat) : Nat := ctxKey c (off + 0x20 * k.val)

/-- Cancels a host slot (R221): armed, it is left holding a cancelled wake, whose value is free. -/
def hostCancel (c : Ctx) (k : Fin 64) (s : State) : State :=
  if s.fld (wslotKey c k Reg.landHWslotsCtl) 16 1 = 0 then s
  else
    let (v, s1) := pickFree ((s.dropWatches (fun x => x.who == .host c k)).count64 Reg.landWakes 1)
    let s2 := (s1.setFld (wslotKey c k Reg.landHWslotsCtl) 16 1 0).setFld (wslotKey c k Reg.landHWslotsStatus) 0 2 3
    s2.setReg (wslotKey c k Reg.landHWslotsValue) (BitVec.ofNat 32 v)

/-- Arms a host slot (R218, R219): refused when it is armed or its handle is not bound. -/
def hostArm (c : Ctx) (k : Fin 64) (s : State) : State :=
  let ctl := (s.reg (wslotKey c k Reg.landHWslotsCtl)).toNat
  let refused (s : State) : State := s.setFld (wslotKey c k Reg.landHWslotsStatus) 2 1 1
  if bitAt ctl 16 then refused s
  else
    match findHandle c (bitsOf ctl 0 10) s with
    | (.unbound, s1) => refused s1
    | (.broken _, s1) => s1
    | (.word w, s1) =>
      let s2 := (s1.setFld (wslotKey c k Reg.landHWslotsCtl) 16 1 1).setFld (wslotKey c k Reg.landHWslotsStatus) 0 3 0
      registerWatch ⟨w, .host c k, bitsOf ctl 10 2, (s1.reg (wslotKey c k Reg.landHWslotsThresh)).toNat⟩ s2

/-- A write of LAND_H_WSLOTs_CTL: its fields, then a cancel, then an arm. -/
def hostWslot (c : Ctx) (k : Fin 64) (v : Word) (s : State) : State :=
  let s1 := s.setFld (wslotKey c k Reg.landHWslotsCtl) 0 16 (bitsOf v.toNat 0 16)
  let s2 := if v.getLsbD 17 then hostCancel c k s1 else s1
  if v.getLsbD 16 then hostArm c k s2 else s2

/-- The Porch arrives on a channel (R206, R210). -/
def porchArrive (s : State) (ch : ChanId) : State :=
  s.modBar ch (fun b => { b with porch := !b.porch, arrived := b.arrived || b.members.getLsbD 32 })

/-- A write of LAND_BAR_PORCH. -/
def writeBarPorch (v : Word) (s : State) : State := ((List.finRange 8).filter (fun ch => v.getLsbD ch.val)).foldl porchArrive s

/-- The word at a handle as LAND_H_WORDh reads it: 0 for an unbound handle (R214); one with a double-bit error is the owner's fault,
and what the read returns is free. -/
def hostWord (c : Ctx) (h : Nat) (s : State) : Nat × State :=
  match findHandle c h s with
  | (.unbound, s1) => (0, s1)
  | (.word w, s1) => ((s1.word w).toNat, s1)
  | (.broken _, s1) => pickFree s1

end Sys2Proof.Machine
end

