-- ==== Sys2Proof/Machine/Signals.lean ====
section
/-! DEFINITION. Resets, start-up, isolation and power (R304-R307, R372-R379), and what the memory ports receive while they last
(R364, R366, R367, R374). -/

namespace Sys2Proof.Machine

/-! ## Pins -/

/-- `mk_up` of every port (R364): out of cold reset, and not clamped. -/
def State.mkUp (s : State) : Bool := s.up

/-- `irq[v]`: low while the block is in reset, clamped or unpowered (R303, R307). -/
def State.irqPin (s : State) (v : Fin 8) : Bool := s.up && s.irqWire v.val

/-- `pmic_vsel_g`, with its clamp value (R336, R372). -/
def State.vselPin (s : State) (g : Fin 4) : Nat := if s.pins.iso then 50 else (s.rail g - 450) / 5

/-- `pmic_vreq_g`, with its clamp value (R372). -/
def State.vreqPin (s : State) (g : Fin 4) : Bool := !s.pins.iso && s.chim.vreq.getLsbD g.val

/-- `xspi_cs_n`: low only while a command's bytes go over the bus, which no command of the model ends within; a reset raises it (R375),
and its clamp value is 1 (R377). -/
def State.xspiCsN (_ : State) : Bool := true

/-- `xspi_rst_n`, with its clamp value 0 (R377). -/
def State.xspiRstN (s : State) : Bool := !s.pins.iso && s.xspi.rstN

/-- `xspi_ck`: the Hall cycles of one of its cycles, at the least, and none where it is clamped (R377). -/
def State.xspiCk (s : State) : Option Nat := if s.pins.iso then none else some (if s.xspi.octal then 6 else 48)

/-- `trc_clk`: the Hall cycles of one of its cycles, and none where it is clamped (R372). -/
def State.trcClk (s : State) : Option Nat := if s.pins.iso then none else some 4

/-- `trc_d` and `trc_sync`, with their clamp values (R372). -/
def State.trcPins (s : State) : TracePins := if s.pins.iso then {} else s.trc

/-- `ret_need`: some array is in retention; its clamp value is 1 (R372). -/
def State.retNeed (s : State) : Bool := s.pins.iso || (List.finRange 32).any (fun r => (s.room r).power == .retain)

/-! ## Resets -/

/-- The block as a reset leaves it, once the Cellar has been reset (R9, R364, R375): what lies outside it stays, and its pins are as given. The free choices taken
so far and the commands that wait are the model's own. -/
def wiped (pins : Pins) (s : State) : State :=
  { State.reset with
    pending := s.pending, free := s.free, resp := s.resp, debugResp := s.debugResp, dram := s.dram, cel := s.cel, pins := pins }

/-- The words that a warm reset keeps: CEL_WALLCLOCK and CEL_MARGINi. -/
def keepWords (old s : State) : State :=
  (List.range 16).foldl (fun s i => s.setReg (Reg.celMargini + 4 * i) (old.reg (Reg.celMargini + 4 * i)))
    (s.setReg64 Reg.celWallclock (old.reg64 Reg.celWallclock))

/-- Cold reset is asserted (R373): every register at its reset value, transactions in flight lost, credits forfeited. -/
def coldReset (s : State) : State := wiped { s.pins with cold := true, startup := none } (cellarReset s)

/-- Start-up stops for good (R305). -/
def bootFail (stage : Nat) (s : State) : State := (s.setFld Reg.porchStatus 1 3 stage).setFld Reg.porchStatus 4 1 1

/-- A room fails its self-test at start-up: it is fenced (R305). -/
def fenceAtStart (s : State) (r : RoomId) : State :=
  { s with fenced := s.fenced ||| roomBit r }.modThr (fun t => { t with faultFence := t.faultFence ||| roomBit r })

/-- ready rises (R304): every bucket is full (R234), and source 22 is raised (R302). -/
def becomeReady (s : State) : State :=
  let s1 := (s.setFld Reg.porchStatus 1 3 0).setFld Reg.porchStatus 0 1 1
  raiseSource 22 (s1.modThr (fun t => { t with bucket := Vector.ofFn (fun (c : Fin 4) => bucketTop s1 c.val) }))

/-- Stage 1 of start-up: every room has power (R304, R337, log entry 130). -/
def roomsOn (s : State) : State := { s with rooms := s.rooms.map (fun (m : Room) => { m with power := .on }) }

/-- The start of stage 2: the part's hardware reset is held low for 10 µs, and the bus is in single-line mode (R304, R377). -/
def xspiReset (s : State) : State := { s with xspi := { rstN := false, octal := false } }

/-- The end of stage 2: with a part that R309 accepts the bus is in 8D-8D-8D (R304, R377). -/
def xspiUp (octal : Bool) (s : State) : State := { s with xspi := { rstN := true, octal := octal } }

/-- Stages 2 to 6 of start-up (R304, R305): what they leave in the block. -/
def bootStages (facts : BootFacts) (s : State) : State :=
  let ok := facts.partOk && decide (8192 ≤ facts.sectors)
  match cellarBoot facts (xspiUp ok (xspiReset (roomsOn s))) with
  | (false, s1) => bootFail (if ok then 3 else 2) s1
  | (true, s1) =>
    let s2 := s1.setReg Reg.porchRoomsOk facts.roomsPass
    let s3 := ((List.finRange 32).filter (fun r => !facts.roomsPass.getLsbD r.val)).foldl fenceAtStart s2
    if facts.hubPass then becomeReady (chimneyStart s3) else bootFail 5 s3

/-- Start-up runs. -/
def startUp (facts : BootFacts) (s : State) : State := sealed (bootStages facts) { s with pins := { s.pins with startup := none } }

/-- No tag of any port is outstanding. -/
def tagsDone (s : State) : Bool := s.ports.all (fun p => p.reads.isEmpty && p.writes.isEmpty)

/-- Stage 1 of a warm reset's start-up ends once no tag is outstanding (R374). -/
def endDrain (s : State) : State :=
  match s.pins.startup with
  | some facts => if tagsDone s then startUp facts s else s
  | none => s

/-- A warm reset (R306, R373, R374): ignored during a cold reset. Credits stay, and start-up waits for the tags outstanding. -/
def warmReset (facts : BootFacts) (s : State) : State :=
  if !s.up then s
  else
    let s1 := cellarReset s
    let mark (t : TagUse) : TagUse := { t with drain := true }
    let ports := s1.ports.map (fun (p : Port) => { p with beatsDue := 0, reads := p.reads.map mark, writes := p.writes.map mark })
    let s2 := { keepWords s1 (wiped s.pins s1) with ports := ports }.setFld Reg.porchStatus 1 3 1
    endDrain { s2 with pins := { s.pins with startup := some facts } }

/-- What start-up meets again when a write starts a warm reset and the command does not say: what it met the last time. -/
def lastFacts (s : State) : BootFacts :=
  { partOk := s.fld Reg.celStatus 0 1 == 1, sectors := s.fld Reg.celPart 0 17,
    tSusUs := BitVec.ofNat 16 (s.fld Reg.celTimes 0 16), eraseTypMs := BitVec.ofNat 16 (s.fld Reg.celTimes 16 16),
    eraseMaxMs := BitVec.ofNat 16 (s.fld (Reg.celTimes + 4) 0 16), tRsUs := BitVec.ofNat 16 (s.fld (Reg.celTimes + 4) 16 16),
    roomsPass := s.reg Reg.porchRoomsOk, hubPass := true }

/-- A write of PORCH_WARM_RESET: other keys are ignored. -/
def writeWarmReset (v : Word) (facts : BootFacts) (s : State) : State := if bitsOf v.toNat 0 16 = 0xD00D then warmReset facts s else s

/-- Cold reset is released (R304, R378): the block is powered and not clamped. -/
def coldRelease (facts : BootFacts) (s : State) : State :=
  if s.pins.cold && !s.pins.iso && s.pins.rails then startUp facts { s with pins := { s.pins with cold := false } } else s

/-- 100 µs after a warm reset: the tags still outstanding on a port are freed (R374). -/
def drainTimeout (port : Fin 4) (s : State) : State :=
  if s.pins.startup.isNone || ((s.ports.get port).reads.isEmpty && (s.ports.get port).writes.isEmpty) then s
  else endDrain (sealed (fun s => (s.modPort port (fun p => { p with reads := [], writes := [] })).orReg
    (Reg.hallPortkProto + 4 * port.val) (2 ^ 16)) s)

/-- `aon_rst_n` resets the Porch stub (R372, R378): the responses and the holding registers that it keeps. -/
def aonReset (s : State) : State := { s with resp := {}, debugResp := {}, hold := [] }

/-- `iso_en` rises (R376). -/
def isoEnable (s : State) : State :=
  let s1 := if s.pins.cold then s else coldReset s
  { s1 with pins := { s1.pins with iso := true } }

/-- `iso_en` falls, with the block's rails up (R378). -/
def isoDisable (s : State) : State := { s with pins := { s.pins with iso := false, rails := true } }

/-- A rail of the block falls (R379): the block is unpowered, and what its part was doing is cut short (R331). -/
def railLoss (s : State) : State := wiped { s.pins with cold := true, rails := false, startup := none } (cellarCut s)

/-! ## The ports in and out of reset -/

/-- A read data beat: discarded in reset and under the clamp (R364). -/
def portBeat (port : Fin 4) (tag beat : Nat) (data : List Byte) (resp rtt : Nat) (s : State) : State :=
  if s.mkUp then endDrain (sealed (fun s => settleAll (readBeat port tag beat data resp rtt s)) s) else s

/-- A write response. -/
def portAnswer (port : Fin 4) (tag resp rtt : Nat) (s : State) : State :=
  if s.mkUp then endDrain (sealed (fun s => settleAll (writeAnswer port tag resp rtt s)) s) else s

/-- A credit comes back: one beyond 32 is ignored and flagged (R364). Work of the Cellar that waits to read DRAM may begin. -/
def creditBack (port : Fin 4) (chan : Fin 3) (s : State) : State :=
  let p := s.ports.get port
  let have_ := match chan with | 0 => p.creditRq | 1 => p.creditWq | 2 => p.creditWd
  if !s.mkUp then s
  else if 32 ≤ have_ then s.orReg (Reg.hallPortkProto + 4 * port.val) (2 ^ 17)
  else
    let s1 := s.modPort port (fun p => match chan with
      | 0 => { p with creditRq := p.creditRq + 1 }
      | 1 => { p with creditWq := p.creditWq + 1 }
      | 2 => sendBeats { p with creditWd := p.creditWd + 1 })
    if s1.cel.waiting.isEmpty then s1 else sealed celGo s1

end Sys2Proof.Machine
end

