-- ==== Sys2Proof/Machine/Study.lean ====
section
/-! DEFINITION. The Study (15_window_study.md, R356-R361): halting and stepping, register access, setting sync words by hand, and
the trace formatter's overflow record. -/

namespace Sys2Proof.Machine

/-- STUDY_EVENT.refused (R356, R358, R359). -/
def studyRefused (s : State) : State := s.orReg Reg.studyEvent 1

/-- A write of STUDY_ROOMn_RUN (R356, R357): in a room of a job in debug it halts the Steward, lets it go on, or grants a
halted one a step, behind which it is halted again. -/
def writeRun (r : RoomId) (v : Word) (s : State) : State :=
  if roomDebug s r then
    let k := Reg.studyRoomnRun + 0x40 * r.val
    let halt := v.getLsbD 0
    let step := v.getLsbD 1 && (halt || (s.room r).stew.held)
    let s1 := setHeld r (halt || step) (s.setFld k 0 1 (b2n halt))
    let s2 := if v.getLsbD 3 then s1.setFld k 3 1 0 else s1
    let s3 := if step then s2.modStew r (fun w => { w with stepping := true }) else s2
    settle r s3
  else studyRefused s

/-- A write of a breakpoint's word: only for a room of a job in debug (R356). -/
def writeBreakpoint (c : Ctx) (r : RoomId) (off : Nat) (v : Word) (s : State) : State :=
  if roomDebug s r then plainWrite c off v s else studyRefused s

/-- The room and register that STUDY_REG_SEL names, when the room is halted and its job in debug (R356, R358). -/
def studyTarget (s : State) : Option (RoomId × RegName) :=
  let r : RoomId := Fin.ofNat 32 (s.fld Reg.studyRegSel 0 5)
  if roomDebug s r && (s.room r).stew.held then (regName (BitVec.ofNat 7 (s.fld Reg.studyRegSel 5 7))).map (fun n => (r, n)) else none

/-- The selected register's value: of a d register the selected word (R358). -/
def studyValue (s : State) (r : RoomId) (n : RegName) : Nat :=
  match n with
  | .d i => bitsOf ((s.room r).stew.dreg.get i).toNat (32 * s.fld Reg.studyRegSel 12 3) 32
  | n => ((s.room r).stew.read n).toNat

/-- Writes the selected register (R358). -/
def setStudyValue (r : RoomId) (n : RegName) (v : Nat) (s : State) : State :=
  match n with
  | .d i =>
    let w := s.fld Reg.studyRegSel 12 3
    s.modStew r (fun x => { x with dreg := x.dreg.set i (BitVec.ofNat 256 (setBits (x.dreg.get i).toNat (32 * w) 32 v)) })
  | n => s.modStew r (fun x => x.write n (BitVec.ofNat 64 v))

/-- A read of STUDY_REG_DATA: 0 and refused where it may not be read (R358). -/
def readStudyReg (s : State) : Nat × State :=
  match studyTarget s with
  | some (r, n) => (studyValue s r n, s)
  | none => (0, studyRefused s)

/-- The word that STUDY_SYNC_SEL names: none for a handle that is not bound (R359). -/
def studyWord (s : State) : Option Nat :=
  if s.fld Reg.studySyncSel 14 1 = 1 then s.keyWord (s.fld Reg.studySyncSel 15 5) (s.fld Reg.studySyncSel 0 10)
  else some (s.fld Reg.studySyncSel 0 14)

/-- Every attempt enters the Study log and emits a trace record (R359, R360). -/
def studyLog (word value : Nat) (forced applied : Bool) (s : State) : State :=
  let n := s.win.attempts
  let k := Reg.studyLogi + 8 * (n % 16)
  let s1 := s.setReg64 k (word + 2 ^ 14 * b2n forced + 2 ^ 15 * b2n applied + 2 ^ 16 * value + 2 ^ 48 * (n % 2 ^ 16))
  emitTrace 3 0 (word + 2 ^ 31 * b2n applied) value { s1 with win := { s1.win with attempts := n + 1 } }

/-- A write of STUDY_SYNC_GO (R359): the value is set at the word's home, whatever its kind, and its watches are evaluated. -/
def studySync (v : Word) (s : State) : State :=
  if v.getLsbD 0 then
    let value := (s.reg Reg.studySyncValue).toNat
    let forced := s.fld Reg.studySyncSel 20 1 == 1
    let answer (n : Nat) (s : State) : State := s.setFld Reg.studySyncGo 1 3 n
    match studyWord s with
    | none => studyLog 0 value forced false (studyRefused (answer 3 s))
    | some w =>
      let x := s.word w
      if wordKind x = 0 then studyLog w value forced false (studyRefused (answer 2 s))
      else if wordAbandoned x && !forced then studyLog w value forced false (answer 1 (s.satFld Reg.landAbandonDrops 0 32 1))
      else
        let y := wordWith x value
        let z : Word64 := if forced then BitVec.ofNat 64 (setBits y.toNat 56 4 0) else y
        studyLog w value forced true (answer 0 (evalWatches w (s.setWord w z)))
  else s

/-- The 24 bytes of a trace record (R360). -/
def TraceRec.bytes (x : TraceRec) : List Byte :=
  bytesOfNat 1 x.type ++ bytesOfNat 1 x.room ++ bytesOfNat 2 0 ++ bytesOfNat 4 x.aux ++ bytesOfNat 8 x.time ++ bytesOfNat 8 x.value

/-- One trace cycle (R360, R372): the pins carry the next byte of the oldest record, with `trc_sync` on its byte 0, and a record whose
bytes have gone leaves the queue; with no record they idle. -/
def traceCycle (s : State) : State :=
  match s.trace with
  | [] => { s with trc := {} }
  | x :: t =>
    let n := s.win.traceSent
    let s1 := { s with trc := { d := x.bytes.getD n 0, sync := n == 0 } }
    if n < 23 then { s1 with win := { s1.win with traceSent := n + 1 } } else { s1 with trace := t, win := { s1.win with traceSent := 0 } }

/-- The time that passes while no command waits: a trace cycle of a block that is up (log entry 1). -/
def idleCycle (s : State) : State := if s.up then sealed traceCycle s else s

end Sys2Proof.Machine
end

