-- ==== Sys2Proof/Machine/Control.lean ====
section
/-! DEFINITION. Control accesses with their effects: what every register reads (R4, R8), and what a write of it does (R4, R6). -/

namespace Sys2Proof.Machine

/-! ## 64-bit registers -/

/-- The low words of the 64-bit registers of a room's slice: first offset, step and count (R8). -/
def wideRoom : List (Nat × Nat × Nat) :=
  [(0x188, 8, 1), (0x4020, 8, 5), (0x4080, 8, 8), (0x8020, 8, 3), (0xC020, 8, 2), (0x14020, 8, 3), (0x10030, 8, 2), (0x18008, 8, 1),
   (0x18040, 8, 8)]

/-- The low words of the other 64-bit registers. -/
def wideHub : List (Nat × Nat × Nat) :=
  [(0x20, 8, 1), (0x100, 0x40, 16), (0x108, 0x40, 16), (0x808, 0x40, 8), (0xA10, 0x20, 8), (0x10100, 0x20, 8), (0x10110, 0x20, 8),
   (0x14000, 8, 1024), (0x16010, 0x20, 64), (0x18000, 8, 1), (0x20118, 8, 1), (0x40008, 8, 1), (0x40028, 8, 1), (0x40030, 8, 1),
   (0x40038, 8, 1), (0x40044, 8, 1), (0x40054, 8, 1), (0x50030, 8, 1), (0x60400, 8, 1), (0x70108, 0x40, 32), (0x70110, 0x40, 32),
   (0x70118, 0x40, 32), (0x70120, 0x40, 32), (0x70908, 8, 1), (0x70B00, 8, 16)]

/-- Whether an offset lies in a list of them. -/
def listed (l : List (Nat × Nat × Nat)) (off : Nat) : Bool :=
  l.any (fun x => decide (x.1 ≤ off) && (off - x.1) % x.2.1 == 0 && decide ((off - x.1) / x.2.1 < x.2.2))

/-- The words that a read of an offset captures into holding registers (R8, R103): the high half of a 64-bit register, and the rest of
a room's exception record. -/
def captured (off : Nat) : List Nat :=
  match roomOfOffset off with
  | some (_, o) => if o = Reg.roomExcInfo then [off + 4, off + 8, off + 12] else if listed wideRoom o then [off + 4] else []
  | none => if listed wideHub off then [off + 4] else []

/-! ## What a register reads -/

/-- busy, and the instructions in a unit's queue (R256). -/
def unitDepth (s : State) (r : RoomId) (q : Fin 5) : Nat := ((s.room r).queue q).entries.length

/-- The instruction that a unit executes. -/
def unitOp (s : State) (r : RoomId) (q : Fin 5) : Option Fis := (((s.room r).queue q).active).map QEntry.op

/-- The kind in SC_STATUS. -/
def scKind : Option Fis → Nat
  | some (.scStep u) => if u.imm.getLsbD 0 then 2 else 1
  | some (.scModal _) => 3
  | some (.scFir _) => 4
  | some (.scEma _) => 5
  | some (.scChunk _) => 6
  | some _ => 7
  | none => 0

/-- The kind in LM_STATUS. -/
def lmKind : Option Fis → Nat
  | some (.lmEval _) => 1 | some (.lmSincos _) => 2 | some (.lmStat _) => 3 | some (.lmRed _) => 4 | some (.lmSwap _) => 5
  | _ => 0

/-- The kind in PA_STATUS. -/
def paKind : Option Fis → Nat
  | some (.paAttend _) => 1 | some (.paPageset _) => 2 | _ => 0

/-- FL_STATUS. -/
def flStatusWord (s : State) (r : RoomId) : Nat :=
  let f := (s.room r).floor
  let open_ := ((List.finRange 8).map (fun i => if (f.slots.get i).isSome then 2 ^ i.val else 0)).foldl (· + ·) 0
  let drain := b2n ((s.room r).queue 0).beside.isSome
  b2n (floorBusy s r) + 2 * f.form.val + 8 * b2n f.shadowFull + 16 * open_ + 2 ^ 12 * drain + 2 ^ 13 * unitDepth s r 0

/-- FL_SLOTn, both words. -/
def flSlotWord (s : State) (r : RoomId) (n : Nat) : Nat :=
  match (s.room r).floor.slots.get (Fin.ofNat 8 n) with
  | none => 0
  | some x => 1 + 2 * b2n x.masked + 4 * b2n x.integer + 8 * b2n x.thin + 16 * x.ppg + 2 ^ 7 * b2n x.maskDest + 2 ^ 8 * x.groups +
      2 ^ 32 * (x.base % 2 ^ 21)

/-- DW_CHn_STATUS: of the launch that runs, else of the last one. -/
def dwChannelWord (s : State) (r : RoomId) (n : Nat) : Nat :=
  let ch : Fin 4 := Fin.ofNat 4 n
  match (s.room r).chan ch with
  | none => (s.reg (rreg r Reg.dwChnStatus + 4 * n)).toNat
  | some l => 1 + 2 * b2n ((List.finRange 4).any (fun p => tagWanted s false p r ch || tagWanted s true p r ch)) + 4 * l.flags.toNat + 64 * b2n l.denied + 128 * (l.ix % 64)

/-- Whether a bank of a loadable table is in Bolier-compatible mode: bit 1 of its configuration word (R137, R151). -/
def bankBolier (s : State) (r : RoomId) (t b : Nat) : Bool := bitAt ((s.room r).lamp.getN (0x400 * t + 0x200 * b + 396) 4) 1

/-- A register of a room's slice, by the offset in the slice. -/
def viewRoom (s : State) (r : RoomId) (o : Nat) : Nat :=
  let w := (s.room r).stew
  let reg := (s.reg (rreg r o)).toNat
  let status (q : Fin 5) (kind width : Nat) : Nat := b2n ((s.room r).queue q).busy + 2 * kind + 2 ^ (1 + width) * unitDepth s r q
  if o = Reg.roomStewStatus then b2n w.running + 2 * w.stall.code + 16 * w.stack.length
  else if o = Reg.roomStewPc then w.pc
  else if Reg.roomTallyq ≤ o ∧ o < Reg.roomTallyq + 20 then
    let q := (s.room r).queue (Fin.ofNat 5 ((o - Reg.roomTallyq) / 4))
    q.issued.toNat + 2 ^ 16 * q.tally.toNat
  else if o = Reg.flStatus then flStatusWord s r
  else if Reg.flSlotn ≤ o ∧ o < Reg.flSlotn + 64 then bitsOf (flSlotWord s r ((o - Reg.flSlotn) / 8)) (8 * ((o - Reg.flSlotn) % 8)) 32
  else if o = Reg.scStatus then status 1 (scKind (unitOp s r 1)) 3
  else if o = Reg.lmStatus then status 2 (lmKind (unitOp s r 2)) 3
  else if o = Reg.paStatus then status 3 (paKind (unitOp s r 3)) 2
  else if Reg.lmTblt ≤ o ∧ o < Reg.lmTblt + 32 then setBits reg 3 1 (b2n (bankBolier s r ((o - Reg.lmTblt) / 4) (bitsOf reg 0 1)))
  else if o = Reg.dwStatus then
    ((List.finRange 4).map (fun ch => if ((s.room r).chan ch).isSome then 2 ^ ch.val else 0)).foldl (· + ·) 0 + 16 * unitDepth s r 4
  else if Reg.dwChnStatus ≤ o ∧ o < Reg.dwChnStatus + 16 then dwChannelWord s r ((o - Reg.dwChnStatus) / 4)
  else if o = Reg.dwTags then setBits (setBits reg 0 6 (roomTags s false r)) 6 5 (roomTags s true r)
  else reg

/-- PORCH_JOBj registers, by the offset in a slot's block. -/
def viewJob (s : State) (j : SlotId) (o : Nat) : Nat :=
  let b := s.job j
  let state := match b.st with | .free => 0 | .loading => 1 | .running => 2 | .restarting => 3 | .preempted => 4
  let replay := b.replayTicks + (if b.inStep && decide (b.step < b.replayTo) then s.timebase - b.since else 0)
  if o = 0 then state + 8 * b.queue.val + 2 ^ 7 * b.ctx.val + 2 ^ 12 * min 255 b.restarts + 2 ^ 20 * b.extra
  else if o = 4 then b.number
  else if o = 8 then b.step % 2 ^ 32
  else if o = 12 then b.step / 2 ^ 32 % 2 ^ 32
  else if o = 0x14 then min (2 ^ 32 - 1) (replay / Config.timebaseKHz)
  else (s.reg (Reg.porchJobjStatus + 0x40 * j.val + o)).toNat

/-- CHIM_ROOMn_CTL. -/
def viewPower (s : State) (r : RoomId) : Nat :=
  setBits (s.reg (ctlKey r)).toNat 0 2 (match (s.room r).power with | .off => 0 | .retain => 1 | .on => 2)

/-- Any register, by its offset in the control window, as a context reads it. -/
def view (s : State) (c : Ctx) (off : Nat) : Nat :=
  match roomOfOffset off with
  | some (r, o) => viewRoom s r o
  | none =>
    if off = 0 then b2n s.up + 2 * b2n (s.up && s.ready)
    else if Reg.porchJobjStatus ≤ off ∧ off < Reg.porchJobjStatus + 0x200 then
      viewJob s (Fin.ofNat 8 ((off - Reg.porchJobjStatus) / 0x40)) ((off - Reg.porchJobjStatus) % 0x40)
    else if off = Reg.landFreeWords then syncWords - usedWords s
    else if Reg.landBarnPending ≤ off ∧ off < Reg.landBarnPending + 0x100 ∧ (off - Reg.landBarnPending) % 0x20 < 8 then
      bitsOf (barMissing s (Fin.ofNat 8 ((off - Reg.landBarnPending) / 0x20))) (8 * ((off - Reg.landBarnPending) % 0x20)) 32
    else if off = Reg.thrFence then (s.fenced ||| s.thr.fenceDue).toNat
    else if Reg.chimRoomnCtl ≤ off ∧ off < Reg.chimRoomnCtl + 0x100 ∧ off % 8 = 0 then viewPower s (Fin.ofNat 32 ((off - Reg.chimRoomnCtl) / 8))
    else (s.reg (regKey c off)).toNat

/-! ## Reads -/

/-- The value that a read of an offset returns, of a register whose read has an effect of its own. -/
def readLive (c : Ctx) (off : Nat) (s : State) : Nat × State :=
  if Reg.landHWordh ≤ off ∧ off < Reg.landHWordh + 0x2000 then
    let (v, s1) := hostWord c ((off - Reg.landHWordh) / 8) s
    (bitsOf v (8 * (off % 8)) 32, s1)
  else if off = Reg.studyRegData ∨ off = Reg.studyRegData + 4 then
    let (v, s1) := readStudyReg s
    (bitsOf v (8 * (off - Reg.studyRegData)) 32, s1)
  else (view s c off, s)

/-- A read clears the fields of access RC (R4, R5). The lowest credit count starts again from the present one (R65). -/
def clearRead (c : Ctx) (off : Nat) (s : State) : State :=
  let k := regKey c off
  let s1 := s.setReg k (s.reg k &&& ~~~(BitVec.ofNat 32 (regRow off).rc))
  match roomOfOffset off with
  | some (r, o) => if o = Reg.flCredit then s1.setFld k 16 7 (s.room r).floor.credit else s1
  | none =>
    if Reg.porchJobjStatus ≤ off ∧ off < Reg.porchJobjStatus + 0x200 ∧ (off - Reg.porchJobjStatus) % 0x40 = 0 then
      s1.modJob (Fin.ofNat 8 ((off - Reg.porchJobjStatus) / 0x40)) (fun b => { b with extra := 0 })
    else s1

/-- The key of a holding register (R8). -/
def holdKey (c : Ctx) (off : Nat) : Nat := ctxKey c off

/-- A read that is served (R4, R8): a held word is returned once; else the word as it is, with the captures. -/
def readServed (c : Ctx) (off : Nat) (s : State) : State :=
  match s.hold.find? (fun h => h.1 == holdKey c off) with
  | some h => respond h.2.toNat { s with hold := s.hold.filter (fun x => x.1 != holdKey c off) }
  | none =>
    let (v, s1) := readLive c off s
    let more := (captured off).map (fun o => (holdKey c o, BitVec.ofNat 32 ((readLive c o s1).1)))
    let hold := s1.hold.filter (fun x => !(more.any (fun m => m.1 == x.1))) ++ more
    respond v (clearRead c off { s1 with hold := hold })

/-- A control read of an offset with byte enables. -/
def readAt (c : Ctx) (off be : Nat) (s : State) : State := access c off be false (readServed c off) s

/-! ## Writes -/

/-- A write of FL_CTL: quarter_off changes only while the Floor is idle with no slot open; a write that would have changed it is
flagged (R85). -/
def writeFlCtl (r : RoomId) (v : Word) (s : State) : State :=
  let k := rreg r Reg.flCtl
  let s1 := s.setFld k 4 1 (b2n (v.getLsbD 4))
  let q := bitsOf v.toNat 0 4
  if q = s.fld k 0 4 then s1
  else if floorBusy s r || (s.room r).floor.slots.any Option.isSome then s1.orReg (rreg r Reg.flEvent) 1
  else s1.setFld k 0 4 q

/-- A write of FL_CREDIT: the limit, which the counts take at once while the Floor is idle (R65). -/
def writeFlCredit (r : RoomId) (v : Word) (s : State) : State :=
  floorIdleNow r (s.setFld (rreg r Reg.flCredit) 0 7 (bitsOf v.toNat 0 7))

/-- A write of ROOM_EXC_CTL: clear empties the record and its count (R103). -/
def writeExcCtl (c : Ctx) (r : RoomId) (v : Word) (s : State) : State :=
  let s1 := plainWrite c (rreg r Reg.roomExcCtl) v s
  if v.getLsbD 6 then clearExc r s1 else s1

/-- A write of THR_CLASSc_BUCKET: a lower depth takes the bucket down at once (R234). -/
def writeBucket (c : Ctx) (cls : Fin 4) (v : Word) (s : State) : State :=
  let s1 := plainWrite c (Reg.thrClasscBucket + 0x10 * cls.val) v s
  s1.modThr (fun t => { t with bucket := t.bucket.set cls (min (bucketTop s1 cls.val) (t.bucket.get cls)) })

/-- A write of one half of STUDY_REG_DATA (R358). -/
def writeStudyHalf (hi : Nat) (v : Word) (s : State) : State :=
  match studyTarget s with
  | some (r, n) => setStudyValue r n (setBits (studyValue s r n) (32 * hi) 32 v.toNat) s
  | none => studyRefused s

/-- A write of STUDY_DBG_JOBS: the jobs in debug from their next step on, and a snapshot (R351, R356). -/
def writeDbgJobs (c : Ctx) (v : Word) (timebase : Word64) (s : State) : State :=
  let s1 := plainWrite c Reg.studyDbgJobs v s
  if v.getLsbD 8 then snapshot 2 timebase s1 else s1

/-- A write of WIN_SNAP (R351). -/
def writeSnap (v : Word) (timebase : Word64) (s : State) : State := if v.getLsbD 0 then snapshot 1 timebase s else s

/-- A write of a register of a room's slice. -/
def writeRoom (c : Ctx) (r : RoomId) (o : Nat) (v : Word) (s : State) : State :=
  if o = Reg.flCtl then writeFlCtl r v s
  else if o = Reg.flCredit then writeFlCredit r v s
  else if o = Reg.roomExcCtl then writeExcCtl c r v s
  else if o = Reg.winCtl then writeWinCtl r v s
  else if o = Reg.winSampCtl then writeSampCtl c r v s
  else plainWrite c (rreg r o) v s

/-- A write of a register of the Porch. -/
def writePorch (c : Ctx) (off : Nat) (v : Word) (s : State) : State :=
  if off = Reg.porchWarmReset then writeWarmReset v (lastFacts s) s
  else if off = Reg.porchCtxReset then writeCtxReset v s
  else if 0x100 ≤ off ∧ off < 0x500 then
    let q : Fin 16 := Fin.ofNat 16 ((off - 0x100) / 0x40)
    match off % 0x40 with
    | 0x10 => writeQCfg c q v s
    | 0x14 => doorbell q v s
    | 0x20 => writeChead q v s
    | _ => plainWrite c off v s
  else if 0xA00 ≤ off ∧ off < 0xB00 then
    let k : Fin 8 := Fin.ofNat 8 ((off - 0xA00) / 0x20)
    match off % 0x20 with
    | 0 => writeIrqStatus c k v s
    | 4 => writeIrqEnable c k v s
    | _ => plainWrite c off v s
  else plainWrite c off v s

/-- A write of a register of the Landing. -/
def writeLand (c : Ctx) (off : Nat) (v : Word) (s : State) : State :=
  if off = Reg.landBarPorch then writeBarPorch v s
  else if off = Reg.landHSignal then hostSignal c v s
  else if off = Reg.landHAdd then hostAdd c v s
  else if off = Reg.landHSet then hostSet c v s
  else if off = Reg.landHBind then hostBind c v s
  else if off = Reg.landHUnbind then hostUnbind c v s
  else if 0x16000 ≤ off ∧ off < 0x16800 ∧ off % 0x20 = 4 then hostWslot c (Fin.ofNat 64 ((off - 0x16000) / 0x20)) v s
  else plainWrite c off v s

/-- A write of a register of Threshold. -/
def writeThr (c : Ctx) (off : Nat) (v : Word) (s : State) : State :=
  if off = Reg.thrFence then thrFence v s
  else if off = Reg.thrUnfence then thrUnfence v s
  else if off = Reg.thrCmd then thrCommand c v s
  else if off = Reg.thrFeed then feed c v s
  else if off = Reg.thrLedgerSel then ledgerSel v s
  else if 0x20040 ≤ off ∧ off < 0x20080 ∧ off % 0x10 = 4 then writeBucket c (Fin.ofNat 4 ((off - 0x20040) / 0x10)) v s
  else plainWrite c off v s

/-- A write of a register of the Cellar. -/
def writeCellar (c : Ctx) (off : Nat) (v : Word) (s : State) : State :=
  if off = Reg.celCmd then celCommand (bitsOf v.toNat 0 4) s
  else if off = Reg.celWallclock ∨ off = Reg.celWallclock + 4 then (plainWrite c off v s).setFld Reg.celStatus 6 1 1
  else if off = Reg.celHealthSel then
    let s1 := plainWrite c off v s
    healthView (s1.fld Reg.celHealthSel 0 17) s1
  else plainWrite c off v s

/-- A write of a register of the Chimney. -/
def writeChim (c : Ctx) (off : Nat) (v : Word) (s : State) : State :=
  if off = Reg.chimSkin then writeSkin c v s
  else if off = Reg.chimPace then writePace c v s
  else if Reg.chimRoomnCtl ≤ off ∧ off < Reg.chimRoomnCtl + 0x100 ∧ off % 8 = 0 then writeRoomCtl (Fin.ofNat 32 ((off - Reg.chimRoomnCtl) / 8)) v s
  else plainWrite c off v s

/-- A write of a register of the block Window or the Study. -/
def writeStudy (c : Ctx) (off : Nat) (v : Word) (s : State) : State :=
  if off = Reg.winSnap then writeSnap v (BitVec.ofNat 64 s.timebase) s
  else if off = Reg.studyDbgJobs then writeDbgJobs c v (BitVec.ofNat 64 s.timebase) s
  else if off = Reg.studyRegData then writeStudyHalf 0 v s
  else if off = Reg.studyRegData + 4 then writeStudyHalf 1 v s
  else if off = Reg.studySyncGo then studySync v s
  else if 0x70100 ≤ off ∧ off < 0x70900 then
    let r : RoomId := Fin.ofNat 32 ((off - 0x70100) / 0x40)
    let o := (off - 0x70100) % 0x40
    if o = 0 then writeRun r v s else if 8 ≤ o ∧ o < 0x28 then writeBreakpoint c r off v s else plainWrite c off v s
  else plainWrite c off v s

/-- A write that is served (R4, R6). -/
def writeServed (c : Ctx) (off : Nat) (v : Word) (s : State) : State :=
  match roomOfOffset off with
  | some (r, o) => writeRoom c r o v s
  | none =>
    if off < 0x10000 then writePorch c off v s
    else if off < 0x20000 then writeLand c off v s
    else if off < 0x30000 then writeThr c off v s
    else if off < 0x40000 then plainWrite c off v s
    else if off < 0x50000 then writeCellar c off v s
    else if off < 0x60000 then writeChim c off v s
    else writeStudy c off v s

/-- A control write of an offset with byte enables. -/
def writeAt (c : Ctx) (off be : Nat) (v : Word) (s : State) : State := access c off be true (fun s => writeServed c off v (respond 0 s)) s

end Sys2Proof.Machine
end

