-- ==== Sys2Proof/Machine/Arrivals.lean ====
section
/-! DEFINITION. What happens on its own inside the block, one arrival at a time: remote operations and multicasts (08_memory_movement.md,
R196-R201), launches (R191, R192), tags (R189), corrected words and patrol (R178, R180), and sync operations and wakes
(09_landing.md, R214, R221). An event that has nothing to act on changes nothing (log entry 2). -/

namespace Sys2Proof.Machine

/-- A U-format instruction with a field of its immediate as its row of the table has it (log entry 57). -/
def withImm (u : FmtU) (lo w v : Nat) : FmtU := { u with imm := BitVec.ofNat 24 (setBits u.imm.toNat lo w v) }

/-- Bytes that the host has made visible in DRAM before a write of its own (R281). -/
def hostWrites (h : HostBytes) (s : State) : State := { s with dram := s.dram.putCells h }

/-- The snapshot period elapses (R351): 0 takes none. -/
def periodSnap (timebase : Word64) (s : State) : State :=
  if s.fld Reg.winDumpCtl 16 16 = 0 then s else snapshot 0 timebase s

/-! ## The Hall -/

/-- Every launch and every Steward goes on as far as it can. -/
def goOn (s : State) : State := settleAll (dwRunAll s)

/-- The kind of a remote operation. -/
inductive HallKind where
  | write | add | read
  deriving DecidableEq, Repr

/-- What kind a remote operation is. -/
def HallOp.kind (o : HallOp) : HallKind :=
  match o.act with
  | .write _ => .write
  | .add _ _ => .add
  | .read _ => .read

/-- An operation reaches its target: the first of its source and target that is not applied, of the kind named (R11, R196,
R197). -/
def hallArrive (k : HallKind) (n : Nat) (s : State) : State :=
  match s.hall[n]? with
  | some o => if o.kind = k ∧ hallFirst s.hall n then goOn (hallApply n s) else s
  | none => s

/-- An acknowledgement returns (R197). -/
def hallAnswer (n : Nat) (s : State) : State := goOn (hallAck n s)

/-! ## Multicasts -/

/-- Runs an operation of a multicast: a fault is raised in the room that issued it. -/
def mcastDo (m : Mcast) (k : Op Unit) (s : State) : State :=
  match k s with
  | .ok _ s1 => s1
  | .error e s1 => raise m.src m.pc e s1

/-- The next packet of a multicast, to its attached receivers or by replay to a detached one (R200). -/
def mcastNext (n : Nat) (replay : Option RoomId) (s : State) : State :=
  match s.mcasts[n]? with
  | none => s
  | some m =>
    match replay with
    | none => mcastDo m (mcastGroup m) s
    | some r => mcastDo m (mcastReplay m r) s

/-- A receiver is detached (R200). -/
def mcastDrop (n : Nat) (r : RoomId) (s : State) : State :=
  match s.mcasts[n]? with
  | none => s
  | some m => mcastDetachAt m r s

/-- A multicast that has landed everywhere releases its region (R200, R201). -/
def mcastRelease (n : Nat) (s : State) : State :=
  match s.mcasts[n]? with
  | none => s
  | some m => if m.landed then settleAll (mcastFinish m s) else s

/-! ## Launches and tags -/

/-- A launch starts (R182, R194). -/
def launchStarts (r : RoomId) (s : State) : State := settle r (launchStart r s)

/-- A launch completes (R191). -/
def launchLands (r : RoomId) (ch : Fin 4) (s : State) : State := goOn (launchComplete r ch s)

/-- The room's step time advances, in units of 16 Hall cycles, to a launch's deadline: the launch of a channel, or one queued for
it, that is not complete breaches (R191, R192, log entry 123); never in a room of a debug job (R356). -/
def deadlineMet (r : RoomId) (ch : Fin 4) (now : Nat) (s : State) : State :=
  let s1 := s.modRoom r (fun m => { m with stepTime := max m.stepTime now })
  if roomDebug s r then s1
  else
    match ((s.room r).chan ch).filter (fun l => decide (l.deadline ≤ now) && !l.stopped) with
    | some l => breach r ch l s1
    | none =>
      match ((s.room r).queue 4).entries.find? (fun e => e.isLaunch && e.channel == ch && decide (e.deadline ≤ now)) with
      | some e => breachQueued r e s1
      | none => s1

/-- A free tag of a port is granted (R189). -/
def tagGranted (port : Fin 4) (write : Bool) (tag : Nat) (s : State) : State :=
  if write then grantWrite port tag s else grantRead port tag s

/-! ## Check bits -/

/-- A corrected word that waits for its rewrite is written with fresh check bits (R178). Corrections in the Ledger, the sync-word
store and the Keyring leave no list: their words in error by one bit are rewritten. -/
def eccRewrites (r : RoomId) (code : StoreCode) (word : Nat) (s : State) : State :=
  let drop (l : List (Nat × Nat)) := l.filter (fun e => !(e.1 == word && e.2 == 1))
  match code with
  | 5 => if s.pantryRewrites.contains word then s.eccClear none .pantry (· == word) else s
  | 6 => s.modThr (fun t => { t with ledgerEcc := drop t.ledgerEcc })
  | 7 => { s with land := { s.land with ecc := drop s.land.ecc } }
  | 8 => { s with land := { s.land with krEcc := drop s.land.krEcc } }
  | c =>
    if (s.room r).rewrites.contains (c.val, word) then
      s.modRoom r (fun m => { m with ecc := m.ecc.filter (fun e => !(e.1 == c.val && e.2.1 == word)),
                                     rewrites := m.rewrites.filter (fun e => e != (c.val, word)) })
    else s

/-- The stores of a room that patrol reads, in address order, with their words (R180, ROOM_ECC_CTL.scrub_en). -/
def patrolPlace (n : Nat) : Store × Nat :=
  if n < 0x20000 then (.shelf, n) else if n < 0x30000 then (.chest, n - 0x20000) else (.icache, n - 0x30000)

/-- Words of a room that patrol reads. -/
def patrolWords : Nat := 0x32000

/-- Words of the Pantry. -/
def pantryWords : Nat := 0x100000

/-- Patrol reads a word of a room: one bit is corrected, two are poisoned and counted (R178, R180). -/
def patrolRoom (r : RoomId) (s : State) : State :=
  let m := s.room r
  if s.fld (rreg r Reg.roomEccCtl) 0 1 = 1 ∧ m.power = .on then
    let (st, w) := patrolPlace (m.patrol % patrolWords)
    let s1 := s.modRoom r (fun m => { m with patrol := (m.patrol + 1) % patrolWords })
    match ((s.eccOf (some r) st).lookup w).getD 0 with
    | 0 => s1
    | 1 => s1.corrected (some r) st w
    | 2 => (s1.satFld (rreg r Reg.roomEccCorr) 24 8 1).modRoom r (fun m =>
        { m with ecc := m.ecc.map (fun e => if e.1 == st.code && e.2.1 == w then (e.1, e.2.1, 3) else e) })
    | _ => s1
  else s

/-- Patrol reads a word of the Pantry (R180). -/
def patrolHub (s : State) : State :=
  if s.fld Reg.hallPantryEccCtl 0 1 = 1 then
    let w := s.pantryPatrol % pantryWords
    let s1 := { s with pantryPatrol := (w + 1) % pantryWords }
    match (s.pantryEcc.lookup w).getD 0 with
    | 0 => s1
    | 1 => s1.corrected none .pantry w
    | 2 => { s1.satFld Reg.hallPantryEccCorr 24 8 1 with pantryEcc := s1.pantryEcc.map (fun e => if e.1 = w then (w, 3) else e) }
    | _ => s1
  else s

/-- Patrol of a room or of the hub. -/
def patrol (who : Option RoomId) (s : State) : State :=
  match who with | some r => patrolRoom r s | none => patrolHub s

/-! ## The Landing -/

/-- A room's sync operation reaches its word's home: the first of its room on its word (R214). -/
def syncArrive (n : Nat) (s : State) : State := if syncFirst s.land.ops n then settleAll (syncOpAt n s) else s

/-- A wake reaches its slot and releases a `sy.wait` stalled on it (R221). -/
def wakeLands (r : RoomId) (k : Fin 16) (s : State) : State :=
  match (s.room r).slots.get k with
  | .coming v st => settle r (s.setSlot r k (.wake v st))
  | _ => s

/-! ## The Floor -/

/-- A quarter's credits come back when the Floor is idle (R65). -/
def floorComesIdle (r : RoomId) (s : State) : State := settle r (floorIdleNow r s)

end Sys2Proof.Machine
end

