-- ==== Sys2Proof/Machine/CmdCellar.lean ====
section
/-! DEFINITION. The Cellar (13_cellar.md): its commands, the part's answers and its own work. -/

namespace Sys2Proof.Machine

/-- ERASE_SLOT (R324). -/
def execEraseSlot (c : Ctx) (s : State) : Host.Outcome State Fault Refusal :=
  atPort Reg.celCmd (writing c Reg.celCmd (celCommand 1)) s

/-- WRITE_SLOT, with the image that the host has written before it (R324). -/
def execWriteSlot (c : Ctx) (host : HostBytes) (s : State) : Host.Outcome State Fault Refusal :=
  atPort Reg.celCmd (writing c Reg.celCmd (celCommand 2)) (hostWrites host s)

/-- SWAP (R324, R322). -/
def execSwap (c : Ctx) (s : State) : Host.Outcome State Fault Refusal :=
  atPort Reg.celCmd (writing c Reg.celCmd (celCommand 3)) s

/-- WRITE_CAL, with the image that the host has written before it (R324). -/
def execWriteCal (c : Ctx) (host : HostBytes) (s : State) : Host.Outcome State Fault Refusal :=
  atPort Reg.celCmd (writing c Reg.celCmd (celCommand 4)) (hostWrites host s)

/-- MOUNT (R324, R329). -/
def execMount (c : Ctx) (s : State) : Host.Outcome State Fault Refusal :=
  atPort Reg.celCmd (writing c Reg.celCmd (celCommand 5)) s

/-- LIST (R324). -/
def execList (c : Ctx) (s : State) : Host.Outcome State Fault Refusal :=
  atPort Reg.celCmd (writing c Reg.celCmd (celCommand 6)) s

/-- RECALL (R324, R328). -/
def execRecall (c : Ctx) (s : State) : Host.Outcome State Fault Refusal :=
  atPort Reg.celCmd (writing c Reg.celCmd (celCommand 7)) s

/-- RELEASE (R324). -/
def execRelease (c : Ctx) (s : State) : Host.Outcome State Fault Refusal :=
  atPort Reg.celCmd (writing c Reg.celCmd (celCommand 8)) s

/-- READ_RAW (R324). -/
def execReadRaw (c : Ctx) (s : State) : Host.Outcome State Fault Refusal :=
  atPort Reg.celCmd (writing c Reg.celCmd (celCommand 9)) s

/-- A suspended erase resumes (R318). -/
def execEraseResume  (s : State) : Host.Outcome State Fault Refusal :=
  inBlock eraseResumed s

/-- An erase completes (R315, R333). -/
def execEraseComplete (us : Word) (ok : Bool) (s : State) : Host.Outcome State Fault Refusal :=
  inBlock (eraseDone us.toNat ok) s

/-- A program completes (R314, R326, R333). -/
def execFlashProgramComplete (ok : Bool) (s : State) : Host.Outcome State Fault Refusal :=
  inBlock (programDone ok) s

/-- Reclaim (R330). -/
def execReclaim  (s : State) : Host.Outcome State Fault Refusal :=
  inBlock reclaim s

/-- The retention scrub (R332). -/
def execRetentionScrub  (s : State) : Host.Outcome State Fault Refusal :=
  inBlock retention s

/-- The patrol of the Keepsake (R332). -/
def execCellarPatrol  (s : State) : Host.Outcome State Fault Refusal :=
  inBlock cellarPatrol s

/-- A second of CEL_WALLCLOCK (R332). -/
def execWallclockTick  (s : State) : Host.Outcome State Fault Refusal :=
  inBlock wallclock s

/-- A write of CEL_HEALTH_SEL (R315). -/
def execCelHealthSel (c : Ctx) (v : Word) (s : State) : Host.Outcome State Fault Refusal :=
  atPort Reg.celHealthSel (writing c Reg.celHealthSel (fun s => writeCellar c Reg.celHealthSel v s)) s

end Sys2Proof.Machine
end

