-- ==== Sys2Proof/Machine/CmdChimney.lean ====
section
/-! DEFINITION. The Chimney (14_chimney.md): its loops, its thermal decisions and the power states of the rooms. -/

namespace Sys2Proof.Machine

/-- A droop stretches edges of a room clock (R341). -/
def execDroopStretch (r : RoomId) (edges : Fin 3) (s : State) : Host.Outcome State Fault Refusal :=
  inBlock (droop r edges.val) s

/-- A microsecond of the room loops (R341, R348). -/
def execRoomLoopTick (margins : List (RoomId × BitVec 8)) (cycles : List (RoomId × List CycleEvents)) (s : State) : Host.Outcome State Fault Refusal :=
  inBlock (roomLoops margins cycles) s

/-- A rail has settled (R336). -/
def execRailSettle (g : Fin 4) (s : State) : Host.Outcome State Fault Refusal :=
  inBlock (railSettled g) s

/-- A budget period (R342). -/
def execBudgetTick (events : List (RoomId × List Nat)) (otherPj : Nat) (s : State) : Host.Outcome State Fault Refusal :=
  inBlock (budget events otherPj) s

/-- The skin loop (R344). -/
def execSkinTick  (s : State) : Host.Outcome State Fault Refusal :=
  inBlock skinLoop s

/-- The skin estimate has grown stale (R344). -/
def execSkinStale  (s : State) : Host.Outcome State Fault Refusal :=
  inBlock skinStale s

/-- A write of CHIM_SKIN (R344). -/
def execChimSkinWrite (c : Ctx) (v : Word) (s : State) : Host.Outcome State Fault Refusal :=
  atPort Reg.chimSkin (writing c Reg.chimSkin (writeSkin c v)) s

/-- The placement bias loop (R345). -/
def execBiasTick  (s : State) : Host.Outcome State Fault Refusal :=
  inBlock biasLoop s

/-- Port pacing (R345). -/
def execPacingTick  (s : State) : Host.Outcome State Fault Refusal :=
  inBlock pacing s

/-- The budget floor fences the hottest room (R343). -/
def execFloorFence  (s : State) : Host.Outcome State Fault Refusal :=
  inBlock floorFence s

/-- A sensor reading (R346). -/
def execSensorRead (r : RoomId) (raw : Int) (s : State) : Host.Outcome State Fault Refusal :=
  inBlock (fun s => if s.loopsRun then sensor r raw s else s) s

/-- A hot room is fenced (R346). -/
def execThermalFence (r : RoomId) (s : State) : Host.Outcome State Fault Refusal :=
  inBlock (thermalFence r) s

/-- A cool room is released (R346, R347). -/
def execChimneyRelease (r : RoomId) (s : State) : Host.Outcome State Fault Refusal :=
  inBlock (chimneyRelease r) s

/-- An idle room goes to RETAIN (R337). -/
def execRoomIdleRetain (r : RoomId) (s : State) : Host.Outcome State Fault Refusal :=
  inBlock (idleRetain r) s

/-- A retained room wakes (R337). -/
def execRoomWake (r : RoomId) (s : State) : Host.Outcome State Fault Refusal :=
  inBlock (wakeRoom r) s

/-- A write of CHIM_ROOMn_CTL (R337). -/
def execChimRoomCtlOff (c : Ctx) (r : RoomId) (v : Word) (s : State) : Host.Outcome State Fault Refusal :=
  atPort (ctlKey r) (writing c (ctlKey r) (writeRoomCtl r v)) s

/-- A read of CHIM_ROOMn_STAT (R4, R341). -/
def execChimRoomStatRead (c : Ctx) (r : RoomId) (s : State) : Host.Outcome State Fault Refusal :=
  atPort (statKey r) (readAt c (statKey r) 0xF) s

end Sys2Proof.Machine
end

