-- ==== Sys2Proof/Machine/CmdLanding.lean ====
section
/-! DEFINITION. The Landing (09_landing.md): the sync instructions, barriers, sync words and the host's registers. -/

namespace Sys2Proof.Machine

/-- `sy.arrive` (R206, R207). -/
def execSyArrive (r : RoomId) (u : FmtU) (s : State) : Host.Outcome State Fault Refusal :=
  inBlock (issue r (.syArrive u)) s

/-- A barrier channel releases (R206, R209); a step barrier ends its step (R26, R235). -/
def execBarrierRelease (ch : ChanId) (s : State) : Host.Outcome State Fault Refusal :=
  inBlock (barrierRelease ch) s

/-- A channel does not release within its limit (R211). -/
def execStepWatchdog (ch : ChanId) (s : State) : Host.Outcome State Fault Refusal :=
  inBlock (stepWatchdog ch) s

/-- A checkpoint commits (R26). -/
def execCheckpointCommit (j : SlotId) (s : State) : Host.Outcome State Fault Refusal :=
  inBlock (checkpointCommit j) s

/-- `sy.signal` (R214). -/
def execSySignal (r : RoomId) (u : FmtU) (s : State) : Host.Outcome State Fault Refusal :=
  inBlock (issue r (.sySignal u)) s

/-- `sy.add` (R214). -/
def execSyAdd (r : RoomId) (u : FmtU) (s : State) : Host.Outcome State Fault Refusal :=
  inBlock (issue r (.syAdd (withImm u 10 1 0))) s

/-- `sy.add` as a set (R214). -/
def execSySet (r : RoomId) (u : FmtU) (s : State) : Host.Outcome State Fault Refusal :=
  inBlock (issue r (.syAdd (withImm u 10 1 1))) s

/-- `sy.watch` (R218). -/
def execSyWatch (r : RoomId) (u : FmtU) (s : State) : Host.Outcome State Fault Refusal :=
  inBlock (issue r (.syWatch (withImm u 16 1 0))) s

/-- `sy.watch` as a cancel (R221). -/
def execSyWatchCancel (r : RoomId) (u : FmtU) (s : State) : Host.Outcome State Fault Refusal :=
  inBlock (issue r (.syWatch (withImm u 16 1 1))) s

/-- `sy.wait` on a slot (R221). -/
def execSyWait (r : RoomId) (u : FmtU) (s : State) : Host.Outcome State Fault Refusal :=
  inBlock (issue r (.syWait (withImm u 4 1 0))) s

/-- `sy.wait` on a barrier (R207). -/
def execSyWaitBarrier (r : RoomId) (u : FmtU) (s : State) : Host.Outcome State Fault Refusal :=
  inBlock (issue r (.syWait (withImm u 4 1 1))) s

/-- `sy.fence` (R216). -/
def execSyFence (r : RoomId) (u : FmtU) (s : State) : Host.Outcome State Fault Refusal :=
  inBlock (issue r (.syFence u)) s

/-- An operation reaches its word's home (R214). -/
def execSyncOpApply (n : Nat) (s : State) : Host.Outcome State Fault Refusal :=
  inBlock (syncArrive n) s

/-- A wake reaches its slot (R221). -/
def execWakeArrival (r : RoomId) (slot : Fin 16) (s : State) : Host.Outcome State Fault Refusal :=
  inBlock (wakeLands r slot) s

/-- A write of LAND_BAR_PORCH (R210). -/
def execLandBarPorch (c : Ctx) (v : Word) (s : State) : Host.Outcome State Fault Refusal :=
  atPort Reg.landBarPorch (writing c Reg.landBarPorch (writeBarPorch v)) s

/-- A write of LAND_H_SIGNAL (R214, R223). -/
def execLandHSignal (c : Ctx) (v : Word) (s : State) : Host.Outcome State Fault Refusal :=
  atPort Reg.landHSignal (writing c Reg.landHSignal (hostSignal c v)) s

/-- A write of LAND_H_ADD (R214, R223). -/
def execLandHAdd (c : Ctx) (v : Word) (s : State) : Host.Outcome State Fault Refusal :=
  atPort Reg.landHAdd (writing c Reg.landHAdd (hostAdd c v)) s

/-- A write of LAND_H_SET (R214, R223). -/
def execLandHSet (c : Ctx) (v : Word) (s : State) : Host.Outcome State Fault Refusal :=
  atPort Reg.landHSet (writing c Reg.landHSet (hostSet c v)) s

/-- A write of LAND_H_BIND (R224). -/
def execLandHBind (c : Ctx) (v : Word) (s : State) : Host.Outcome State Fault Refusal :=
  atPort Reg.landHBind (writing c Reg.landHBind (hostBind c v)) s

/-- A write of LAND_H_UNBIND (R224). -/
def execLandHUnbind (c : Ctx) (v : Word) (s : State) : Host.Outcome State Fault Refusal :=
  atPort Reg.landHUnbind (writing c Reg.landHUnbind (hostUnbind c v)) s

/-- A write of LAND_H_WSLOTs_CTL that arms the slot (R218). -/
def execLandHWslotArm (c : Ctx) (slot : Fin 64) (v : Word) (s : State) : Host.Outcome State Fault Refusal :=
  atPort (Reg.landHWslotsCtl + 0x20 * slot.val) (writing c (Reg.landHWslotsCtl + 0x20 * slot.val) (hostWslot c slot ((v ||| 0x10000) &&& ~~~0x20000))) s

/-- A write of LAND_H_WSLOTs_CTL that cancels the slot (R221). -/
def execLandHWslotCancel (c : Ctx) (slot : Fin 64) (v : Word) (s : State) : Host.Outcome State Fault Refusal :=
  atPort (Reg.landHWslotsCtl + 0x20 * slot.val) (writing c (Reg.landHWslotsCtl + 0x20 * slot.val) (hostWslot c slot ((v ||| 0x20000) &&& ~~~0x10000))) s

/-- A read of LAND_H_STATUS (R4, R214). -/
def execLandHStatusRead (c : Ctx) (s : State) : Host.Outcome State Fault Refusal :=
  atPort Reg.landHStatus (readAt c Reg.landHStatus 0xF) s

end Sys2Proof.Machine
end

