-- ==== Sys2Proof/Machine/CmdMovement.lean ====
section
/-! DEFINITION. The Dumbwaiter, the Hall and the scrubbing of the stores (08_memory_movement.md). -/

namespace Sys2Proof.Machine

/-- `dw.launch` (R182). -/
def execDwLaunch (r : RoomId) (u : FmtU) (s : State) : Host.Outcome State Fault Refusal :=
  inBlock (issue r (.dwLaunch u)) s

/-- A queued launch starts (R194). -/
def execDwLaunchStart (r : RoomId) (s : State) : Host.Outcome State Fault Refusal :=
  inBlock (launchStarts r) s

/-- A launch completes (R191). -/
def execDwLaunchComplete (r : RoomId) (ch : Fin 4) (s : State) : Host.Outcome State Fault Refusal :=
  inBlock (launchLands r ch) s

/-- `dw.wait` (R270). -/
def execDwWait (r : RoomId) (u : FmtU) (s : State) : Host.Outcome State Fault Refusal :=
  inBlock (issue r (.dwWait u)) s

/-- `dw.swap` (R195). -/
def execDwSwap (r : RoomId) (u : FmtU) (s : State) : Host.Outcome State Fault Refusal :=
  inBlock (issue r (.dwSwap u)) s

/-- `dw.put` (R196). -/
def execDwPut (r : RoomId) (u : FmtU) (s : State) : Host.Outcome State Fault Refusal :=
  inBlock (issue r (.dwPut u)) s

/-- `dw.add` (R196). -/
def execDwAdd (r : RoomId) (u : FmtU) (s : State) : Host.Outcome State Fault Refusal :=
  inBlock (issue r (.dwAdd u)) s

/-- `dw.mcast` (R199). -/
def execDwMcast (r : RoomId) (u : FmtU) (s : State) : Host.Outcome State Fault Refusal :=
  inBlock (issue r (.dwMcast u)) s

/-- A tag is granted (R189). -/
def execTagGrant (port : Fin 4) (write : Bool) (tag : BitVec 8) (s : State) : Host.Outcome State Fault Refusal :=
  inBlock (tagGranted port write tag.toNat) s

/-- A remote write or a multicast packet is applied (R196, R385). -/
def execRemoteWriteApply (n : Nat) (s : State) : Host.Outcome State Fault Refusal :=
  inBlock (hallArrive .write n) s

/-- A remote add is applied (R197). -/
def execRemoteAddApply (n : Nat) (s : State) : Host.Outcome State Fault Refusal :=
  inBlock (hallArrive .add n) s

/-- A read-return is served (R196). -/
def execReadReturnService (n : Nat) (s : State) : Host.Outcome State Fault Refusal :=
  inBlock (hallArrive .read n) s

/-- An acknowledgement returns (R197). -/
def execRemoteAck (n : Nat) (s : State) : Host.Outcome State Fault Refusal :=
  inBlock (hallAnswer n) s

/-- The next packet of a multicast is sent (R200). -/
def execMcastSend (n : Nat) (replay : Option RoomId) (s : State) : Host.Outcome State Fault Refusal :=
  inBlock (mcastNext n replay) s

/-- A receiver is detached (R200). -/
def execMcastDetach (n : Nat) (r : RoomId) (s : State) : Host.Outcome State Fault Refusal :=
  inBlock (mcastDrop n r) s

/-- A multicast has landed everywhere (R201). -/
def execPantryRelease (n : Nat) (s : State) : Host.Outcome State Fault Refusal :=
  inBlock (mcastRelease n) s

/-- A launch misses its deadline (R192). -/
def execScheduleBreach (r : RoomId) (ch : Fin 4) (now : Nat) (s : State) : Host.Outcome State Fault Refusal :=
  inBlock (deadlineMet r ch now) s

/-- A corrected word is rewritten (R178). -/
def execEccRewrite (r : RoomId) (store : StoreCode) (word : Nat) (s : State) : Host.Outcome State Fault Refusal :=
  inBlock (eccRewrites r store word) s

/-- Patrol reads its next word (R180). -/
def execPatrolScrub (who : Option RoomId) (s : State) : Host.Outcome State Fault Refusal :=
  inBlock (patrol who) s

end Sys2Proof.Machine
end

