-- ==== Sys2Proof/Machine/CmdPins.lean ====
section
/-! DEFINITION. The memory ports and the pins (16_signals.md). -/

namespace Sys2Proof.Machine

/-- A read data beat (R366). -/
def execReadDataBeat (port : Fin 4) (tag : BitVec 8) (beat : BitVec 2) (data : BitVec 256) (resp : BitVec 2) (rtt : Nat) (s : State) : Host.Outcome State Fault Refusal :=
  atPins (portBeat port tag.toNat beat.toNat (bytesOfNat 32 data.toNat) resp.toNat rtt) s

/-- A write response (R366). -/
def execWriteResponse (port : Fin 4) (tag : BitVec 7) (resp : BitVec 2) (rtt : Nat) (s : State) : Host.Outcome State Fault Refusal :=
  atPins (portAnswer port tag.toNat resp.toNat rtt) s

/-- A credit returns (R364). -/
def execCreditReturn (port : Fin 4) (chan : Fin 3) (s : State) : Host.Outcome State Fault Refusal :=
  atPins (creditBack port chan) s

/-- `cold_rst_n` asserts (R373). -/
def execColdReset  (s : State) : Host.Outcome State Fault Refusal :=
  atPins coldReset s

/-- Cold reset is released and start-up runs (R304, R305). -/
def execColdResetRelease (facts : BootFacts) (s : State) : Host.Outcome State Fault Refusal :=
  atPins (coldRelease facts) s

/-- `warm_rst_n` asserts (R373, R374). -/
def execWarmReset (facts : BootFacts) (s : State) : Host.Outcome State Fault Refusal :=
  atPins (warmReset facts) s

/-- The tags outstanding 100 µs after a warm reset are freed (R374). -/
def execDrainTimeout (port : Fin 4) (s : State) : Host.Outcome State Fault Refusal :=
  atPins (drainTimeout port) s

/-- `aon_rst_n` resets the Porch stub (R378). -/
def execAonReset  (s : State) : Host.Outcome State Fault Refusal :=
  atPins aonReset s

/-- `iso_en` rises (R376). -/
def execIsoEnable  (s : State) : Host.Outcome State Fault Refusal :=
  atPins isoEnable s

/-- `iso_en` falls (R378). -/
def execIsoDisable  (s : State) : Host.Outcome State Fault Refusal :=
  atPins isoDisable s

/-- A rail of the block falls (R379). -/
def execRailLoss  (s : State) : Host.Outcome State Fault Refusal :=
  atPins railLoss s

end Sys2Proof.Machine
end

