-- ==== Sys2Proof/Machine/CmdPorch.lean ====
section
/-! DEFINITION. The Porch (12_porch_host.md): queues, jobs, faults, interrupts and the reset of a context. -/

namespace Sys2Proof.Machine

/-- A doorbell, after the bytes that the host has written before it (R281, R283). -/
def execDoorbell (c : Ctx) (q : Fin 16) (v : Word) (host : HostBytes) (s : State) : Host.Outcome State Fault Refusal :=
  atPort (Reg.porchQqTail + 0x40 * q.val) (writing c (Reg.porchQqTail + 0x40 * q.val) (doorbell q v)) (hostWrites host s)

/-- The next entry, a SUBMIT, is taken (R283, R287). -/
def execSubmit  (s : State) : Host.Outcome State Fault Refusal :=
  inBlock submit s

/-- The next entry, a END, is taken (R283, R288). -/
def execEnd  (s : State) : Host.Outcome State Fault Refusal :=
  inBlock endJob s

/-- The next entry, a ABORT, is taken (R283, R288). -/
def execAbort  (s : State) : Host.Outcome State Fault Refusal :=
  inBlock abort s

/-- The next entry, a PREEMPT, is taken (R283, R288). -/
def execPreempt  (s : State) : Host.Outcome State Fault Refusal :=
  inBlock preempt s

/-- The next entry, a RESUME, is taken (R283, R288). -/
def execResume  (s : State) : Host.Outcome State Fault Refusal :=
  inBlock resume s

/-- A job is loaded (R288). -/
def execJobLoaded (j : SlotId) (s : State) : Host.Outcome State Fault Refusal :=
  inBlock (jobLoaded j) s

/-- A fault reaches the Porch (R290, R291). -/
def execJobFault (j : SlotId) (tied : Nat) (s : State) : Host.Outcome State Fault Refusal :=
  inBlock (jobFault j tied) s

/-- A restart that waits for a room goes on (R293). -/
def execRestartResume (j : SlotId) (s : State) : Host.Outcome State Fault Refusal :=
  inBlock (restartResume j) s

/-- A restart completes (R293, R297). -/
def execRestartComplete (j : SlotId) (us : BitVec 16) (s : State) : Host.Outcome State Fault Refusal :=
  inBlock (restartComplete j us.toNat) s

/-- A write of PORCH_Qq_CFG (R283). -/
def execPorchQCfgWrite (c : Ctx) (q : Fin 16) (v : Word) (s : State) : Host.Outcome State Fault Refusal :=
  atPort (Reg.porchQqCfg + 0x40 * q.val) (writing c (Reg.porchQqCfg + 0x40 * q.val) (writeQCfg c q v)) s

/-- A write of PORCH_Qq_CHEAD (R285). -/
def execPorchQCheadWrite (c : Ctx) (q : Fin 16) (v : Word) (s : State) : Host.Outcome State Fault Refusal :=
  atPort (Reg.porchQqChead + 0x40 * q.val) (writing c (Reg.porchQqChead + 0x40 * q.val) (writeChead q v)) s

/-- A write of PORCH_CTX_RESET (R301). -/
def execPorchCtxReset (c : Ctx) (v : Word) (s : State) : Host.Outcome State Fault Refusal :=
  atPort Reg.porchCtxReset (writing c Reg.porchCtxReset (writeCtxReset v)) s

/-- A write of PORCH_WARM_RESET (R306). -/
def execPorchWarmReset (c : Ctx) (v : Word) (facts : BootFacts) (s : State) : Host.Outcome State Fault Refusal :=
  if s.up then atPins (writing c Reg.porchWarmReset (writeWarmReset v facts)) s else atPort Reg.porchWarmReset id s

/-- A write of PORCH_IRQv_STATUS (R303). -/
def execPorchIrqStatusWrite (c : Ctx) (vec : Fin 8) (v : Word) (s : State) : Host.Outcome State Fault Refusal :=
  atPort (Reg.porchIrqvStatus + 0x20 * vec.val) (writing c (Reg.porchIrqvStatus + 0x20 * vec.val) (writeIrqStatus c vec v)) s

/-- A read of PORCH_JOBj_STATUS (R4, R290). -/
def execPorchJobStatusRead (c : Ctx) (j : SlotId) (s : State) : Host.Outcome State Fault Refusal :=
  atPort (Reg.porchJobjStatus + 0x40 * j.val) (readAt c (Reg.porchJobjStatus + 0x40 * j.val) 0xF) s

/-- A read of PORCH_JOBj_RESTART_US (R4, R297). -/
def execPorchJobRestartUsRead (c : Ctx) (j : SlotId) (s : State) : Host.Outcome State Fault Refusal :=
  atPort (Reg.porchJobjRestartUs + 0x40 * j.val) (readAt c (Reg.porchJobjRestartUs + 0x40 * j.val) 0xF) s

/-- A read of PORCH_FLOG_CFG (R4, R292). -/
def execPorchFlogCfgRead (c : Ctx) (s : State) : Host.Outcome State Fault Refusal :=
  atPort Reg.porchFlogCfg (readAt c Reg.porchFlogCfg 0xF) s

end Sys2Proof.Machine
end

