-- ==== Sys2Proof/Machine/CmdRegisters.lean ====
section
/-! DEFINITION. Accesses of registers with a behaviour of their own, and of the control window as a whole (01_anatomy.md, R4-R8, R16). -/

namespace Sys2Proof.Machine

/-- A write of FL_CTL (R85). -/
def execFlCtlWrite (c : Ctx) (r : RoomId) (v : Word) (s : State) : Host.Outcome State Fault Refusal :=
  atPort (rreg r Reg.flCtl) (writing c (rreg r Reg.flCtl) (writeFlCtl r v)) s

/-- A write of FL_CREDIT (R65). -/
def execFlCreditWrite (c : Ctx) (r : RoomId) (v : Word) (s : State) : Host.Outcome State Fault Refusal :=
  atPort (rreg r Reg.flCredit) (writing c (rreg r Reg.flCredit) (writeFlCredit r v)) s

/-- A read of FL_CREDIT (R4, R65). -/
def execFlCreditRead (c : Ctx) (r : RoomId) (s : State) : Host.Outcome State Fault Refusal :=
  atPort (rreg r Reg.flCredit) (readAt c (rreg r Reg.flCredit) 0xF) s

/-- A write of ROOM_EXC_CTL (R103). -/
def execRoomExcClear (c : Ctx) (r : RoomId) (v : Word) (s : State) : Host.Outcome State Fault Refusal :=
  atPort (rreg r Reg.roomExcCtl) (writing c (rreg r Reg.roomExcCtl) (writeExcCtl c r v)) s

/-- A read of ROOM_EXC_INFO (R8, R103). -/
def execRoomExcInfoRead (c : Ctx) (r : RoomId) (s : State) : Host.Outcome State Fault Refusal :=
  atPort (rreg r Reg.roomExcInfo) (readAt c (rreg r Reg.roomExcInfo) 0xF) s

/-- A read of ROOM_EXC_COUNT (R4, R103). -/
def execRoomExcCountRead (c : Ctx) (r : RoomId) (s : State) : Host.Outcome State Fault Refusal :=
  atPort (rreg r Reg.roomExcCount) (readAt c (rreg r Reg.roomExcCount) 0xF) s

/-- A read of the low word of a wide register, or of any other register (R4, R7, R8). -/
def execLowWordRead (p : ReadPort) (off : BitVec 24) (s : State) : Host.Outcome State Fault Refusal :=
  atSide p.port off.toNat (readAt p.port.ctx off.toNat p.be.toNat) s

/-- A read of DW_TAGS (R4, R190). -/
def execDwTagsRead (c : Ctx) (r : RoomId) (s : State) : Host.Outcome State Fault Refusal :=
  atPort (rreg r Reg.dwTags) (readAt c (rreg r Reg.dwTags) 0xF) s

/-- A read of DW_RTT_MAX (R4, R190). -/
def execDwRttMaxRead (c : Ctx) (r : RoomId) (s : State) : Host.Outcome State Fault Refusal :=
  atPort (rreg r Reg.dwRttMax) (readAt c (rreg r Reg.dwRttMax) 0xF) s

/-- A read of ROOM_ECC_CORR (R4, R178). -/
def execRoomEccCorrRead (c : Ctx) (r : RoomId) (s : State) : Host.Outcome State Fault Refusal :=
  atPort (rreg r Reg.roomEccCorr) (readAt c (rreg r Reg.roomEccCorr) 0xF) s

/-- A read of HALL_PANTRY_ECC_CORR (R4, R178). -/
def execHallPantryEccCorrRead (c : Ctx) (s : State) : Host.Outcome State Fault Refusal :=
  atPort Reg.hallPantryEccCorr (readAt c Reg.hallPantryEccCorr 0xF) s

/-- A read of HALL_PORTk_RTT_MAX (R4, R368). -/
def execHallPortRttMaxRead (c : Ctx) (k : Fin 4) (s : State) : Host.Outcome State Fault Refusal :=
  atPort (Reg.hallPortkRttMax + 8 * k.val) (readAt c (Reg.hallPortkRttMax + 8 * k.val) 0xF) s

/-- A read of HALL_PORTk_PROTO (R4, R364). -/
def execHallPortProtoRead (c : Ctx) (k : Fin 4) (s : State) : Host.Outcome State Fault Refusal :=
  atPort (Reg.hallPortkProto + 4 * k.val) (readAt c (Reg.hallPortkProto + 4 * k.val) 0xF) s

/-- An access of a retained room: it stays in RETAIN (R16). -/
def execRoomRetainAccess (c : Ctx) (r : RoomId) (off : BitVec 18) (write : Option Word) (s : State) : Host.Outcome State Fault Refusal :=
  match write with
  | none => atPort (rreg r off.toNat) (fun s => if (s.room r).power = .retain then readAt c (rreg r off.toNat) 0xF s else s) s
  | some v => atPort (rreg r off.toNat) (fun s => if (s.room r).power = .retain then writeAt c (rreg r off.toNat) 0xF v s else s) s

/-- A control write (R4, R6, R7). One that starts a warm reset acts on the pins (R373). -/
def execRegisterWrite (p : CtlPort) (off : BitVec 24) (be : BitVec 4) (v : Word) (s : State) : Host.Outcome State Fault Refusal :=
  if s.up ∧ off.toNat = Reg.porchWarmReset then atPins (viaPort p (writeAt p.ctx off.toNat be.toNat v)) s
  else atSide p off.toNat (writeAt p.ctx off.toNat be.toNat v) s

end Sys2Proof.Machine
end

