-- ==== Sys2Proof/Machine/CmdSteward.lean ====
section
/-! DEFINITION. The Steward's scalar, branch and system instructions (11_instruction_set.md, R257, R262, R263, R270, R360). -/

namespace Sys2Proof.Machine

/-- `add` (R262). -/
def execAdd (r : RoomId) (f : FmtRI) (s : State) : Host.Outcome State Fault Refusal :=
  inBlock (issue r (.add f)) s

/-- `sub` (R262). -/
def execSub (r : RoomId) (f : FmtRI) (s : State) : Host.Outcome State Fault Refusal :=
  inBlock (issue r (.sub f)) s

/-- `and` (R262). -/
def execAnd (r : RoomId) (f : FmtRI) (s : State) : Host.Outcome State Fault Refusal :=
  inBlock (issue r (.and f)) s

/-- `or` (R262). -/
def execOr (r : RoomId) (f : FmtRI) (s : State) : Host.Outcome State Fault Refusal :=
  inBlock (issue r (.or f)) s

/-- `xor` (R262). -/
def execXor (r : RoomId) (f : FmtRI) (s : State) : Host.Outcome State Fault Refusal :=
  inBlock (issue r (.xor f)) s

/-- `shl` (R262). -/
def execShl (r : RoomId) (f : FmtRI) (s : State) : Host.Outcome State Fault Refusal :=
  inBlock (issue r (.shl f)) s

/-- `shr` (R262). -/
def execShr (r : RoomId) (f : FmtRI) (s : State) : Host.Outcome State Fault Refusal :=
  inBlock (issue r (.shr f)) s

/-- `mul` (R262). -/
def execMul (r : RoomId) (f : FmtRI) (s : State) : Host.Outcome State Fault Refusal :=
  inBlock (issue r (.mul f)) s

/-- `li` (R262). -/
def execLi (r : RoomId) (f : FmtI) (s : State) : Host.Outcome State Fault Refusal :=
  inBlock (issue r (.li f)) s

/-- `ld` (R263). -/
def execLd (r : RoomId) (f : FmtM) (s : State) : Host.Outcome State Fault Refusal :=
  inBlock (issue r (.ld f)) s

/-- `st` (R263). -/
def execSt (r : RoomId) (f : FmtM) (s : State) : Host.Outcome State Fault Refusal :=
  inBlock (issue r (.st f)) s

/-- `br` (R262). -/
def execBr (r : RoomId) (f : FmtB) (s : State) : Host.Outcome State Fault Refusal :=
  inBlock (issue r (.br f)) s

/-- `bz` (R262). -/
def execBz (r : RoomId) (f : FmtB) (s : State) : Host.Outcome State Fault Refusal :=
  inBlock (issue r (.bz f)) s

/-- `bnz` (R262). -/
def execBnz (r : RoomId) (f : FmtB) (s : State) : Host.Outcome State Fault Refusal :=
  inBlock (issue r (.bnz f)) s

/-- `loop` (R262). -/
def execLoop (r : RoomId) (f : FmtB) (s : State) : Host.Outcome State Fault Refusal :=
  inBlock (issue r (.loop f)) s

/-- `call` (R262). -/
def execCall (r : RoomId) (f : FmtB) (s : State) : Host.Outcome State Fault Refusal :=
  inBlock (issue r (.call f)) s

/-- `ret` (R262). -/
def execRet (r : RoomId) (f : FmtB) (s : State) : Host.Outcome State Fault Refusal :=
  inBlock (issue r (.ret f)) s

/-- `nop` (R270). -/
def execNop (r : RoomId) (u : FmtU) (s : State) : Host.Outcome State Fault Refusal :=
  inBlock (issue r (.nop u)) s

/-- `halt` (R257). -/
def execHalt (r : RoomId) (u : FmtU) (s : State) : Host.Outcome State Fault Refusal :=
  inBlock (issue r (.halt u)) s

/-- `trace` (R360). -/
def execTrace (r : RoomId) (u : FmtU) (s : State) : Host.Outcome State Fault Refusal :=
  inBlock (issue r (.trace u)) s

/-- `fault` (R270). -/
def execFault (r : RoomId) (u : FmtU) (s : State) : Host.Outcome State Fault Refusal :=
  inBlock (issue r (.fault u)) s

end Sys2Proof.Machine
end

