-- ==== Sys2Proof/Machine/CmdStudy.lean ====
section
/-! DEFINITION. The Window and the Study (15_window_study.md). -/

namespace Sys2Proof.Machine

/-- A write of WIN_CTL (R349). -/
def execWinClear (c : Ctx) (r : RoomId) (v : Word) (s : State) : Host.Outcome State Fault Refusal :=
  atPort (rreg r Reg.winCtl) (writing c (rreg r Reg.winCtl) (writeWinCtl r v)) s

/-- A write of WIN_SAMP_CTL (R354). -/
def execWinSampCtlWrite (c : Ctx) (r : RoomId) (v : Word) (s : State) : Host.Outcome State Fault Refusal :=
  atPort (rreg r Reg.winSampCtl) (writing c (rreg r Reg.winSampCtl) (writeSampCtl c r v)) s

/-- A read of WIN_SAMP_STATUS (R4, R354). -/
def execWinSampStatusRead (c : Ctx) (r : RoomId) (s : State) : Host.Outcome State Fault Refusal :=
  atPort (rreg r Reg.winSampStatus) (readAt c (rreg r Reg.winSampStatus) 0xF) s

/-- A meter window ends (R350). -/
def execMeterWindowEnd  (s : State) : Host.Outcome State Fault Refusal :=
  inBlock meterEnd s

/-- The snapshot period elapses (R351). -/
def execSnapshotPeriod (gray : Word64) (s : State) : Host.Outcome State Fault Refusal :=
  inBlock (periodSnap (grayDecode gray)) s

/-- A write of WIN_SNAP (R351). -/
def execWinSnap (c : Ctx) (v : Word) (gray : Word64) (s : State) : Host.Outcome State Fault Refusal :=
  atPort Reg.winSnap (writing c Reg.winSnap (writeSnap v (grayDecode gray))) s

/-- A read of WIN_DUMP_STATUS (R4, R352). -/
def execWinDumpStatusRead (c : Ctx) (s : State) : Host.Outcome State Fault Refusal :=
  atPort Reg.winDumpStatus (readAt c Reg.winDumpStatus 0xF) s

/-- A write of STUDY_DBG_JOBS (R351, R356). -/
def execStudySnap (c : Ctx) (v : Word) (gray : Word64) (s : State) : Host.Outcome State Fault Refusal :=
  atPort Reg.studyDbgJobs (writing c Reg.studyDbgJobs (writeDbgJobs c v (grayDecode gray))) s

/-- A write of STUDY_ROOMn_RUN (R357). -/
def execStudyHalt (c : Ctx) (r : RoomId) (v : Word) (s : State) : Host.Outcome State Fault Refusal :=
  atPort (Reg.studyRoomnRun + 0x40 * r.val) (writing c (Reg.studyRoomnRun + 0x40 * r.val) (writeRun r v)) s

/-- A write of STUDY_ROOMn_RUN with halt and step (R357). -/
def execStudyStep (c : Ctx) (r : RoomId) (s : State) : Host.Outcome State Fault Refusal :=
  atPort (Reg.studyRoomnRun + 0x40 * r.val) (writing c (Reg.studyRoomnRun + 0x40 * r.val) (writeRun r 3)) s

/-- An access of a word of STUDY_REG_DATA (R358). -/
def execStudyRegData (c : Ctx) (a : HalfAccess) (s : State) : Host.Outcome State Fault Refusal :=
  let off := Reg.studyRegData + 4 * b2n a.high
  match a.write with
  | none => atPort off (readAt c off 0xF) s
  | some v => atPort off (writing c off (writeStudyHalf (b2n a.high) v)) s

/-- A write of STUDY_SYNC_GO (R359). -/
def execStudySyncGo (c : Ctx) (v : Word) (s : State) : Host.Outcome State Fault Refusal :=
  atPort Reg.studySyncGo (writing c Reg.studySyncGo (studySync v)) s

/-- The overflow record of the trace (R360). -/
def execTraceOverflowRecord  (s : State) : Host.Outcome State Fault Refusal :=
  inBlock traceOverflow s

/-- A read of STUDY_TRACE_CTL (R4, R360). -/
def execStudyTraceCtlRead (c : Ctx) (s : State) : Host.Outcome State Fault Refusal :=
  atPort Reg.studyTraceCtl (readAt c Reg.studyTraceCtl 0xF) s

end Sys2Proof.Machine
end

