-- ==== Sys2Proof/Machine/CmdThreshold.lean ====
section
/-! DEFINITION. Threshold (10_streams.md): its commands, feeds, fences and ticks. -/

namespace Sys2Proof.Machine

/-- OPEN: an ordinary stream, or the duplex pair that its arguments name (R231). -/
def execOpen (c : Ctx) (s : State) : Host.Outcome State Fault Refusal :=
  atPort Reg.thrCmd (writing c Reg.thrCmd (thrCommand c 1)) s

/-- CLOSE of an entry (R231). -/
def execClose (c : Ctx) (index : BitVec 12) (s : State) : Host.Outcome State Fault Refusal :=
  atPort Reg.thrCmd (writing c Reg.thrCmd (thrCommand c (BitVec.ofNat 32 (2 + 16 * index.toNat)))) s

/-- PARK of an entry (R231, R328). -/
def execPark (c : Ctx) (index : BitVec 12) (s : State) : Host.Outcome State Fault Refusal :=
  atPort Reg.thrCmd (writing c Reg.thrCmd (thrCommand c (BitVec.ofNat 32 (3 + 16 * index.toNat)))) s

/-- UNPARK of an entry (R231, R328). -/
def execUnpark (c : Ctx) (index : BitVec 12) (s : State) : Host.Outcome State Fault Refusal :=
  atPort Reg.thrCmd (writing c Reg.thrCmd (thrCommand c (BitVec.ofNat 32 (4 + 16 * index.toNat)))) s

/-- RESTORE (R231). -/
def execRestore (c : Ctx) (s : State) : Host.Outcome State Fault Refusal :=
  atPort Reg.thrCmd (writing c Reg.thrCmd (thrCommand c 5)) s

/-- A write of THR_CMD with an op that R231 does not list (log entry 2 for one that it lists). -/
def execThrCmdInvalidOp (c : Ctx) (v : Word) (s : State) : Host.Outcome State Fault Refusal :=
  if 1 ≤ bitsOf v.toNat 0 4 ∧ bitsOf v.toNat 0 4 ≤ 5 then .next s else atPort Reg.thrCmd (writing c Reg.thrCmd (thrCommand c v)) s

/-- A feed, after the bytes that the host has written before it (R234, R281). -/
def execThrFeed (c : Ctx) (v : Word) (host : HostBytes) (s : State) : Host.Outcome State Fault Refusal :=
  atPort Reg.thrFeed (writing c Reg.thrFeed (feed c v)) (hostWrites host s)

/-- A write of THR_FENCE (R241). -/
def execThrFence (c : Ctx) (v : Word) (s : State) : Host.Outcome State Fault Refusal :=
  atPort Reg.thrFence (writing c Reg.thrFence (thrFence v)) s

/-- A write of THR_UNFENCE (R242). -/
def execThrUnfence (c : Ctx) (v : Word) (s : State) : Host.Outcome State Fault Refusal :=
  atPort Reg.thrUnfence (writing c Reg.thrUnfence (thrUnfence v)) s

/-- A write of THR_LEDGER_SEL (R228, R230). -/
def execThrLedgerSel (c : Ctx) (v : Word) (s : State) : Host.Outcome State Fault Refusal :=
  atPort Reg.thrLedgerSel (writing c Reg.thrLedgerSel (ledgerSel v)) s

/-- A read of THR_CLASSc_PENDING (R4, R234). -/
def execThrClassPendingRead (c : Ctx) (cls : Fin 4) (s : State) : Host.Outcome State Fault Refusal :=
  atPort (Reg.thrClasscPending + 0x10 * cls.val) (readAt c (Reg.thrClasscPending + 0x10 * cls.val) 0xF) s

/-- The 1 ms tick (R234, R236, R239). -/
def execThresholdTick (gray : Word64) (s : State) : Host.Outcome State Fault Refusal :=
  inBlock (thresholdTick (grayDecode gray)) s

/-- A window becomes due (R245). -/
def execWindowDue (index : BitVec 12) (gray : Word64) (s : State) : Host.Outcome State Fault Refusal :=
  inBlock (windowDue index.toNat (grayDecode gray)) s

/-- Resident states are copied (R240). -/
def execStateMoveCopy (j : SlotId) (s : State) : Host.Outcome State Fault Refusal :=
  inBlock (stateMoveCopy j) s

/-- The self-test of a room that re-admits is done (R242). -/
def execReadmitSelftestDone (r : RoomId) (pass : Bool) (s : State) : Host.Outcome State Fault Refusal :=
  inBlock (selftestDone r pass) s

/-- The images of a room that re-admits are loaded (R242). -/
def execReadmitLoadDone (r : RoomId) (s : State) : Host.Outcome State Fault Refusal :=
  inBlock (loadDone r) s

/-- A spilled page is fetched back (R171). -/
def execSpillPrefetch (j : SlotId) (page : Nat) (s : State) : Host.Outcome State Fault Refusal :=
  inBlock (spillPrefetch j page) s

end Sys2Proof.Machine
end

