-- ==== Sys2Proof/Machine/CmdUnits.lean ====
section
/-! DEFINITION. The instructions of the Floor, the Stair, the Lamp and the Parlour (04_floor.md, 05_stair.md, 06_lamp.md, 07_parlour.md; R270), and
the completion of a unit's instruction. A form that the table lists as a row of its own has the immediate bits that make it so (log
entry 57). -/

namespace Sys2Proof.Machine

/-- `fl.load` (R57). -/
def execFlLoad (r : RoomId) (u : FmtU) (s : State) : Host.Outcome State Fault Refusal :=
  inBlock (issue r (.flLoad u)) s

/-- `fl.run` (R59). -/
def execFlRun (r : RoomId) (u : FmtU) (s : State) : Host.Outcome State Fault Refusal :=
  inBlock (issue r (.flRun u)) s

/-- `fl.thin` (R80). -/
def execFlThin (r : RoomId) (u : FmtU) (s : State) : Host.Outcome State Fault Refusal :=
  inBlock (issue r (.flThin u)) s

/-- `fl.drain` (R77). -/
def execFlDrain (r : RoomId) (u : FmtU) (s : State) : Host.Outcome State Fault Refusal :=
  inBlock (issue r (.flDrain u)) s

/-- `fl.mode` (R63). -/
def execFlMode (r : RoomId) (u : FmtU) (s : State) : Host.Outcome State Fault Refusal :=
  inBlock (issue r (.flMode u)) s

/-- The Floor goes idle (R65). -/
def execFloorIdle (r : RoomId) (s : State) : Host.Outcome State Fault Refusal :=
  inBlock (floorComesIdle r) s

/-- `sc.step` (R110). -/
def execScStep (r : RoomId) (u : FmtU) (s : State) : Host.Outcome State Fault Refusal :=
  inBlock (issue r (.scStep (withImm u 0 1 0))) s

/-- `sc.step` in gated form (R110). -/
def execScStepGated (r : RoomId) (u : FmtU) (s : State) : Host.Outcome State Fault Refusal :=
  inBlock (issue r (.scStep (withImm u 0 1 1))) s

/-- `sc.chunk`, prep (R120). -/
def execScChunkPrep (r : RoomId) (u : FmtU) (s : State) : Host.Outcome State Fault Refusal :=
  inBlock (issue r (.scChunk (withImm u 0 2 0))) s

/-- `sc.chunk`, carry (R121). -/
def execScChunkCarry (r : RoomId) (u : FmtU) (s : State) : Host.Outcome State Fault Refusal :=
  inBlock (issue r (.scChunk (withImm u 0 2 1))) s

/-- `sc.chunk`, state (R122). -/
def execScChunkState (r : RoomId) (u : FmtU) (s : State) : Host.Outcome State Fault Refusal :=
  inBlock (issue r (.scChunk (withImm u 0 2 2))) s

/-- `sc.fold` (R125). -/
def execScFold (r : RoomId) (u : FmtU) (s : State) : Host.Outcome State Fault Refusal :=
  inBlock (issue r (.scFold u)) s

/-- `sc.export` (R129). -/
def execScExport (r : RoomId) (u : FmtU) (s : State) : Host.Outcome State Fault Refusal :=
  inBlock (issue r (.scExport u)) s

/-- `sc.import` (R130). -/
def execScImport (r : RoomId) (u : FmtU) (s : State) : Host.Outcome State Fault Refusal :=
  inBlock (issue r (.scImport u)) s

/-- `sc.fir` (R116). -/
def execScFir (r : RoomId) (u : FmtU) (s : State) : Host.Outcome State Fault Refusal :=
  inBlock (issue r (.scFir u)) s

/-- `sc.ema` (R117). -/
def execScEma (r : RoomId) (u : FmtU) (s : State) : Host.Outcome State Fault Refusal :=
  inBlock (issue r (.scEma u)) s

/-- `sc.modal` (R114). -/
def execScModal (r : RoomId) (u : FmtU) (s : State) : Host.Outcome State Fault Refusal :=
  inBlock (issue r (.scModal u)) s

/-- `lm.eval` (R136). -/
def execLmEval (r : RoomId) (u : FmtU) (s : State) : Host.Outcome State Fault Refusal :=
  inBlock (issue r (.lmEval u)) s

/-- `lm.sincos` (R144). -/
def execLmSincos (r : RoomId) (u : FmtU) (s : State) : Host.Outcome State Fault Refusal :=
  inBlock (issue r (.lmSincos u)) s

/-- `lm.stat` (R150). -/
def execLmStat (r : RoomId) (u : FmtU) (s : State) : Host.Outcome State Fault Refusal :=
  inBlock (issue r (.lmStat u)) s

/-- `lm.red` (R384). -/
def execLmRed (r : RoomId) (u : FmtU) (s : State) : Host.Outcome State Fault Refusal :=
  inBlock (issue r (.lmRed u)) s

/-- `lm.swap` (R145). -/
def execLmSwap (r : RoomId) (u : FmtU) (s : State) : Host.Outcome State Fault Refusal :=
  inBlock (issue r (.lmSwap u)) s

/-- `pa.attend` (R156). -/
def execPaAttend (r : RoomId) (u : FmtU) (s : State) : Host.Outcome State Fault Refusal :=
  inBlock (issue r (.paAttend u)) s

/-- `pa.pageset`, advance (R168). -/
def execPaPagesetAdvance (r : RoomId) (u : FmtU) (s : State) : Host.Outcome State Fault Refusal :=
  inBlock (issue r (.paPageset (withImm u 0 1 0))) s

/-- `pa.pageset`, narrow (R169). -/
def execPaPagesetNarrow (r : RoomId) (u : FmtU) (s : State) : Host.Outcome State Fault Refusal :=
  inBlock (issue r (.paPageset (withImm u 0 1 1))) s

/-- A unit instruction completes, or the drain beside a Floor's array (R77, R259). -/
def execInstructionComplete (r : RoomId) (e : UnitEnd) (s : State) : Host.Outcome State Fault Refusal :=
  inBlock (unitComplete r e) s

end Sys2Proof.Machine
end

