-- ==== Sys2Proof/Machine/Dispatch.lean ====
section
/-! DEFINITION. The meaning of every command: one arm per constructor of `Instr`. -/

namespace Sys2Proof.Machine

/-- The effect of a command. -/
def exec (i : Instr) (s : State) : Host.Outcome State Fault Refusal :=
  match i with
  | .add r f => Sys2Proof.Machine.execAdd r f s
  | .sub r f => Sys2Proof.Machine.execSub r f s
  | .and r f => Sys2Proof.Machine.execAnd r f s
  | .or r f => Sys2Proof.Machine.execOr r f s
  | .xor r f => Sys2Proof.Machine.execXor r f s
  | .shl r f => Sys2Proof.Machine.execShl r f s
  | .shr r f => Sys2Proof.Machine.execShr r f s
  | .mul r f => Sys2Proof.Machine.execMul r f s
  | .li r f => Sys2Proof.Machine.execLi r f s
  | .ld r f => Sys2Proof.Machine.execLd r f s
  | .st r f => Sys2Proof.Machine.execSt r f s
  | .br r f => Sys2Proof.Machine.execBr r f s
  | .bz r f => Sys2Proof.Machine.execBz r f s
  | .bnz r f => Sys2Proof.Machine.execBnz r f s
  | .loop r f => Sys2Proof.Machine.execLoop r f s
  | .call r f => Sys2Proof.Machine.execCall r f s
  | .ret r f => Sys2Proof.Machine.execRet r f s
  | .nop r u => Sys2Proof.Machine.execNop r u s
  | .halt r u => Sys2Proof.Machine.execHalt r u s
  | .trace r u => Sys2Proof.Machine.execTrace r u s
  | .fault r u => Sys2Proof.Machine.execFault r u s
  | .flLoad r u => Sys2Proof.Machine.execFlLoad r u s
  | .flRun r u => Sys2Proof.Machine.execFlRun r u s
  | .flThin r u => Sys2Proof.Machine.execFlThin r u s
  | .flDrain r u => Sys2Proof.Machine.execFlDrain r u s
  | .flMode r u => Sys2Proof.Machine.execFlMode r u s
  | .floorIdle r => Sys2Proof.Machine.execFloorIdle r s
  | .scStep r u => Sys2Proof.Machine.execScStep r u s
  | .scStepGated r u => Sys2Proof.Machine.execScStepGated r u s
  | .scChunkPrep r u => Sys2Proof.Machine.execScChunkPrep r u s
  | .scChunkCarry r u => Sys2Proof.Machine.execScChunkCarry r u s
  | .scChunkState r u => Sys2Proof.Machine.execScChunkState r u s
  | .scFold r u => Sys2Proof.Machine.execScFold r u s
  | .scExport r u => Sys2Proof.Machine.execScExport r u s
  | .scImport r u => Sys2Proof.Machine.execScImport r u s
  | .scFir r u => Sys2Proof.Machine.execScFir r u s
  | .scEma r u => Sys2Proof.Machine.execScEma r u s
  | .scModal r u => Sys2Proof.Machine.execScModal r u s
  | .lmEval r u => Sys2Proof.Machine.execLmEval r u s
  | .lmSincos r u => Sys2Proof.Machine.execLmSincos r u s
  | .lmStat r u => Sys2Proof.Machine.execLmStat r u s
  | .lmRed r u => Sys2Proof.Machine.execLmRed r u s
  | .lmSwap r u => Sys2Proof.Machine.execLmSwap r u s
  | .paAttend r u => Sys2Proof.Machine.execPaAttend r u s
  | .paPagesetAdvance r u => Sys2Proof.Machine.execPaPagesetAdvance r u s
  | .paPagesetNarrow r u => Sys2Proof.Machine.execPaPagesetNarrow r u s
  | .dwLaunch r u => Sys2Proof.Machine.execDwLaunch r u s
  | .dwLaunchStart r => Sys2Proof.Machine.execDwLaunchStart r s
  | .dwLaunchComplete r ch => Sys2Proof.Machine.execDwLaunchComplete r ch s
  | .dwWait r u => Sys2Proof.Machine.execDwWait r u s
  | .dwSwap r u => Sys2Proof.Machine.execDwSwap r u s
  | .dwPut r u => Sys2Proof.Machine.execDwPut r u s
  | .dwAdd r u => Sys2Proof.Machine.execDwAdd r u s
  | .dwMcast r u => Sys2Proof.Machine.execDwMcast r u s
  | .tagGrant port write tag => Sys2Proof.Machine.execTagGrant port write tag s
  | .remoteWriteApply n => Sys2Proof.Machine.execRemoteWriteApply n s
  | .remoteAddApply n => Sys2Proof.Machine.execRemoteAddApply n s
  | .readReturnService n => Sys2Proof.Machine.execReadReturnService n s
  | .remoteAck n => Sys2Proof.Machine.execRemoteAck n s
  | .mcastSend n replay => Sys2Proof.Machine.execMcastSend n replay s
  | .mcastDetach n r => Sys2Proof.Machine.execMcastDetach n r s
  | .pantryRelease n => Sys2Proof.Machine.execPantryRelease n s
  | .scheduleBreach r ch now => Sys2Proof.Machine.execScheduleBreach r ch now s
  | .eccRewrite r store word => Sys2Proof.Machine.execEccRewrite r store word s
  | .patrolScrub who => Sys2Proof.Machine.execPatrolScrub who s
  | .syArrive r u => Sys2Proof.Machine.execSyArrive r u s
  | .barrierRelease ch => Sys2Proof.Machine.execBarrierRelease ch s
  | .stepWatchdog ch => Sys2Proof.Machine.execStepWatchdog ch s
  | .checkpointCommit j => Sys2Proof.Machine.execCheckpointCommit j s
  | .sySignal r u => Sys2Proof.Machine.execSySignal r u s
  | .syAdd r u => Sys2Proof.Machine.execSyAdd r u s
  | .sySet r u => Sys2Proof.Machine.execSySet r u s
  | .syWatch r u => Sys2Proof.Machine.execSyWatch r u s
  | .syWatchCancel r u => Sys2Proof.Machine.execSyWatchCancel r u s
  | .syWait r u => Sys2Proof.Machine.execSyWait r u s
  | .syWaitBarrier r u => Sys2Proof.Machine.execSyWaitBarrier r u s
  | .syFence r u => Sys2Proof.Machine.execSyFence r u s
  | .syncOpApply n => Sys2Proof.Machine.execSyncOpApply n s
  | .wakeArrival r slot => Sys2Proof.Machine.execWakeArrival r slot s
  | .instructionComplete r e => Sys2Proof.Machine.execInstructionComplete r e s
  | .landBarPorch c v => Sys2Proof.Machine.execLandBarPorch c v s
  | .landHSignal c v => Sys2Proof.Machine.execLandHSignal c v s
  | .landHAdd c v => Sys2Proof.Machine.execLandHAdd c v s
  | .landHSet c v => Sys2Proof.Machine.execLandHSet c v s
  | .landHBind c v => Sys2Proof.Machine.execLandHBind c v s
  | .landHUnbind c v => Sys2Proof.Machine.execLandHUnbind c v s
  | .landHWslotArm c slot v => Sys2Proof.Machine.execLandHWslotArm c slot v s
  | .landHWslotCancel c slot v => Sys2Proof.Machine.execLandHWslotCancel c slot v s
  | .landHStatusRead c => Sys2Proof.Machine.execLandHStatusRead c s
  | .open_ c => Sys2Proof.Machine.execOpen c s
  | .close c index => Sys2Proof.Machine.execClose c index s
  | .park c index => Sys2Proof.Machine.execPark c index s
  | .unpark c index => Sys2Proof.Machine.execUnpark c index s
  | .restore c => Sys2Proof.Machine.execRestore c s
  | .thrCmdInvalidOp c v => Sys2Proof.Machine.execThrCmdInvalidOp c v s
  | .thrFeed c v host => Sys2Proof.Machine.execThrFeed c v host s
  | .thrFence c v => Sys2Proof.Machine.execThrFence c v s
  | .thrUnfence c v => Sys2Proof.Machine.execThrUnfence c v s
  | .thrLedgerSel c v => Sys2Proof.Machine.execThrLedgerSel c v s
  | .thrClassPendingRead c cls => Sys2Proof.Machine.execThrClassPendingRead c cls s
  | .thresholdTick timebase => Sys2Proof.Machine.execThresholdTick timebase s
  | .windowDue index timebase => Sys2Proof.Machine.execWindowDue index timebase s
  | .stateMoveCopy j => Sys2Proof.Machine.execStateMoveCopy j s
  | .readmitSelftestDone r pass => Sys2Proof.Machine.execReadmitSelftestDone r pass s
  | .readmitLoadDone r => Sys2Proof.Machine.execReadmitLoadDone r s
  | .spillPrefetch j page => Sys2Proof.Machine.execSpillPrefetch j page s
  | .doorbell c q v host => Sys2Proof.Machine.execDoorbell c q v host s
  | .submit => Sys2Proof.Machine.execSubmit s
  | .end_ => Sys2Proof.Machine.execEnd s
  | .abort => Sys2Proof.Machine.execAbort s
  | .preempt => Sys2Proof.Machine.execPreempt s
  | .resume => Sys2Proof.Machine.execResume s
  | .jobLoaded j => Sys2Proof.Machine.execJobLoaded j s
  | .jobFault j tied => Sys2Proof.Machine.execJobFault j tied s
  | .restartResume j => Sys2Proof.Machine.execRestartResume j s
  | .restartComplete j us => Sys2Proof.Machine.execRestartComplete j us s
  | .porchQCfgWrite c q v => Sys2Proof.Machine.execPorchQCfgWrite c q v s
  | .porchQCheadWrite c q v => Sys2Proof.Machine.execPorchQCheadWrite c q v s
  | .porchCtxReset c v => Sys2Proof.Machine.execPorchCtxReset c v s
  | .porchWarmReset c v facts => Sys2Proof.Machine.execPorchWarmReset c v facts s
  | .porchIrqStatusWrite c vec v => Sys2Proof.Machine.execPorchIrqStatusWrite c vec v s
  | .porchJobStatusRead c j => Sys2Proof.Machine.execPorchJobStatusRead c j s
  | .porchJobRestartUsRead c j => Sys2Proof.Machine.execPorchJobRestartUsRead c j s
  | .porchFlogCfgRead c => Sys2Proof.Machine.execPorchFlogCfgRead c s
  | .eraseSlot c => Sys2Proof.Machine.execEraseSlot c s
  | .writeSlot c host => Sys2Proof.Machine.execWriteSlot c host s
  | .swap c => Sys2Proof.Machine.execSwap c s
  | .writeCal c host => Sys2Proof.Machine.execWriteCal c host s
  | .mount c => Sys2Proof.Machine.execMount c s
  | .list c => Sys2Proof.Machine.execList c s
  | .recall c => Sys2Proof.Machine.execRecall c s
  | .release c => Sys2Proof.Machine.execRelease c s
  | .readRaw c => Sys2Proof.Machine.execReadRaw c s
  | .eraseResume => Sys2Proof.Machine.execEraseResume s
  | .eraseComplete us ok => Sys2Proof.Machine.execEraseComplete us ok s
  | .flashProgramComplete ok => Sys2Proof.Machine.execFlashProgramComplete ok s
  | .reclaim => Sys2Proof.Machine.execReclaim s
  | .retentionScrub => Sys2Proof.Machine.execRetentionScrub s
  | .cellarPatrol => Sys2Proof.Machine.execCellarPatrol s
  | .wallclockTick => Sys2Proof.Machine.execWallclockTick s
  | .celHealthSel c v => Sys2Proof.Machine.execCelHealthSel c v s
  | .droopStretch r edges => Sys2Proof.Machine.execDroopStretch r edges s
  | .roomLoopTick margins cycles => Sys2Proof.Machine.execRoomLoopTick margins cycles s
  | .railSettle g => Sys2Proof.Machine.execRailSettle g s
  | .budgetTick events otherPj => Sys2Proof.Machine.execBudgetTick events otherPj s
  | .skinTick => Sys2Proof.Machine.execSkinTick s
  | .skinStale => Sys2Proof.Machine.execSkinStale s
  | .chimSkinWrite c v => Sys2Proof.Machine.execChimSkinWrite c v s
  | .biasTick => Sys2Proof.Machine.execBiasTick s
  | .pacingTick => Sys2Proof.Machine.execPacingTick s
  | .floorFence => Sys2Proof.Machine.execFloorFence s
  | .sensorRead r raw => Sys2Proof.Machine.execSensorRead r raw s
  | .thermalFence r => Sys2Proof.Machine.execThermalFence r s
  | .chimneyRelease r => Sys2Proof.Machine.execChimneyRelease r s
  | .roomIdleRetain r => Sys2Proof.Machine.execRoomIdleRetain r s
  | .roomWake r => Sys2Proof.Machine.execRoomWake r s
  | .chimRoomCtlOff c r v => Sys2Proof.Machine.execChimRoomCtlOff c r v s
  | .chimRoomStatRead c r => Sys2Proof.Machine.execChimRoomStatRead c r s
  | .winClear c r v => Sys2Proof.Machine.execWinClear c r v s
  | .winSampCtlWrite c r v => Sys2Proof.Machine.execWinSampCtlWrite c r v s
  | .winSampStatusRead c r => Sys2Proof.Machine.execWinSampStatusRead c r s
  | .meterWindowEnd => Sys2Proof.Machine.execMeterWindowEnd s
  | .snapshotPeriod timebase => Sys2Proof.Machine.execSnapshotPeriod timebase s
  | .winSnap c v timebase => Sys2Proof.Machine.execWinSnap c v timebase s
  | .winDumpStatusRead c => Sys2Proof.Machine.execWinDumpStatusRead c s
  | .studySnap c v timebase => Sys2Proof.Machine.execStudySnap c v timebase s
  | .studyHalt c r v => Sys2Proof.Machine.execStudyHalt c r v s
  | .studyStep c r => Sys2Proof.Machine.execStudyStep c r s
  | .studyRegData c a => Sys2Proof.Machine.execStudyRegData c a s
  | .studySyncGo c v => Sys2Proof.Machine.execStudySyncGo c v s
  | .traceOverflowRecord => Sys2Proof.Machine.execTraceOverflowRecord s
  | .studyTraceCtlRead c => Sys2Proof.Machine.execStudyTraceCtlRead c s
  | .flCtlWrite c r v => Sys2Proof.Machine.execFlCtlWrite c r v s
  | .flCreditWrite c r v => Sys2Proof.Machine.execFlCreditWrite c r v s
  | .flCreditRead c r => Sys2Proof.Machine.execFlCreditRead c r s
  | .roomExcClear c r v => Sys2Proof.Machine.execRoomExcClear c r v s
  | .roomExcInfoRead c r => Sys2Proof.Machine.execRoomExcInfoRead c r s
  | .roomExcCountRead c r => Sys2Proof.Machine.execRoomExcCountRead c r s
  | .lowWordRead p off => Sys2Proof.Machine.execLowWordRead p off s
  | .dwTagsRead c r => Sys2Proof.Machine.execDwTagsRead c r s
  | .dwRttMaxRead c r => Sys2Proof.Machine.execDwRttMaxRead c r s
  | .roomEccCorrRead c r => Sys2Proof.Machine.execRoomEccCorrRead c r s
  | .hallPantryEccCorrRead c => Sys2Proof.Machine.execHallPantryEccCorrRead c s
  | .hallPortRttMaxRead c k => Sys2Proof.Machine.execHallPortRttMaxRead c k s
  | .hallPortProtoRead c k => Sys2Proof.Machine.execHallPortProtoRead c k s
  | .roomRetainAccess c r off write => Sys2Proof.Machine.execRoomRetainAccess c r off write s
  | .registerWrite p off be v => Sys2Proof.Machine.execRegisterWrite p off be v s
  | .readDataBeat port tag beat data resp rtt => Sys2Proof.Machine.execReadDataBeat port tag beat data resp rtt s
  | .writeResponse port tag resp rtt => Sys2Proof.Machine.execWriteResponse port tag resp rtt s
  | .creditReturn port chan => Sys2Proof.Machine.execCreditReturn port chan s
  | .coldReset => Sys2Proof.Machine.execColdReset s
  | .coldResetRelease facts => Sys2Proof.Machine.execColdResetRelease facts s
  | .warmReset facts => Sys2Proof.Machine.execWarmReset facts s
  | .drainTimeout port => Sys2Proof.Machine.execDrainTimeout port s
  | .aonReset => Sys2Proof.Machine.execAonReset s
  | .isoEnable => Sys2Proof.Machine.execIsoEnable s
  | .isoDisable => Sys2Proof.Machine.execIsoDisable s
  | .railLoss => Sys2Proof.Machine.execRailLoss s

end Sys2Proof.Machine
end

