-- ==== Sys2Proof/WellFormed.lean ====
section
/-! DEFINITION. Well-formed commands: those whose operands name something that the block has, where their types do not say it
already. A command that is not well formed has its meaning too. -/

namespace Sys2Proof

/-- Words of 64 bits in a store, by its code (R179). -/
def storeWords : StoreCode → Nat
  | 0 => 131072 | 1 => 65536 | 2 => 8192 | 3 => 1024 | 4 => 8192 | 5 => 1048576 | 6 => 131072 | 7 => 16384 | 8 => 32768

/-- Every room of a list is in it once. -/
def distinctRooms : List RoomId → Bool
  | [] => true
  | r :: t => !t.contains r && distinctRooms t

/-- The host writes bytes of the 48-bit address spaces of its 32 contexts only. -/
def hostInDram (h : HostBytes) : Bool := h.all (fun c => decide (c.1 % 2 ^ 64 < 2 ^ 48 ∧ c.1 / 2 ^ 64 < 32))

/-- A part that start-up accepts has at least 8,192 sectors (R309, R310). -/
def BootFacts.wf (f : BootFacts) : Bool := !f.partOk || decide (8192 ≤ f.sectors)

/-- The most that an event of a unit's datapath or of the Hall counts in a room cycle (R348); of any other code a cycle gives nothing. -/
def eventMost : Nat → Nat
  | 0x0F => 4 | 0x10 => 4 | 0x11 => 256 | 0x12 => 64 | 0x13 => 64 | 0x14 => 16 | 0x15 => 8 | 0x18 => 16 | 0x19 => 16 | _ => 0

/-- The well-formed commands. -/
def Instr.wf (i : Instr) : Bool :=
  match i with
  | .tagGrant _ write tag => decide (tag.toNat < if write then 128 else 256)
  | .scheduleBreach _ _ now => decide (now < 2 ^ 24)
  | .eccRewrite _ store word => decide (word < storeWords store)
  | .thrCmdInvalidOp _ v => decide (v.toNat % 16 = 0 ∨ 5 < v.toNat % 16)
  | .thrFeed _ _ host => hostInDram host
  | .spillPrefetch _ page => decide (page < 2 ^ 32)
  | .doorbell _ _ _ host => hostInDram host
  | .jobFault _ tied => decide (1 ≤ tied)
  | .porchWarmReset _ _ facts => facts.wf
  | .writeSlot _ host => hostInDram host
  | .writeCal _ host => hostInDram host
  | .droopStretch _ edges => decide (1 ≤ edges.val)
  | .roomLoopTick margins cycles => distinctRooms (margins.map Prod.fst) && distinctRooms (cycles.map Prod.fst) &&
      cycles.all (fun x => x.2.all (fun es => es.all (fun e => decide (e.2 ≤ eventMost e.1))))
  | .budgetTick events _ => distinctRooms (events.map Prod.fst) && events.all (fun e => decide (e.2.length ≤ 16))
  | .lowWordRead _ off => decide (off.toNat % 4 = 0)
  | .roomRetainAccess _ _ off _ => decide (off.toNat % 4 = 0)
  | .registerWrite _ off _ _ => decide (off.toNat % 4 = 0)
  | .coldResetRelease facts => facts.wf
  | .warmReset facts => facts.wf
  | .add .. | .sub .. | .and .. | .or .. | .xor .. | .shl .. | .shr .. | .mul .. | .li .. | .ld .. | .st .. | .br ..
  | .bz .. | .bnz .. | .loop .. | .call .. | .ret .. | .nop .. | .halt .. | .trace .. | .fault .. | .flLoad ..
  | .flRun .. | .flThin .. | .flDrain .. | .flMode .. | .floorIdle .. | .scStep .. | .scStepGated .. | .scChunkPrep ..
  | .scChunkCarry .. | .scChunkState .. | .scFold .. | .scExport .. | .scImport .. | .scFir .. | .scEma .. | .scModal ..
  | .lmEval .. | .lmSincos .. | .lmStat .. | .lmRed .. | .lmSwap .. | .paAttend .. | .paPagesetAdvance ..
  | .paPagesetNarrow .. | .dwLaunch .. | .dwLaunchStart .. | .dwLaunchComplete .. | .dwWait .. | .dwSwap .. | .dwPut ..
  | .dwAdd .. | .dwMcast .. | .remoteWriteApply .. | .remoteAddApply .. | .readReturnService .. | .remoteAck ..
  | .mcastSend .. | .mcastDetach .. | .pantryRelease .. | .patrolScrub .. | .syArrive .. | .barrierRelease ..
  | .stepWatchdog .. | .checkpointCommit .. | .sySignal .. | .syAdd .. | .sySet .. | .syWatch .. | .syWatchCancel ..
  | .syWait .. | .syWaitBarrier .. | .syFence .. | .syncOpApply .. | .wakeArrival .. | .instructionComplete ..
  | .landBarPorch .. | .landHSignal .. | .landHAdd .. | .landHSet .. | .landHBind .. | .landHUnbind ..
  | .landHWslotArm .. | .landHWslotCancel .. | .landHStatusRead .. | .open_ .. | .close .. | .park .. | .unpark ..
  | .restore .. | .thrFence .. | .thrUnfence .. | .thrLedgerSel .. | .thrClassPendingRead .. | .thresholdTick ..
  | .windowDue .. | .stateMoveCopy .. | .readmitSelftestDone .. | .readmitLoadDone .. | .submit | .end_ | .abort
  | .preempt | .resume | .jobLoaded .. | .restartResume .. | .restartComplete .. | .porchQCfgWrite ..
  | .porchQCheadWrite .. | .porchCtxReset .. | .porchIrqStatusWrite .. | .porchJobStatusRead ..
  | .porchJobRestartUsRead .. | .porchFlogCfgRead .. | .eraseSlot .. | .swap .. | .mount .. | .list .. | .recall ..
  | .release .. | .readRaw .. | .eraseResume | .eraseComplete .. | .flashProgramComplete .. | .reclaim | .retentionScrub
  | .cellarPatrol | .wallclockTick | .celHealthSel .. | .railSettle .. | .skinTick | .skinStale | .chimSkinWrite ..
  | .biasTick | .pacingTick | .floorFence | .sensorRead .. | .thermalFence .. | .chimneyRelease .. | .roomIdleRetain ..
  | .roomWake .. | .chimRoomCtlOff .. | .chimRoomStatRead .. | .winClear .. | .winSampCtlWrite ..
  | .winSampStatusRead .. | .meterWindowEnd | .snapshotPeriod .. | .winSnap .. | .winDumpStatusRead .. | .studySnap ..
  | .studyHalt .. | .studyStep .. | .studyRegData .. | .studySyncGo .. | .traceOverflowRecord | .studyTraceCtlRead ..
  | .flCtlWrite .. | .flCreditWrite .. | .flCreditRead .. | .roomExcClear .. | .roomExcInfoRead ..
  | .roomExcCountRead .. | .dwTagsRead .. | .dwRttMaxRead .. | .roomEccCorrRead .. | .hallPantryEccCorrRead ..
  | .hallPortRttMaxRead .. | .hallPortProtoRead .. | .readDataBeat .. | .writeResponse .. | .creditReturn ..
  | .coldReset | .drainTimeout .. | .aonReset | .isoEnable | .isoDisable | .railLoss => true

end Sys2Proof
end

