-- ==== Sys2Proof/Safety.lean ====
section
/-! DEFINITION. What statements are made of: rooms that can issue, rooms and blocks in which nothing waits to go on, what the block
holds while it is not up, and the invariants of its pins, its bounds and its stores. -/

namespace Sys2Proof.Machine

/-- No unit queue of a room holds an instruction or has one under way. -/
def Room.quiet (m : Room) : Prop := ∀ q : Fin 5, (m.queue q).entries = [] ∧ (m.queue q).active = none ∧ (m.queue q).beside = none

/-- A room that may issue an instruction, in which nothing else waits to go on: the block is up, its Steward runs and is neither
stalled nor halted by the Study, its job is not in debug, its sampler is off, and its PC lies in its code. -/
structure RoomReady (s : State) (r : RoomId) : Prop where
  up : s.up = true
  can : canIssue s r = true
  free : (s.room r).stew.held = false
  plain : roomDebug s r = false
  unsampled : s.fld (rreg r Reg.winSampCtl) 0 1 = 0
  quiet : (s.room r).quiet
  inCode : (s.room r).stew.pc < (s.room r).stew.codeBase + (s.room r).stew.codeLen

/-- A room in which nothing waits to go on: no queue, no launch, no stalled instruction, no step granted by the Study. -/
structure RoomStill (m : Room) : Prop where
  quiet : m.quiet
  chans : ∀ ch, m.chan ch = none
  waiting : m.stew.waiting = .nothing
  stepping : m.stew.stepping = false

/-- No room waits to go on. -/
def State.still (s : State) : Prop := ∀ r, RoomStill (s.room r)

/-- The block holds nothing but what lies outside it, the commands that wait and its last responses: every register, store, queue and
job is as reset leaves it, and the Cellar has no work (R9, R373, R375). -/
def State.empty (s : State) : Prop := s = wiped s.pins (cellarReset s)

/-- What the pins and rails guarantee: clamped or unpowered the block is in cold reset (R376, R379); a block that is not up holds
nothing (R373); and a start-up waits only in a block that is up (R374). -/
structure PinsInv (s : State) : Prop where
  reset : s.pins.iso = true ∨ s.pins.rails = false → s.pins.cold = true
  empty : s.up = false → s.empty
  startup : s.pins.startup.isSome = true → s.up = true

/-- What the block's queues, ports and counts never exceed: 16 instructions in a unit's queue (R256), 8 return addresses (R262), 32
credits of a channel (R364), one transaction for a tag of a port (R366), 32 read and 16 write tags of a room (R190), and 256 trace
records, the oldest sent in part at most (R360). -/
structure BoundsInv (s : State) : Prop where
  queues : ∀ r q, ((s.room r).queue q).entries.length ≤ 16
  calls : ∀ r, (s.room r).stew.stack.length ≤ 8
  credits : ∀ p, (s.ports.get p).creditRq ≤ 32 ∧ (s.ports.get p).creditWq ≤ 32 ∧ (s.ports.get p).creditWd ≤ 32
  tags : ∀ p, ((s.ports.get p).reads.map TagUse.tag).Nodup ∧ ((s.ports.get p).writes.map TagUse.tag).Nodup
  held : ∀ r, roomTags s false r ≤ 32 ∧ roomTags s true r ≤ 16
  trace : s.trace.length ≤ 256
  sent : s.win.traceSent < 24 ∧ (s.trace = [] → s.win.traceSent = 0)

/-- The canonical form of the control registers: keys strictly rising, and no entry equal to its register's reset value. -/
def regsWf (m : List (Nat × Word)) : Prop := m.Pairwise (fun a b => a.1 < b.1) ∧ ∀ e ∈ m, e.2 ≠ regReset e.1

/-- Every store of the block and everything outside it that the block addresses is in its canonical form, so that equal contents are equal
data: the rooms' stores, the Pantry, the Ledger, DRAM, the serial NOR, the calibration, the sync words, the Keyring and the control
registers. -/
structure MemoryInv (s : State) : Prop where
  rooms : ∀ r, (s.room r).shelf.wf = true ∧ (s.room r).chest.wf = true ∧ (s.room r).lamp.wf = true ∧ (s.room r).parlour.wf = true ∧
    (s.room r).icache.wf = true
  pantry : s.pantry.wf = true
  ledger : s.thr.ledger.wf = true
  dram : s.dram.wf = true
  flash : swf flashEmpty s.cel.flash = true
  cal : ∀ m, s.chim.cal = some m → m.wf = true
  words : swf 0 s.land.words = true
  keyring : swf 0 s.land.keyring = true
  regs : regsWf s.regs

/-- The block's own part of a state, with the queue and the pins of another: what a command leaves of the state it acts on (`sealed`). -/
def State.sealing (s t : State) : State := { t with pending := s.pending, pins := s.pins }

/-- A control access of a whole word that the block serves. -/
structure Serves (s : State) (c : Ctx) (off : Nat) (write : Bool) : Prop where
  up : s.up = true
  takes : refuses s c off 0xF write = false

/-- A handle of a context that is bound to a word, neither of them with an error that stops a read (R178, R179, R224). -/
structure Bound (s : State) (c h w : Nat) : Prop where
  entry : s.keyWord c h = some w
  entryOk : keyBad s c h = false
  wordOk : syncEcc s w < 2

/-- A watched word: some slot has a watch armed on it. -/
def State.watched (s : State) (w : Nat) : Prop := ∃ x ∈ s.land.watches, x.word = w

/-- The slot that a watch was armed for has its wake, with a value and status 1: a room's slot has it on the way, a host's slot is no
longer armed (R220-R222). -/
def State.woken (t : State) (who : WatchFor) (v : Nat) : Prop :=
  match who with
  | .room r n => (t.room r).slots.get n = .coming (BitVec.ofNat 32 v) 1
  | .host c k => t.fld (wslotKey c k Reg.landHWslotsCtl) 16 1 = 0 ∧ t.fld (wslotKey c k Reg.landHWslotsStatus) 0 2 = 1 ∧
      t.reg (wslotKey c k Reg.landHWslotsValue) = BitVec.ofNat 32 v

/-- The watches of a word have been evaluated for its new value (R220): of a counter or flag, every watch whose condition holds has
gone and woken; of a claim, one watch for each unit of the value, in the order of their registration, each taking one. Each wake is
counted, and no other slot has changed. -/
structure Evaluated (s t : State) (w : Nat) (v : Word64) : Prop where
  plain : wordKind v ≠ 3 →
    let hit := fun (x : Watch) => x.word == w && condHolds x.cond (wordValue v) x.thr
    t.word w = v ∧ t.land.watches = s.land.watches.filter (fun x => !hit x) ∧
    t.reg64 Reg.landWakes = (s.reg64 Reg.landWakes + (s.land.watches.filter hit).length) % 2 ^ 64 ∧
    ∀ x ∈ s.land.watches, hit x = true → t.woken x.who (wordValue v)
  claims : wordKind v = 3 →
    let on := s.land.watches.filter (fun x => x.word == w)
    let k := min on.length (wordValue v)
    t.word w = wordWith v (wordValue v - k) ∧ t.land.watches = s.land.watches.filter (fun x => !(on.take k).contains x) ∧
    t.reg64 Reg.landWakes = (s.reg64 Reg.landWakes + k) % 2 ^ 64 ∧
    ∀ i x, i < k → on[i]? = some x → (∀ j y, i < j → j < k → on[j]? = some y → y.who ≠ x.who) → t.woken x.who (wordValue v - 1 - i)
  others : ∀ q n, (t.room q).slots.get n ≠ (s.room q).slots.get n → ∃ x ∈ s.land.watches, x.word = w ∧ x.who = .room q n

/-! ## Steward instructions -/

/-- A ready room's Steward has executed an instruction that changes its registers by `f`, and goes on at a place of its own: the
counters' next cycle takes the issue (R348). -/
def State.jumped (s : State) (r : RoomId) (f : Stew → Stew) (pc : Nat) : State :=
  s.modRoom r (fun m => { m with issues := m.issues + 1, stew := { (f m.stew).unstall with pc := pc } })

/-- The same for an instruction after which the Steward goes on to the next one. -/
def State.stepped (s : State) (r : RoomId) (f : Stew → Stew) : State := s.jumped r f ((f (s.room r).stew).pc + 8)

/-- What `ld` does to the registers: the widest load fills a d register, another writes its value as a scalar result (R255, R262). -/
def Stew.loaded (rt : RegName) (n v : Nat) (w : Stew) : Stew :=
  match rt with
  | .d i => if n = 32 then { w with dreg := w.dreg.set i (BitVec.ofNat 256 v) } else w.write rt (BitVec.ofNat 64 v)
  | _ => w.write rt (BitVec.ofNat 64 v)

/-- An `ld` or `st` whose fields its format allows and whose address is aligned to its width: its register and its bytes (R255, R261,
R263). -/
structure MemReady (s : State) (r : RoomId) (g : FmtM) (rt : RegName) (n : Nat) : Prop where
  ready : RoomReady s r
  rsv : g.rsv = 0
  reg : regName g.rt = some rt
  width : widthBytes g.width = some n
  wide : n = 32 → ∃ i, rt = .d i
  aligned : memAddr (s.room r).stew g % n = 0

/-- An instruction of format U that a ready room's Steward takes up: its fields are ones that its shape allows, its predicate holds or
is not enabled, and its wait has been met (R258, R260, R261). -/
structure UReady (s : State) (r : RoomId) (u : FmtU) (p : UShape) : Prop where
  ready : RoomReady s r
  shape : p.ok u = true
  pred : predOn (s.room r) u = true
  wait : tallyOk (s.room r) (waitOf (s.room r) u) = true

/-- A ready room whose Steward has stalled within an instruction: it stays at it, and the instruction issues again. -/
def State.stalled (s : State) (r : RoomId) (c : Stall) (f : Fis) : State :=
  s.modStew r (fun w => { w with stall := c, waiting := .again f, stallFrom := if w.stall = .none then winCycles s r else w.stallFrom })

/-- A command of R262 that combines two operands, its instruction and its operation. -/
structure ArithRow where
  cmd : RoomId → FmtRI → Instr
  fis : FmtRI → Fis
  op : Word64 → Word64 → Word64

/-- The commands of R262 that combine two operands. -/
def arithRows : List ArithRow :=
  [⟨.add, .add, fun a b => a + b⟩, ⟨.sub, .sub, fun a b => a - b⟩, ⟨.and, .and, fun a b => a &&& b⟩, ⟨.or, .or, fun a b => a ||| b⟩,
   ⟨.xor, .xor, fun a b => a ^^^ b⟩, ⟨.shl, .shl, fun a b => a <<< (b.toNat % 64)⟩, ⟨.shr, .shr, fun a b => a >>> (b.toNat % 64)⟩,
   ⟨.mul, .mul, fun a b => a * b⟩]

/-- A command that carries a format-U instruction: the command, its instruction, the immediate bits that its row has, and the shape
of its fields (R261, R270). -/
structure URow where
  cmd : RoomId → FmtU → Instr
  fis : FmtU → Fis
  prep : FmtU → FmtU
  shape : UShape

/-- One that enters a unit's queue: the queue, and the checks made as it issues (R256, R266). -/
structure UnitRow extends URow where
  queue : Fin 5
  check : RoomId → FmtU → QEntry → Op Unit

/-- The format-U instructions that the Steward executes (R270). -/
def stewardRows : List URow :=
  [⟨.nop, .nop, id, {}⟩,
   ⟨.halt, .halt, id, {}⟩,
   ⟨.trace, .trace, id, { ra := .s, imm := 24 }⟩,
   ⟨.fault, .fault, id, { imm := 16 }⟩,
   ⟨.dwWait, .dwWait, id, { imm := 4 }⟩,
   ⟨.dwSwap, .dwSwap, id, { imm := 4 }⟩,
   ⟨.syArrive, .syArrive, id, { imm := 4 }⟩,
   ⟨.sySignal, .sySignal, id, { imm := 10 }⟩,
   ⟨.syAdd, .syAdd, (fun u => withImm u 10 1 0), { rb := .s, imm := 11 }⟩,
   ⟨.sySet, .syAdd, (fun u => withImm u 10 1 1), { rb := .s, imm := 11 }⟩,
   ⟨.syWatch, .syWatch, (fun u => withImm u 16 1 0), { ra := .s, rc := .s, imm := 17 }⟩,
   ⟨.syWatchCancel, .syWatch, (fun u => withImm u 16 1 1), { ra := .s, rc := .s, imm := 17 }⟩,
   ⟨.syWait, .syWait, (fun u => withImm u 4 1 0), { rc := .s, imm := 8 }⟩,
   ⟨.syWaitBarrier, .syWait, (fun u => withImm u 4 1 1), { rc := .s, imm := 8 }⟩,
   ⟨.syFence, .syFence, id, { imm := 3 }⟩]

/-- The row of flLoad. -/
def flLoadRow : UnitRow := ⟨⟨.flLoad, .flLoad, id, { ra := .d, imm := 1 }⟩, 0, fun r u e => checkFlLoad r u e⟩
/-- The row of flRun. -/
def flRunRow : UnitRow := ⟨⟨.flRun, .flRun, id, { ra := .d, rb := .d, rc := .dIf 3, imm := 8 }⟩, 0, fun r u e => checkFlRun r u e⟩
/-- The row of flThin. -/
def flThinRow : UnitRow := ⟨⟨.flThin, .flThin, id, { ra := .d, rb := .d, rc := .d, imm := 7 }⟩, 0, fun r u e => checkFlThin r u e⟩
/-- The row of flDrain. -/
def flDrainRow : UnitRow := ⟨⟨.flDrain, .flDrain, id, { ra := .d, imm := 3 }⟩, 0, fun r u e => checkFlDrain r u e⟩
/-- The row of flMode. -/
def flModeRow : UnitRow := ⟨⟨.flMode, .flMode, id, { imm := 10 }⟩, 0, fun _ u _ => checkFlMode u⟩
/-- The row of scStep. -/
def scStepRow : UnitRow := ⟨⟨.scStep, .scStep, (fun u => withImm u 0 1 0), dddShape 1⟩, 1, fun r u e => do let _ ← stepPrep r u e⟩
/-- The row of scStepGated. -/
def scStepGatedRow : UnitRow := ⟨⟨.scStepGated, .scStep, (fun u => withImm u 0 1 1), dddShape 1⟩, 1, fun r u e => do let _ ← stepPrep r u e⟩
/-- The row of scChunkPrep. -/
def scChunkPrepRow : UnitRow := ⟨⟨.scChunkPrep, .scChunk, (fun u => withImm u 0 2 0), dddShape 11⟩, 1, fun r u e => checkChunk r u e⟩
/-- The row of scChunkCarry. -/
def scChunkCarryRow : UnitRow := ⟨⟨.scChunkCarry, .scChunk, (fun u => withImm u 0 2 1), dddShape 11⟩, 1, fun r u e => checkChunk r u e⟩
/-- The row of scChunkState. -/
def scChunkStateRow : UnitRow := ⟨⟨.scChunkState, .scChunk, (fun u => withImm u 0 2 2), dddShape 11⟩, 1, fun r u e => checkChunk r u e⟩
/-- The row of scFold. -/
def scFoldRow : UnitRow := ⟨⟨.scFold, .scFold, id, { ra := .d, imm := 2 }⟩, 1, fun r u e => do let _ ← foldPrep r u e⟩
/-- The row of scExport. -/
def scExportRow : UnitRow := ⟨⟨.scExport, .scExport, id, { ra := .d, rb := .d, imm := 12 }⟩, 1, fun r u e => do let _ ← exportPrep r u e⟩
/-- The row of scImport. -/
def scImportRow : UnitRow := ⟨⟨.scImport, .scImport, id, { ra := .d, rb := .d, imm := 3 }⟩, 1, fun r u e => do let _ ← importPrep r u e⟩
/-- The row of scFir. -/
def scFirRow : UnitRow := ⟨⟨.scFir, .scFir, id, dddShape 7⟩, 1, fun r u e => do let _ ← firPrep r u e⟩
/-- The row of scEma. -/
def scEmaRow : UnitRow := ⟨⟨.scEma, .scEma, id, dddShape 0⟩, 1, fun r u e => do let _ ← emaPrep r u e⟩
/-- The row of scModal. -/
def scModalRow : UnitRow := ⟨⟨.scModal, .scModal, id, dddShape 7⟩, 1, fun r u e => do let _ ← modalPrep r u e⟩
/-- The row of lmEval. -/
def lmEvalRow : UnitRow := ⟨⟨.lmEval, .lmEval, id, dddShape 22⟩, 2, fun r u e => do let _ ← evalPrep r u e⟩
/-- The row of lmSincos. -/
def lmSincosRow : UnitRow := ⟨⟨.lmSincos, .lmSincos, id, dddShape 0⟩, 2, fun r u e => do let _ ← sincosPrep r u e⟩
/-- The row of lmStat. -/
def lmStatRow : UnitRow := ⟨⟨.lmStat, .lmStat, id, dddShape 5⟩, 2, fun r u e => do let _ ← statPrep r u e⟩
/-- The row of lmRed. -/
def lmRedRow : UnitRow := ⟨⟨.lmRed, .lmRed, id, { ra := .d, rb := .d, imm := 7 }⟩, 2, fun r u e => do let _ ← redPrep r u e⟩
/-- The row of lmSwap. -/
def lmSwapRow : UnitRow := ⟨⟨.lmSwap, .lmSwap, id, { imm := 3 }⟩, 2, fun _ _ _ => pure ()⟩
/-- The row of paAttend. -/
def paAttendRow : UnitRow := ⟨⟨.paAttend, .paAttend, id, dddShape 0⟩, 3, fun r u e => do let _ ← attendPrep r u e⟩
/-- The row of paPagesetAdvance. -/
def paPagesetAdvanceRow : UnitRow := ⟨⟨.paPagesetAdvance, .paPageset, (fun u => withImm u 0 1 0), dddShape 18⟩, 3, fun r u e => do let _ ← pagesetPrep r u e⟩
/-- The row of paPagesetNarrow. -/
def paPagesetNarrowRow : UnitRow := ⟨⟨.paPagesetNarrow, .paPageset, (fun u => withImm u 0 1 1), dddShape 18⟩, 3, fun r u e => do let _ ← pagesetPrep r u e⟩

/-- The instructions of the Floor, the Stair, the Lamp and the Parlour. -/
def unitRows : List UnitRow :=
  [flLoadRow, flRunRow, flThinRow, flDrainRow, flModeRow, scStepRow, scStepGatedRow, scChunkPrepRow, scChunkCarryRow,
   scChunkStateRow, scFoldRow, scExportRow, scImportRow, scFirRow, scEmaRow, scModalRow, lmEvalRow, lmSincosRow, lmStatRow,
   lmRedRow, lmSwapRow, paAttendRow, paPagesetAdvanceRow, paPagesetNarrowRow]

/-- The instructions of the Dumbwaiter's queue that the Steward does not execute. -/
def dwRows : List URow :=
  [⟨.dwLaunch, .dwLaunch, id, { ra := .a, rb := .a, rc := .imm 3, imm := 24 }⟩,
   ⟨.dwPut, .dwPut, id, { ra := .a, rb := .a, rc := .s }⟩,
   ⟨.dwAdd, .dwAdd, id, { ra := .a, rb := .a, imm := 6 }⟩,
   ⟨.dwMcast, .dwMcast, id, { ra := .a, rb := .a, rc := .s, imm := 4 }⟩]

/-- Every command that carries a format-U instruction. -/
def uRows : List URow := stewardRows ++ unitRows.map UnitRow.toURow ++ dwRows

/-- The entry that an instruction makes as it issues, with the words of its operands (R256). -/
def entryOf (s : State) (r : RoomId) (f : Fis) (u : FmtU) (ra rb rc : List Nat) : QEntry :=
  { id := (s.room r).nextId, op := f, ra := ra, rb := rb, rc := rc, pc := (s.room r).stew.pc, wait := waitOf (s.room r) u,
    post := u.post, roles := (s.room r).roles }

/-- A queue that takes an entry: it counts as issued when it posts (R256, R258). -/
def UQueue.taking (x : UQueue) (e : QEntry) : UQueue :=
  { x with issued := if e.post then x.issued + 1 else x.issued, posts := if e.post then x.posts ++ [(e.id, false)] else x.posts }

/-- A ready room after an instruction has left its Steward for a queue whose unit has begun it at once. -/
def State.begun (s : State) (r : RoomId) (q : Fin 5) (e : QEntry) : State :=
  s.modRoom r (fun m => { m with nextId := m.nextId + 1, issues := m.issues + 1, queues := m.queues.set q (((m.queue q).taking e).begin_ e),
                                 stew := { m.stew.unstall with pc := m.stew.pc + 8 } })

/-- A ready room after an instruction has left its Steward and the Dumbwaiter's queue. -/
def State.taken (s : State) (r : RoomId) (e : QEntry) : State :=
  s.modRoom r (fun m => { m with nextId := m.nextId + 1, issues := m.issues + 1, queues := m.queues.set 4 ((m.queue 4).taking e),
                                 stew := { m.stew.unstall with pc := m.stew.pc + 8 } })

/-- A ready room after an instruction has left its Steward for a queue in which it waits. -/
def State.queued (s : State) (r : RoomId) (q : Fin 5) (e : QEntry) : State :=
  s.modRoom r (fun m => { m with nextId := m.nextId + 1, issues := m.issues + 1,
                                 queues := m.queues.set q { (m.queue q).taking e with entries := (m.queue q).entries ++ [e] },
                                 stew := { m.stew.unstall with pc := m.stew.pc + 8 } })

/-- An operation that answers and leaves the state as it is: an operand that can be read, or a check that passes. -/
def Reads {α : Type} (k : Op α) (s : State) (x : α) : Prop := k s = .ok x s

/-- A unit's instruction that a ready room's Steward issues: its fields and operands pass their checks (R266), and it is the entry `e`
that the unit begins in the state `s1`. -/
structure Issues (row : UnitRow) (s : State) (r : RoomId) (u : FmtU) (e : QEntry) (s1 : State) : Prop where
  ready : RoomReady s r
  shape : row.shape.ok (row.prep u) = true
  pred : predOn (s.room r) u = true
  wait : tallyOk (s.room r) (waitOf (s.room r) u) = true
  ra : Reads (captureField (s.room r) (row.fis (row.prep u)) (row.prep u) row.shape.ra (row.prep u).ra) s e.ra
  rb : Reads (captureField (s.room r) (row.fis (row.prep u)) (row.prep u) row.shape.rb (row.prep u).rb) s e.rb
  rc : Reads (captureField (s.room r) (row.fis (row.prep u)) (row.prep u) row.shape.rc (row.prep u).rc) s e.rc
  entry : e = entryOf s r (row.fis (row.prep u)) (row.prep u) e.ra e.rb e.rc
  check : Reads (row.check r (row.prep u) e) s ()
  begun : s1 = s.begun r row.queue e

/-- What the block is after a unit's instruction that left the state `t`: the Steward has gone on, and the unit's queue holds it as the
one under way. -/
def State.unitDone (s s1 : State) (r : RoomId) (t : State) : State := s.sealing (unitKept r s1 t)

end Sys2Proof.Machine
end

