-- ==== Sys2Proof/Certificates/Slice0/Obligations.lean ====
section
/-! DEFINITION. The statements for the provers: their parts, by unit of the block, and the statements that join them. -/

open Sys2Proof Sys2Proof.Machine

/-! ## The step, the queue and the pins -/

/-- A step is the command at the front of the queue, on the state with the queue's rest; with none waiting the block's
trace formatter runs for one trace cycle (the model's choice, log entry 1). -/
def Obligations.StepRunsTheFront : Prop :=
  (∀ (c : Instr) (rest : List Instr) (s : State), step { s with pending := c :: rest } = exec c { s with pending := rest }) ∧
  ∀ s : State, s.pending = [] → step s = .next (idleCycle s)

/-- No command changes the queue of the commands that wait. -/
def Sys2Proof.Says.CommandsKeepTheQueue : Prop :=
  ∀ (i : Instr) (s t : State), exec i s = .next t → t.pending = s.pending

/-- The block is never stopped by a command: each has a next state. -/
def Sys2Proof.Says.EveryCommandGoesOn : Prop := ∀ (i : Instr) (s : State), ∃ t, exec i s = .next t

/-- R9: the state at reset meets the invariants of the pins, of the bounds and of the stores. -/
def Obligations.ResetMeetsTheInvariants : Prop := PinsInv State.reset ∧ BoundsInv State.reset ∧ MemoryInv State.reset

/-- R373, R374, R376, R379: from every state that meets it, a step keeps the invariant of the pins: clamped or unpowered the block
is in cold reset, a block that is not up holds nothing, and a start-up waits only in a block that is up. -/
def Obligations.StepKeepsPinsInv : Prop := ∀ s t : State, PinsInv s → step s = .next t → PinsInv t

/-- R190, R256, R262, R360, R364, R366: from every state that meets it, a step keeps the bounds of the unit queues, the return stacks, the
ports' credits and tags and the trace queue. -/
def Obligations.StepKeepsBoundsInv : Prop := ∀ s t : State, BoundsInv s → step s = .next t → BoundsInv t

/-- R3, R4, R188, R313: from every state that meets it, a step keeps the canonical form of every store, of DRAM, of the serial NOR and of
the control registers. That a store is a list of the bytes that differ from what an unlisted byte reads as is the model's form of it. -/
def Obligations.StepKeepsMemoryInv : Prop := ∀ s t : State, MemoryInv s → step s = .next t → MemoryInv t

/-- R376, R379: `iso_en` puts the block in cold reset at once, and so does the loss of a rail; the block then holds nothing. That
`aon_rst_n` clears the stub's responses and holding registers is the model's reading of R372 (log entry 89). -/
def Sys2Proof.Says.ClampAndRailLossReset : Prop :=
  ∀ s : State, (s.pins.cold = true → s.empty) →
    (∃ t, exec .isoEnable s = .next t ∧ t.pins.iso = true ∧ t.pins.cold = true ∧ t.empty ∧ t.dram = s.dram) ∧
    (∃ t, exec .railLoss s = .next t ∧ t.pins.rails = false ∧ t.pins.cold = true ∧ t.empty ∧ t.dram = s.dram) ∧
    (∃ t, exec .coldReset s = .next t ∧ t.pins.cold = true ∧ t.pins.iso = s.pins.iso ∧ t.empty ∧ t.dram = s.dram) ∧
    (∃ t, exec .isoDisable s = .next t ∧ t.pins.iso = false ∧ t.pins.cold = s.pins.cold ∧ t.regs = s.regs) ∧
    (∃ t, exec .aonReset s = .next t ∧ t.resp = {} ∧ t.debugResp = {} ∧ t.hold = [] ∧ t.regs = s.regs ∧ t.rooms = s.rooms ∧ t.pins = s.pins)

/-! ## Instruction words -/

/-- The word of an instruction reads back as that instruction, with every field at every value (R261). -/
def Obligations.InstructionWordsRoundTrip : Prop := ∀ f : Fis, decodeFis (encodeFis f) = some f

/-- Words written out from the encodings of R261, R262 and R270: `add s3, s1, s2`; `add s3, s1, 5`; `ld.8 s5, [a2 + 16]`;
`bnz s1, −8`; `halt`; `fl.run` of d1, d2 and d3; `sy.wait` with a wait for queue 2. A reserved major opcode is no instruction. -/
def Obligations.InstructionWordsAreRead : Prop :=
  decodeFis 0x0100060410000000 = some (.add (.r ⟨3, 1, 2, 0⟩)) ∧
  decodeFis 0x0200060400000005 = some (.add (.i ⟨3, 1, false, false, 5⟩)) ∧
  decodeFis 0x03000A4C00000010 = some (.ld ⟨5, 2, 3, 0, 16⟩) ∧
  decodeFis 0x04020200FFFFFFF8 = some (.bnz ⟨1, 0, 0xFFFFFFF8⟩) ∧
  decodeFis 0x0001000000000000 = some (.halt ⟨0, 0, 0, 0, 0, false, false, 0, 0⟩) ∧
  decodeFis 0x1001123E20000004 = some (.flRun ⟨1, 2, 3, 7, 1, false, false, 0, 4⟩) ∧
  decodeFis 0x1504000500000000 = some (.syWait ⟨0, 0, 0, 2, 8, false, false, 0, 0⟩) ∧
  decodeFis 0x1600000000000000 = none

/-! ## Scalar instructions -/

/-- R262: in a ready room, an arithmetic instruction in format R writes the 64-bit wrapping result of its two registers to rd and
goes on; every other register, flag, store and special register is as it was. -/
def Sys2Proof.Says.ArithmeticOnRegisters : Prop :=
  ∀ row ∈ arithRows, ∀ (s : State) (r : RoomId) (g : FmtR) (d a b : RegName), RoomReady s r →
    g.rsv = 0 → regName g.rd = some d → regName g.rs1 = some a → regName g.rs2 = some b →
    exec (row.cmd r (.r g)) s = .next (s.stepped r (fun w => w.write d (row.op (w.read a) (w.read b))))

/-- R262: the same in format I, with the sign-extended immediate. -/
def Sys2Proof.Says.ArithmeticOnImmediates : Prop :=
  ∀ row ∈ arithRows, ∀ (s : State) (r : RoomId) (g : FmtI) (d a : RegName), RoomReady s r →
    g.rsv = false → g.hi = false → regName g.rd = some d → regName g.rs1 = some a →
    exec (row.cmd r (.i g)) s = .next (s.stepped r (fun w => w.write d (row.op (w.read a) (g.imm.signExtend 64))))

/-- R262: `li` writes the sign-extended immediate, or with hi the high half and keeps the low half. That rs1 is 0 is the model's
choice (log entry 19). -/
def Sys2Proof.Says.LoadImmediate : Prop :=
  ∀ (s : State) (r : RoomId) (g : FmtI) (d : RegName), RoomReady s r →
    g.rsv = false → g.rs1 = 0 → regName g.rd = some d →
    exec (.li r g) s = .next (s.stepped r (fun w =>
      w.write d (if g.hi then g.imm ++ (w.read d).setWidth 32 else g.imm.signExtend 64)))

/-- R255, R261: a scalar instruction that names a reserved register, or one of a class that it does not take, or whose reserved field is
not 0, raises ILLEGAL_INSTRUCTION with its word in the unit capture, and nothing executes. That `li` must have an rs1 of 0 is the model's
choice (log entry 19). -/
def Sys2Proof.Says.ReservedRegisterIsIllegal : Prop :=
  ∀ (s : State) (r : RoomId), RoomReady s r →
    let bad (f : Fis) : Host.Outcome State Fault Refusal :=
      .next (raise r (s.room r).stew.pc ⟨.illegalInstruction, [(encodeFis f).toNat]⟩ s)
    (∀ row ∈ arithRows,
      (∀ g : FmtR, g.rsv ≠ 0 ∨ regName g.rd = none ∨ regName g.rs1 = none ∨ regName g.rs2 = none →
        exec (row.cmd r (.r g)) s = bad (row.fis (.r g))) ∧
      ∀ g : FmtI, g.rsv = true ∨ g.hi = true ∨ regName g.rd = none ∨ regName g.rs1 = none →
        exec (row.cmd r (.i g)) s = bad (row.fis (.i g))) ∧
    (∀ g : FmtI, g.rsv = true ∨ g.rs1 ≠ 0 ∨ regName g.rd = none → exec (.li r g) s = bad (.li g)) ∧
    (∀ g : FmtM, widthBytes g.width = none ∨ g.rsv ≠ 0 ∨ regName g.rt = none ∨
        (widthBytes g.width = some 32 ∧ ∀ i, regName g.rt ≠ some (.d i)) →
      exec (.ld r g) s = bad (.ld g) ∧ exec (.st r g) s = bad (.st g)) ∧
    (∀ g : FmtB, g.rsv ≠ 0 ∨ ((∀ i, regName g.rs ≠ some (.s i)) ∧ ∀ i, regName g.rs ≠ some (.p i)) →
      exec (.bz r g) s = bad (.bz g) ∧ exec (.bnz r g) s = bad (.bnz g)) ∧
    (∀ g : FmtB, g.rsv ≠ 0 ∨ (∀ i, regName g.rs ≠ some (.c i)) → exec (.loop r g) s = bad (.loop g)) ∧
    (∀ g : FmtB, g.rsv ≠ 0 ∨ g.rs ≠ 0 → exec (.br r g) s = bad (.br g) ∧ exec (.call r g) s = bad (.call g)) ∧
    ∀ g : FmtB, g.rsv ≠ 0 ∨ g.rs ≠ 0 ∨ g.off ≠ 0 → exec (.ret r g) s = bad (.ret g)

/-- R262, R263: `ld` from a store of its own room reads the little-endian bytes at a[base] + offset, zero-extended, into the
register; the widest fills a d register. -/
def Sys2Proof.Says.LoadFromOwnRoom : Prop :=
  ∀ (s : State) (r : RoomId) (g : FmtM) (rt : RegName) (n : Nat) (st : Store) (off : Nat), MemReady s r g rt n →
    decodeAddr r (memAddr (s.room r).stew g) n s = .ok (.room r st off) s → s.eccOf (some r) st = [] →
    exec (.ld r g) s = .next (s.stepped r (Stew.loaded rt n (natOfBytes (((s.room r).mem st).bytes off n))))

/-- R214, R262, R263: `ld` from another room or from the Pantry reads its bytes there, behind the room's own operations on their way to
that target: `s1` is the state in which they have been applied. From sync space it reads the word that the handle names, behind the room's
own operations on that word. -/
def Sys2Proof.Says.LoadFromElsewhere : Prop :=
  ∀ (s s1 : State) (r : RoomId) (g : FmtM) (rt : RegName) (n : Nat) (p : Place), MemReady s r g rt n →
    decodeAddr r (memAddr (s.room r).stew g) n s = .ok p s →
    (s1.room r).quiet → (s1.room r).stew = (s.room r).stew → s1.fld (rreg r Reg.winSampCtl) 0 1 = 0 →
    (∀ (q : RoomId) (st : Store) (off : Nat), p = .room q st off → q ≠ r → hallFlush r (some q) s = s1 → s1.eccOf (some q) st = [] →
      exec (.ld r g) s =
        .next (s.sealing (s1.stepped r (Stew.loaded rt n (natOfBytes (((s1.room q).mem st).bytes off n)))))) ∧
    (∀ off : Nat, p = .pantry off → hallFlush r none s = s1 → s1.pantryEcc = [] →
      exec (.ld r g) s = .next (s.sealing (s1.stepped r (Stew.loaded rt n (natOfBytes (s1.pantry.bytes off n)))))) ∧
    ∀ h w : Nat, p = .sync h → roomWord r h s = .ok w s → syncFlush r w s.land.ops.length s = s1 → syncEcc s1 w = 0 →
      swf 0 s1.land.ecc = true →
      exec (.ld r g) s = .next (s.sealing (s1.stepped r (Stew.loaded rt n (s1.word w).toNat)))

/-- R262, R263: `st` to a store of its own room writes the low bytes of the register at a[base] + offset, and no other byte of any store
changes; R137: of the Lamp's tables it keeps those below 0x2000, and a write of an active bank is flagged. A store to sync space is
ILLEGAL_INSTRUCTION. -/
def Sys2Proof.Says.StoreToOwnRoom : Prop :=
  ∀ (s : State) (r : RoomId) (g : FmtM) (rt : RegName) (n : Nat), MemReady s r g rt n →
    (∀ (st : Store) (off : Nat), decodeAddr r (memAddr (s.room r).stew g) n s = .ok (.room r st off) s → s.eccOf (some r) st = [] →
      let s1 := s.setMem (some r) st (((s.room r).mem st).putBytes off (keptBytes st off (stBytes (s.room r).stew rt n)))
      exec (.st r g) s = .next (State.stepped (if st = .lamp then lampTouched r off n s1 else s1) r id)) ∧
    ∀ h : Nat, decodeAddr r (memAddr (s.room r).stew g) n s = .ok (.sync h) s →
      exec (.st r g) s = .next (raise r (s.room r).stew.pc ⟨.illegalInstruction, [(encodeFis (.st g)).toNat]⟩ s)

/-- R262: the bytes that a store writes read back, and every other byte reads as before. -/
def Sys2Proof.Says.StoredBytesAndNoOthers : Prop :=
  ∀ (m : Memory) (off : Nat) (bs : List Byte), m.wf = true →
    (m.putBytes off bs).wf = true ∧
    (∀ i (h : i < bs.length), (m.putBytes off bs).get (off + i) = bs[i]) ∧
    ∀ a, (a < off ∨ off + bs.length ≤ a) → (m.putBytes off bs).get a = m.get a

/-- R263: `st` to another room, or to the Pantry, sends one remote write of the register's bytes and goes on. -/
def Sys2Proof.Says.StoreElsewhereIsSent : Prop :=
  ∀ (s : State) (r : RoomId) (g : FmtM) (rt : RegName) (n : Nat) (p : Place), MemReady s r g rt n →
    decodeAddr r (memAddr (s.room r).stew g) n s = .ok p s →
    p.isLocal r = false → (∀ h, p ≠ .sync h) →
    let o : HallOp := ⟨r, p.target, (Place.at_ p).1, (Place.at_ p).2, .write (stBytes (s.room r).stew rt n), .store, (s.room r).stew.pc, false, []⟩
    exec (.st r g) s = .next (State.stepped { s with hall := s.hall ++ [o] } r id)

/-! ## Branches -/

/-- R262, R264: `br` goes to its target, and `call` also stacks the next offset; each target lies in the code. -/
def Sys2Proof.Says.BranchAndCall : Prop :=
  ∀ (s : State) (r : RoomId) (g : FmtB) (t : Nat), RoomReady s r → g.rsv = 0 → g.rs = 0 →
    branchAt (s.room r).stew g = t → (s.room r).stew.codeBase ≤ t → t < (s.room r).stew.codeBase + (s.room r).stew.codeLen →
    (t - (s.room r).stew.codeBase) % 8 = 0 →
    exec (.br r g) s = .next (s.jumped r id t) ∧
    ((s.room r).stew.stack.length < 8 →
      exec (.call r g) s = .next (s.jumped r (fun w => { w with stack := (w.pc + 8) :: w.stack }) t))

/-- R262, R264: `ret` goes to the offset stacked last and unstacks it. -/
def Sys2Proof.Says.Return : Prop :=
  ∀ (s : State) (r : RoomId) (g : FmtB) (t : Nat) (rest : List Nat), RoomReady s r → g.rsv = 0 → g.rs = 0 → g.off = 0 →
    (s.room r).stew.stack = t :: rest → (s.room r).stew.codeBase ≤ t →
    t < (s.room r).stew.codeBase + (s.room r).stew.codeLen → (t - (s.room r).stew.codeBase) % 8 = 0 →
    exec (.ret r g) s = .next (s.jumped r (fun w => { w with stack := rest }) t)

/-- R262, R264: `bz` and `bnz` branch on whether an s or p register is zero. One that falls through goes on, whatever its target. -/
def Sys2Proof.Says.ConditionalBranches : Prop :=
  ∀ (s : State) (r : RoomId) (g : FmtB) (n : RegName), RoomReady s r → g.rsv = 0 → regName g.rs = some n →
    ((∃ i, n = .s i) ∨ ∃ i, n = .p i) →
    let w := (s.room r).stew
    (w.read n ≠ 0 → exec (.bz r g) s = .next (s.stepped r id)) ∧
    (w.read n = 0 → exec (.bnz r g) s = .next (s.stepped r id)) ∧
    ∀ t : Nat, branchAt w g = t → w.codeBase ≤ t → t < w.codeBase + w.codeLen → (t - w.codeBase) % 8 = 0 →
      (w.read n = 0 → exec (.bz r g) s = .next (s.jumped r id t)) ∧
      (w.read n ≠ 0 → exec (.bnz r g) s = .next (s.jumped r id t))

/-- R262: `loop` leaves a counter of 0 at 0 and falls through; it takes 1 off another, and branches while the result is nonzero. -/
def Sys2Proof.Says.LoopCounts : Prop :=
  ∀ (s : State) (r : RoomId) (g : FmtB) (i : Fin 4), RoomReady s r → g.rsv = 0 → regName g.rs = some (.c i) →
    let w := (s.room r).stew
    (w.creg.get i = 0 → exec (.loop r g) s = .next (s.stepped r id)) ∧
    (w.creg.get i = 1 → exec (.loop r g) s = .next (s.stepped r (fun w => { w with creg := w.creg.set i 0 }))) ∧
    ∀ t : Nat, branchAt w g = t → w.codeBase ≤ t → t < w.codeBase + w.codeLen → (t - w.codeBase) % 8 = 0 →
      w.creg.get i ≠ 0 → w.creg.get i ≠ 1 →
      exec (.loop r g) s = .next (s.jumped r (fun w => { w with creg := w.creg.set i (w.creg.get i - 1) }) t)

/-- R264: a branch taken to a target outside the room's code, a `call` with 8 entries stacked and a `ret` with an empty stack each
raise ILLEGAL_INSTRUCTION; a `bz`, `bnz` or `loop` that falls through is not checked and raises nothing; `br`, `call` and `ret` are
always taken. -/
def Obligations.BranchesOutOfCodeAreIllegal : Prop :=
  ∀ (s : State) (r : RoomId) (g : FmtB), RoomReady s r → g.rsv = 0 →
    let w := (s.room r).stew
    let out (t : Int) : Prop := t < w.codeBase ∨ (w.codeBase + w.codeLen : Int) ≤ t
    let bad (f : Fis) : Host.Outcome State Fault Refusal := .next (raise r w.pc ⟨.illegalInstruction, [(encodeFis f).toNat]⟩ s)
    (out (branchAt w g) → g.rs = 0 → exec (.br r g) s = bad (.br g) ∧ exec (.call r g) s = bad (.call g)) ∧
    (∀ n, regName g.rs = some n → ((∃ i, n = .s i) ∨ ∃ i, n = .p i) →
      (w.read n = 0 → (out (branchAt w g) → exec (.bz r g) s = bad (.bz g)) ∧ exec (.bnz r g) s = .next (s.stepped r id)) ∧
      (w.read n ≠ 0 → (out (branchAt w g) → exec (.bnz r g) s = bad (.bnz g)) ∧ exec (.bz r g) s = .next (s.stepped r id))) ∧
    (∀ i, regName g.rs = some (.c i) →
      (w.creg.get i ≠ 0 → w.creg.get i ≠ 1 → out (branchAt w g) → exec (.loop r g) s = bad (.loop g)) ∧
      (w.creg.get i = 0 → exec (.loop r g) s = .next (s.stepped r id)) ∧
      (w.creg.get i = 1 → exec (.loop r g) s = .next (s.stepped r (fun w => { w with creg := w.creg.set i 0 })))) ∧
    (g.rs = 0 → w.stack.length = 8 → exec (.call r g) s = bad (.call g)) ∧
    (g.rs = 0 → g.off = 0 → w.stack = [] → exec (.ret r g) s = bad (.ret g)) ∧
    (∀ t rest, g.rs = 0 → g.off = 0 → w.stack = t :: rest → out t → exec (.ret r g) s = bad (.ret g))

/-! ## Format U -/

/-- R260: a format-U instruction whose predicate enable is set and whose predicate is 0 does nothing but take its issue cycle: it
does not wait, does not count as issued and enters no queue. -/
def Obligations.PredicatedOff : Prop :=
  ∀ row ∈ uRows, ∀ (s : State) (r : RoomId) (u : FmtU), RoomReady s r → row.shape.ok (row.prep u) = true →
    u.pen = true → (s.room r).stew.preg.get (Fin.ofNat 8 u.pred.toNat) = false →
    exec (row.cmd r u) s = .next (s.stepped r id)

/-- R261: a field that an instruction's row of R270 does not allow raises ILLEGAL_INSTRUCTION as it issues, and nothing executes.
That a field without a meaning must be 0 is the model's reading (log entry 19). -/
def Sys2Proof.Says.WrongShapeIsIllegal : Prop :=
  ∀ row ∈ uRows, ∀ (s : State) (r : RoomId) (u : FmtU), RoomReady s r → row.shape.ok (row.prep u) = false →
    exec (row.cmd r u) s =
      .next (raise r (s.room r).stew.pc ⟨.illegalInstruction, [(encodeFis (row.fis (row.prep u))).toNat]⟩ s)

/-- R270, R360: `nop` only goes on; `trace` emits a type 1 record with its tag and the register's value while that source is
enabled, the queue has room and no record has been dropped; `fault` raises ILLEGAL_INSTRUCTION with its code in the unit capture. -/
def Sys2Proof.Says.NopTraceAndFault : Prop :=
  ∀ (s : State) (r : RoomId) (u : FmtU),
    (UReady s r u {} → exec (.nop r u) s = .next (s.stepped r id)) ∧
    (UReady s r u { ra := .s, imm := 24 } →
      let x : TraceRec := ⟨1, r.val, u.imm.toNat, s.reg64 Reg.thrTimebase, ((s.room r).stew.read (.s (Fin.ofNat 32 u.ra.toNat))).toNat⟩
      (s.fld Reg.studyTraceCtl 0 1 = 1 → s.fld Reg.studyTraceCtl 1 1 = 1 → s.trace.length < 256 → s.win.traceDrop = 0 →
        exec (.trace r u) s = .next (State.stepped { s with trace := s.trace ++ [x] } r id)) ∧
      (s.fld Reg.studyTraceCtl 0 1 = 0 ∨ s.fld Reg.studyTraceCtl 1 1 = 0 → exec (.trace r u) s = .next (s.stepped r id))) ∧
    (UReady s r u { imm := 16 } → exec (.fault r u) s =
      .next (raise r (s.room r).stew.pc ⟨.illegalInstruction, [(encodeFis (.fault u)).toNat, u.imm.toNat, 1]⟩ s))

/-- R206, R257: `halt` in a room with nothing under way arrives on its job's step barrier and waits for the release, no longer
running. -/
def Sys2Proof.Says.HaltArrives : Prop :=
  ∀ (s : State) (r : RoomId) (u : FmtU) (j : SlotId) (ch : ChanId), UReady s r u ⟨.unused, .unused, .unused, 0⟩ → roomBusy s r = false → (s.room r).job = some j → mapChan s r (s.jobs.get j).desc.stepCh = some ch →
    (s.room r).awaiting.get ch = false →
    ∃ t, exec (.halt r u) s = .next t ∧ (t.room r).sense.get ch = !(s.room r).sense.get ch ∧ (t.room r).awaiting.get ch = true ∧
      (t.room r).stew = { (s.room r).stew with gone := none, stall := .halted, waiting := .release ch true, stallFrom := winCycles s r, running := false }

/-- R256, R258, R266: an instruction of the Floor, the Stair, the Lamp or the Parlour that passes its checks enters its unit's queue
with its operands' words, and its unit, idle, begins it: what the unit does is its effect, and the Steward is at the next
instruction. Its wait has been met. -/
def Sys2Proof.Says.UnitInstructionBegins : Prop :=
  ∀ row ∈ unitRows, ∀ (s s1 s2 : State) (r : RoomId) (u : FmtU) (e : QEntry), Issues row s r u e s1 →
    beginUnit r e s1 = .ok () s2 → exec (row.cmd r u) s = .next (s.unitDone s1 r s2)

/-- R290: a unit's instruction that faults as its unit begins it leaves the unit, and the fault is raised in its room with the
instruction's PC. -/
def Sys2Proof.Says.UnitInstructionFaults : Prop :=
  ∀ row ∈ unitRows, ∀ (s s1 s2 : State) (r : RoomId) (u : FmtU) (e : QEntry) (x : Err), Issues row s r u e s1 →
    beginUnit r e s1 = .error x s2 →
    let s3 := s2.modQueue r row.queue (fun y => y.end_ e.isDrain)
    (s3.room r).quiet → (s3.room r).stew.held = false → exec (row.cmd r u) s = .next (s.sealing (raise r e.pc x s3))

/-- R63: `fl.mode` sets FL_MODE to its immediate and changes nothing else but the Steward and the Floor's queue. -/
def Sys2Proof.Says.FloorModeIsSet : Prop :=
  ∀ (s : State) (r : RoomId) (u : FmtU), UReady s r u ⟨.unused, .unused, .unused, 10⟩ → FmtU.field u 2 5 ≤ 16 → 1 ≤ FmtU.field u 7 3 → FmtU.field u 7 3 ≤ 6 →
    exec (.flMode r u) s =
      .next ((s.begun r 0 (entryOf s r (.flMode u) u [] [] [])).setReg (rreg r Reg.flMode) (BitVec.ofNat 32 u.imm.toNat))

/-- R145: `lm.swap` on a table whose inactive bank is sound makes that bank active, loaded and not written, and advances the epoch. -/
def Sys2Proof.Says.LampSwapMakesTheOtherBankActive : Prop :=
  ∀ (s : State) (r : RoomId) (u : FmtU) (tab : LampTab), UReady s r u ⟨.unused, .unused, .unused, 3⟩ →
    let k := rreg r Reg.lmTblt + 4 * FmtU.field u 0 3
    let b := 1 - s.fld k 0 1
    let s1 := s.begun r 2 (entryOf s r (.lmSwap u) u [] [] [])
    loadBank r (FmtU.field u 0 3) b s1 = .ok tab s1 → tab.ok = true →
    ∃ t, exec (.lmSwap r u) s = .next t ∧ t.fld k 0 1 = b ∧ t.fld k 1 1 = 1 ∧ t.fld k 2 1 = 0 ∧
      t.fld k 16 16 = (s.fld k 16 16 + 1) % 2 ^ 16 ∧ (∀ k', k' ≠ k → t.reg k' = s.reg k') ∧ (t.room r).lamp = (s.room r).lamp

/-- R256, R258: an instruction whose unit is not free for the first that waits there waits in the unit's queue, in issue order; it counts as issued when it posts. -/
def Sys2Proof.Says.UnitInstructionQueues : Prop :=
  ∀ row ∈ unitRows, ∀ (s : State) (r : RoomId) (u : FmtU) (ra rb rc : List Nat), s.up = true → canIssue s r = true →
    (s.room r).stew.held = false → roomDebug s r = false → s.fld (rreg r Reg.winSampCtl) 0 1 = 0 →
    (s.room r).stew.pc < (s.room r).stew.codeBase + (s.room r).stew.codeLen →
    (∀ q : Fin 5, q ≠ row.queue → ((s.room r).queue q).entries = []) →
    let v := row.prep u
    let f := row.fis v
    let e := entryOf s r f v ra rb rc
    row.shape.ok v = true → predOn (s.room r) u = true →
    captureField (s.room r) f v row.shape.ra v.ra s = .ok ra s → captureField (s.room r) f v row.shape.rb v.rb s = .ok rb s →
    captureField (s.room r) f v row.shape.rc v.rc s = .ok rc s → row.check r v e s = .ok () s →
    (∀ x, (((s.room r).queue row.queue).entries ++ [e]).head? = some x → unitFree (s.room r) row.queue x = false) →
    ((s.room r).queue row.queue).entries.length < 16 → exec (row.cmd r u) s = .next (s.queued r row.queue e)

/-- R256: with 16 instructions waiting for the Floor, `fl.mode` does not issue: the Steward stalls on the full queue at the same PC. -/
def Sys2Proof.Says.FullQueueStalls : Prop :=
  ∀ (s : State) (r : RoomId) (u : FmtU), s.up = true → canIssue s r = true →
    (s.room r).stew.held = false → roomDebug s r = false → s.fld (rreg r Reg.winSampCtl) 0 1 = 0 →
    (s.room r).stew.pc < (s.room r).stew.codeBase + (s.room r).stew.codeLen →
    (∀ q : Fin 5, q ≠ 0 → ((s.room r).queue q).entries = []) →
    (∀ x, ((s.room r).queue 0).entries.head? = some x → unitFree (s.room r) 0 x = false) → ((s.room r).queue 0).entries.length = 16 →
    (⟨.unused, .unused, .unused, 10⟩ : UShape).ok u = true → predOn (s.room r) u = true → FmtU.field u 2 5 ≤ 16 → 1 ≤ FmtU.field u 7 3 →
    FmtU.field u 7 3 ≤ 6 →
    ∃ t, exec (.flMode r u) s = .next t ∧ (t.room r).stew.pc = (s.room r).stew.pc ∧ (t.room r).stew.stall = .queueFull ∧
      (t.room r).queues = (s.room r).queues ∧ t.regs = s.regs

/-- R77, R258, R259: an instruction that its unit has begun completes, the Floor's drain beside the array among them: the unit is free,
and the queue's tally takes in the leading posting instructions that are complete. -/
def Sys2Proof.Says.UnitInstructionCompletes : Prop :=
  ∀ (s : State) (r : RoomId) (u : UnitEnd) (e : QEntry) (rest : List (Nat × Bool)), s.up = true →
    ((s.room r).queue (Machine.unitOf u)).ending u = some e → (∀ p : Fin 5, ((s.room r).queue p).entries = []) →
    (s.room r).stew.waiting = .nothing → (s.room r).stew.stepping = false → (s.room r).sampler.awaiting = [] →
    ((s.room r).queue (Machine.unitOf u)).posts = (e.id, false) :: rest → (∀ p ∈ rest, p.1 ≠ e.id ∧ p.2 = false) →
    exec (.instructionComplete r u) s = .next (s.modQueue r (Machine.unitOf u) (fun x =>
      { x.end_ (u == .drain) with posts := rest, tally := x.tally + 1 }))

/-- R65: once the Floor has nothing queued and nothing under way, its credits are back at the limit, with 0 acting as 1 and a limit
above 64 as 64. -/
def Sys2Proof.Says.FloorIdleRestoresCredits : Prop :=
  ∀ (s : State) (r : RoomId), s.up = true → RoomStill (s.room r) →
    ∃ t, exec (.floorIdle r) s = .next t ∧ (t.room r).floor.credit = max 1 (min 64 (s.fld (rreg r Reg.flCredit) 0 7)) ∧
      (t.room r).floor.rest = (s.room r).floor.rest ∧ (t.room r).shelf = (s.room r).shelf

/-! ## What the units' instructions do

Each statement is about one instruction in every form. Its operands can be read (`Reads`), its rows can be written, and no descriptor
names a status word, so that no trap can follow (R104). It says the state that the unit leaves, from what its operands read as. -/

/-- R57, R58: `fl.load` puts the 32 weight rows of its descriptor, or one row 32 times, in the shadow registers, with the kind of their
format; weights that it replaces before a pass took them are flagged. -/
def Sys2Proof.Says.FloorLoadFillsTheShadow : Prop :=
  ∀ (s s1 : State) (r : RoomId) (u : FmtU) (e : QEntry) (fmt : Fmt) (row : Nat → List Opd), Issues flLoadRow s r u e s1 →
    let d := Desc.ofWords e.ra
    Reads (floorFmt (.flLoad u) d) s1 fmt →
    (∀ p < 32, Reads (loadScaled r d fmt (if u.imm.getLsbD 0 then 0 else p) 0 16) s1 (row (if u.imm.getLsbD 0 then 0 else p))) →
    let s2 := if (s1.floor r).shadowFull then s1.orReg (rreg r Reg.flEvent) 2 else s1
    exec (.flLoad r u) s = .next (s.unitDone s1 r (s2.modFloor r (fun f =>
      { f with shadow := ⟨some (d.plainInt fmt), (List.range 32).map (fun p => row (if u.imm.getLsbD 0 then 0 else p))⟩, shadowFull := true })))

/-- R60: the state in which a pass reads its operands: a shadow that has been filled has become the tile at rest. -/
def Sys2Proof.Says.taken (s1 : State) (r : RoomId) (form : Fin 4) : State :=
  s1.modFloor r (fun f => { f with rest := f.nextTile, shadowFull := false, form := form })

/-- R54, R59-R62, R69, R78, R79: a direct `fl.run` with no open slot feeds the rows that its mask leaves live against the tile, converts
each result once into its destination row, and counts the pass.
That a result row is cut at the 32 posts, and that run q is row q and output o column o, are the model's readings (log entries 72, 75). -/
def Sys2Proof.Says.FloorRunWritesItsResults : Prop :=
  ∀ (s s1 s3 s4 : State) (r : RoomId) (u : FmtU) (e : QEntry) (fmt df : Fmt) (rows n : Nat) (mask : Option (List Nat)) (out : List RowOut)
    (fl : Flags), Issues flRunRow s r u e s1 →
    let a := Desc.ofWords e.ra
    let b := Desc.ofWords e.rb
    let shift := flShift s1 r
    let cols := if shift = 0 then min b.cols 32 else min b.cols a.rows
    let t := (s1.floor r).nextTile
    let fed := mask.getD (List.range rows)
    let s2 := Says.taken s1 r (if shift = 0 then 0 else 1)
    u.imm.getLsbD 7 = true → b.status = none → enabledQuarters s1 r ≠ 0 → (∀ k, (s1.floor r).slots.get k = none) →
    Reads (floorFmt (.flRun u) a) s1 fmt → Reads (activationForm (.flRun u) a shift) s1 (rows, n) → Reads (readMask r (.flRun u) a rows) s1 mask →
    passRows r a fmt shift n t (passInteger t (a.plainInt fmt) b true) cols 0 fed s2 = .ok out s2 → Reads (b.format (.flRun u)) s2 df →
    recordRows r e.pc b.tag out s2 = .ok () s3 →
    writeRows r e.pc b df (flSat s2 r) (flMaskDest s2 r) rows cols (out.map (fun o => (o.1, o.2.map Prod.fst))) s3 = .ok fl s4 →
    exec (.flRun r u) s = .next (s.unitDone s1 r (noteBubbles r (mostFed shift fed.length a.rows (enabledQuarters s1 r))
      (((s4.count64 (rreg r Reg.flPasses) 1).count64 (rreg r Reg.flRowsFed) (if shift = 0 then fed.length else fed.length * cols)).count64
        (rreg r Reg.flRowsCompacted) (rows - fed.length))))

/-- R54, R79, R28: a fed row's results are the sums over its elements and each post's weights, under a window shift those of the window
at each output; a result row is written converted, and one that no result has is zeros where the mode says so. -/
def Sys2Proof.Says.FloorRowsAreSums : Prop :=
  ∀ (s : State) (r : RoomId) (a : Desc) (fmt : Fmt) (shift n : Nat) (t : Tile) (integer : Bool) (cols k0 i : Nat) (xs : List Opd),
    (shift = 0 → Reads (loadScaled r a fmt i 0 n) s xs →
      passRows r a fmt shift n t integer cols k0 [i] s = .ok [(i, (t.rows.take cols).map (fun ws => postGroup integer (ws.take xs.length) xs k0))] s) ∧
    (shift ≠ 0 → min a.rows cols ≠ 0 → Reads (loadScaled r a fmt i 0 (min n ((min a.rows cols - 1) * shift + 16))) s xs →
      passRows r a fmt shift n t integer cols k0 [i] s = .ok [(i, (List.range (min a.rows cols)).map (fun o =>
        postGroup integer (t.rows.getD (o % 32) []) ((List.range 16).map (fun j => xs.getD (o * shift + j) ⟨.pz, {}⟩)) k0))] s)

/-- R73, R74, R84: an `fl.run` into a slot that it opens stores its results as the partials of the slot's first pass, and the slot
then holds one pass with its flags.
That a partial's row is cut at the 32 posts is the model's reading (log entry 72). -/
def Sys2Proof.Says.FloorRunOpensASlot : Prop :=
  ∀ (s s1 s3 s4 : State) (r : RoomId) (u : FmtU) (e : QEntry) (fmt : Fmt) (n : Nat) (xs : List Opd), Issues flRunRow s r u e s1 →
    let a := Desc.ofWords e.ra
    let b := Desc.ofWords e.rb
    let k := slotOne u
    let t := (s1.floor r).nextTile
    let integer := passInteger t (a.plainInt fmt) b false
    let sl := newSlot (flMode s1 r) b integer false
    let s2 := Says.taken s1 r 0
    let res := normalRow t integer xs (min b.cols 32) 0
    u.imm.getLsbD 7 = false → u.imm.getLsbD 3 = false → flShift s1 r = 0 → a.rows = 1 → a.mask = none → enabledQuarters s1 r ≠ 0 →
    (∀ k, (s1.floor r).slots.get k = none) → 1 ≤ sl.ppg → (res.map Prod.fst).take sl.cols ≠ [] →
    Reads (floorFmt (.flRun u) a) s1 fmt → Reads (activationForm (.flRun u) a 0) s1 (1, n) →
    Reads (b.format (.flRun u)) s1 (if integer then .int32 else .f32) →
    Reads (loadScaled r a fmt 0 0 n) s2 xs → recordRows r e.pc b.tag [(0, res)] s2 = .ok () s3 →
    storeRaws r (if integer then .int32 else .f32) (sl.rowAddr 0 0) (((res.map Prod.fst).take sl.cols).map (partRaw integer)) s3 = .ok () s4 →
    exec (.flRun r u) s = .next (s.unitDone s1 r (noteBubbles r (ceilDiv 1 (enabledQuarters s1 r))
      ((((s4.setFlSlot r k (some { sl with passes := 1, flags := (outFlags [(0, res)]).or {}, allMasked := false })).count64 (rreg r Reg.flPasses) 1).count64
        (rreg r Reg.flRowsFed) 1).count64 (rreg r Reg.flRowsCompacted) 0)))

/-- R80-R82, R381: an `fl.thin` of one row and at most 16 elements opens its slot with the sums of the row against each row of
weights. Its stationary row goes through the shadow and rest registers, which then hold free values (the model's choice, log entry 126);
that its groups are ppg passes each is the model's reading (log entry 71). -/
def Sys2Proof.Says.FloorThinOpensASlot : Prop :=
  ∀ (s s1 s3 s4 : State) (r : RoomId) (u : FmtU) (e : QEntry) (fa fb : Fmt) (k : Nat) (xs : List Opd) (ws : Nat → List Opd),
    Issues flThinRow s r u e s1 →
    let a := Desc.ofWords e.ra
    let b := Desc.ofWords e.rb
    let c := Desc.ofWords e.rc
    let key := slotOne u
    let integer := a.plainInt fa && b.plainInt fb
    let sl := newSlot (flMode s1 r) c integer true
    let s2 := takeThinRows r (a.plainInt fa) fa s1
    let res : List (Val × List Ev) := (List.range b.rows).map (fun j => postGroup integer ((ws j).take 16) (xs.take 16) 0)
    u.imm.getLsbD 3 = false → a.mask = none → 1 ≤ k → k ≤ 16 → a.rows = 1 → enabledQuarters s1 r = 4 →
    (s1.floor r).slots.get key = none → 1 ≤ sl.ppg → (res.map Prod.fst).take sl.cols ≠ [] →
    Reads (floorFmt (.flThin u) a) s1 fa → Reads (floorFmt (.flThin u) b) s1 fb → Reads (thinForm (.flThin u) a b) s1 (1, k, b.rows) →
    Reads (c.format (.flThin u)) s1 (if integer then .int32 else .f32) →
    Reads (loadScaled r a fa 0 0 k) s2 xs → (∀ j < b.rows, Reads (loadScaled r b fb j 0 k) s2 (ws j)) →
    recordRows r e.pc c.tag [(0, res)] s2 = .ok () s3 →
    storeRaws r (if integer then .int32 else .f32) (sl.rowAddr 0 0) (((res.map Prod.fst).take sl.cols).map (partRaw integer)) s3 = .ok () s4 →
    exec (.flThin r u) s = .next (s.unitDone s1 r (noteBubbles r b.rows
      ((((s4.setFlSlot r key (some { sl with passes := sl.ppg, flags := (outFlags [(0, res)]).or {}, allMasked := false })).count64 (rreg r Reg.flPasses) 1).count64
        (rreg r Reg.flRowsFed) b.rows).count64 (rreg r Reg.flRowsCompacted) 0)))

/-- R77: `fl.drain` combines the spans of each row of a slot by the tree of R93, converts each result once into its destination row,
and closes the slot. -/
def Sys2Proof.Says.FloorDrainClosesTheSlot : Prop :=
  ∀ (s s1 s2 s3 : State) (r : RoomId) (u : FmtU) (e : QEntry) (fmt : Fmt) (sl : Slot) (parts : Nat → Nat → List Nat) (fl : Flags),
    Issues flDrainRow s r u e s1 →
    let d := Desc.ofWords e.ra
    let k : Fin 8 := Fin.ofNat 8 u.imm.toNat
    let spans := List.range sl.spans
    let out : List RowOut := (if sl.cols = 0 then [] else sl.feeds sl.rows).map (fun i =>
      (i, (List.range sl.cols).map (fun c => combineSpans sl.integer (spans.map (fun sp => (parts i sp).getD c 0)))))
    d.status = none → (s1.floor r).slots.get k = some sl → Reads (d.format (.flDrain u)) s1 fmt →
    (∀ i ∈ sl.feeds sl.rows, ∀ sp ∈ spans, Reads (loadRaws r (if sl.integer then .int32 else .f32) (sl.rowAddr sp i) sl.cols) s1 (parts i sp)) →
    recordRows r e.pc d.tag out s1 = .ok () s2 →
    writeRows r e.pc d fmt (flSat s1 r) sl.maskDest sl.rows sl.cols (out.map (fun o => (o.1, o.2.map Prod.fst))) s2 = .ok fl s3 →
    exec (.flDrain r u) s = .next (s.unitDone s1 r (s3.setFlSlot r k none))

/-- R110, R111: a row of a Stair instruction that is not held is made from its elements, or from zeros when it is reset, and its elements,
outputs, counts and events are written; a held row keeps its elements, or takes zeros when it is reset. -/
def Sys2Proof.Says.StairRowsAreUpdated : Prop :=
  ∀ (s s2 s3 : State) (r : RoomId) (e : QEntry) (t : Tensor) (y : Desc) (yf : Fmt) (reset hold i : Nat) (row : Nat → List El → Op RowMade)
    (old : List El) (m : RowMade) (ys : List Ev),
    let zeros : List El := List.replicate t.count (0, 0)
    let s1 := s.count64 (rreg r Reg.scResets) 1
    (bitAt hold i = true → bitAt reset i = false → maskedRow r e t y yf reset hold row i s = .ok {} s) ∧
    (bitAt hold i = true → bitAt reset i = true → storeState r t i zeros s1 = .ok () s2 → maskedRow r e t y yf reset hold row i s = .ok {} s2) ∧
    (bitAt hold i = false → bitAt reset i = false → Reads (loadState r t i) s old → Reads (row i old) s m →
      storeState r t i (m.els.map (fun x => x.el)) s = .ok () s2 → putOutputs r y yf t.n i m.outs s2 = .ok ys s3 →
      maskedRow r e t y yf reset hold row i s =
        .ok (evFlags (m.evs ++ ys)) (recordEvents r .stair e.pc t.tag i 0 (m.evs ++ ys) (noteStored r m.els s3))) ∧
    (bitAt hold i = false → bitAt reset i = true → Reads (row i zeros) s1 m →
      storeState r t i (m.els.map (fun x => x.el)) s1 = .ok () s2 → putOutputs r y yf t.n i m.outs s2 = .ok ys s3 →
      maskedRow r e t y yf reset hold row i s =
        .ok (evFlags (m.evs ++ ys)) (recordEvents r .stair e.pc t.tag i 0 (m.evs ++ ys) (noteStored r m.els s3)))

/-- R110, R111, R267: `sc.step`, plain and gated, updates its rows in ascending order under its reset and hold masks: a plain row from its
decays, deltas, inputs, B, C and D, a gated one from its gates and inputs. -/
def Sys2Proof.Says.StepUpdatesItsRows : Prop :=
  ∀ (s s1 s2 : State) (r : RoomId) (u : FmtU) (e : QEntry) (t : Tensor) (xf yf : Fmt) (b : List Nat) (p : StepForm) (reset hold : Nat)
    (fs : List Flags),
    let x := Desc.ofWords e.rb
    let y := Desc.ofWords e.rc
    y.status = none → Reads (rowMask r (blockWord b 5)) s1 reset → Reads (rowMask r (blockWord b 6)) s1 hold →
    (∀ gated : Bool, ∀ row ∈ (if gated then [scStepGatedRow] else [scStepRow]), Issues row s r u e s1 →
      Reads (stepPrep r (row.prep u) e) s1 (t, xf, yf, b, p) →
      (List.range t.rows).mapM (maskedRow r e t y yf reset hold (stepRow r gated x xf t b p)) s1 = .ok fs s2 →
      exec (row.cmd r u) s = .next (s.unitDone s1 r s2)) ∧
    ∀ (i : Nat) (old : List El) (as xs ds bs cs : List Opd) (dd : Option (List Opd)),
      Reads (loadArray r .f32 (addrPlus (b.getD 0 0) (4 * i * p.decays t.ch t.n)) (p.decays t.ch t.n)) s1 as →
      Reads (loadScaled r x xf i 0 t.ch) s1 xs →
      Reads (stepRow r true x xf t b p i old) s1 (gatedRow t p as xs old) ∧
      (Reads (loadArray r .f32 (addrPlus (b.getD 1 0) (4 * i * p.deltas t.ch)) (p.deltas t.ch)) s1 ds →
        Reads (loadArray r p.b (addrPlus (b.getD 2 0) (p.b.bits / 8 * i * t.n)) t.n) s1 bs →
        Reads (loadArray r p.c (addrPlus (b.getD 3 0) (p.c.bits / 8 * i * t.n)) t.n) s1 cs →
        Reads (loadMaybe r (blockWord b 4) t.ch) s1 dd → Reads (stepRow r false x xf t b p i old) s1 (ssmRow t p as ds xs bs cs dd old))

/-- R114, R116, R117: `sc.modal`, `sc.fir` and `sc.ema` update their rows in ascending order, each channel by its own recurrence. -/
def Sys2Proof.Says.FiltersUpdateTheirRows : Prop :=
  ∀ (s s1 s2 : State) (r : RoomId) (u : FmtU) (e : QEntry) (t : Tensor) (xf yf : Fmt) (b : List Nat) (a : Nat) (reset hold : Nat)
    (ws cs xs : List Opd) (dd : Option (List Opd)) (fs : List Flags) (old : List El) (i : Nat),
    let x := Desc.ofWords e.rb
    let y := Desc.ofWords e.rc
    let n := u.imm.toNat
    let row (made : List (List Stored × Val × List Ev)) : RowMade := ⟨made.flatMap (fun q => q.1), made.map (fun q => q.2.1), made.flatMap (fun q => q.2.2)⟩
    (Issues scModalRow s r u e s1 → y.status = none → Reads (modalPrep r u e) s1 (t, xf, yf, b) →
      Reads (rowMask r (blockWord b 5)) s1 reset → Reads (rowMask r (blockWord b 6)) s1 hold →
      Reads (loadArray r .f32 (b.getD 0 0) (t.ch * 2 * n)) s1 ws → Reads (loadArray r .f32 (b.getD 1 0) (t.ch * 2 * n)) s1 cs →
      Reads (loadMaybe r (blockWord b 2) t.ch) s1 dd →
      (List.range t.rows).mapM (maskedRow r e t y yf reset hold (modalRow r x xf t n ws cs dd)) s1 = .ok fs s2 →
      exec (.scModal r u) s = .next (s.unitDone s1 r s2)) ∧
    (Issues scFirRow s r u e s1 → y.status = none → Reads (firPrep r u e) s1 (t, xf, yf, a) → Reads (loadArray r .f32 a (t.ch * n)) s1 ws →
      (List.range t.rows).mapM (maskedRow r e t y yf 0 0 (firRow r x xf t n ws)) s1 = .ok fs s2 →
      exec (.scFir r u) s = .next (s.unitDone s1 r s2)) ∧
    (Issues scEmaRow s r u e s1 → y.status = none → Reads (emaPrep r u e) s1 (t, xf, yf, a) → Reads (loadArray r .f32 a t.ch) s1 ws →
      (List.range t.rows).mapM (maskedRow r e t y yf 0 0 (emaRow r x xf t ws)) s1 = .ok fs s2 →
      exec (.scEma r u) s = .next (s.unitDone s1 r s2)) ∧
    (Reads (loadScaled r x xf i 0 t.ch) s1 xs →
      Reads (modalRow r x xf t n ws cs dd i old) s1 (row ((List.range t.ch).map (modalChannel t n ws cs dd xs old))) ∧
      Reads (firRow r x xf t n ws i old) s1 (row ((List.range t.ch).map (firChannel t n ws xs old))) ∧
      Reads (emaRow r x xf t ws i old) s1 (
        let made := (List.range t.ch).map (fun c => emaEl t (ws.getD c noOpd) (xs.getD c noOpd) (repEl t (old.getD c (0, 0))))
        ⟨made, made.map (fun q => (repEl t q.el).v), made.zipIdx.flatMap (fun q => flagEvs q.1.fl q.2)⟩))

/-- R120: the phases of `sc.chunk`: prep writes the workspace of each head and position, carry the outputs of each position from it and
the state, which it leaves, and state the next state from lam of the last position and p. -/
def Sys2Proof.Says.ChunkPhases : Prop :=
  ∀ (s s1 s2 : State) (r : RoomId) (u : FmtU) (e : QEntry) (t : Tensor) (xf yf : Fmt) (b : List Nat) (p : StepForm) (c : Chunk)
    (all bs g lams ps : List Opd) (dd : Option (List Opd)) (old : List El) (m : Nat),
    (∀ (fs : List (List Flags)), Issues scChunkPrepRow s r u e s1 → t.status = none → Reads (prepChecks r (scChunkPrepRow.prep u) e) s1 (t, b, p, c) →
      Reads (match blockWord b 5 with | some a => loadNat r a 32 | none => pure 0) s1 m →
      Reads (loadArray r .f32 (b.getD 0 0) (c.t * c.heads)) s1 all → Reads (loadArray r p.b (b.getD 2 0) (c.t * c.n)) s1 bs →
      Reads (loadArray r .f32 (b.getD 6 0) (c.t * c.t)) s1 g →
      let marks := m % 2 ^ c.t
      (List.range c.heads).mapM (fun h => (List.range c.t).mapM (prepRow r e t c (b.getD 7 0) marks all bs g h)) s1 = .ok fs s2 →
      exec (.scChunkPrep r u) s = .next (s.unitDone s1 r
        (s2.count64 (rreg r Reg.scResets) ((List.range c.t).filter (fun i => bitAt marks i)).length))) ∧
    (∀ (fs : List Flags), Issues scChunkCarryRow s r u e s1 → (Desc.ofWords e.rc).status = none →
      Reads (carryChecks r (scChunkCarryRow.prep u) e) s1 (t, xf, yf, b, p, c) → Reads (loadState r t 0) s1 old →
      Reads (loadArray r .f32 (c.lamAt (b.getD 7 0)) (c.heads * c.t)) s1 lams → Reads (loadMaybe r (blockWord b 4) c.ch) s1 dd →
      (List.range c.t).mapM (carryRow r e t xf yf b p c (old.map (repEl t)) lams dd) s1 = .ok fs s2 →
      exec (.scChunkCarry r u) s = .next (s.unitDone s1 r s2)) ∧
    (Issues scChunkStateRow s r u e s1 → t.status = none → Reads (stateChecks r (scChunkStateRow.prep u) e) s1 (t, b, p, c) →
      Reads (loadArray r .f32 (c.lamAt (b.getD 7 0)) (c.heads * c.t)) s1 lams → Reads (loadArray r .f32 (b.getD 6 0) (c.ch * c.n)) s1 ps →
      Reads (loadState r t 0) s1 old →
      let made := (List.range (c.ch * c.n)).map (fun i =>
        let z := addTerms (mulTerm (lams.getD (i / c.n / 2 ^ c.k * c.t + (c.t - 1)) noOpd) (repEl t (old.getD i (0, 0))))
          ⟨(ps.getD i noOpd).v, (ps.getD i noOpd).fl⟩
        storeEl t z.1 z.2)
      storeState r t 0 (made.map (fun x => x.el)) s1 = .ok () s2 →
      exec (.scChunkState r u) s = .next (s.unitDone s1 r
        (recordEvents r .stair e.pc t.tag 0 0 (made.zipIdx.flatMap (fun q => flagEvs q.1.fl q.2)) (noteStored r made s2))))

/-- R120: one position of the carry phase: each channel's output is formed from its head's lam, the state and C, yi, and D times its
input, and converted once into the position's row. -/
def Sys2Proof.Says.ChunkCarryForms : Prop :=
  ∀ (s s2 : State) (r : RoomId) (e : QEntry) (t : Tensor) (xf yf : Fmt) (b : List Nat) (p : StepForm) (c : Chunk) (hs lams xs cs yi : List Opd)
    (dd : Option (List Opd)) (i : Nat) (ys : List Ev), Reads (loadScaled r (Desc.ofWords e.rb) xf i 0 c.ch) s xs →
    Reads (loadArray r p.c (addrPlus (b.getD 3 0) (p.c.bits / 8 * i * c.n)) c.n) s cs →
    Reads (loadArray r .f32 (addrPlus (b.getD 6 0) (4 * i * c.ch)) c.ch) s yi →
    let made := (List.range c.ch).map (fun k => carryOut cs ((hs.drop (k * c.n)).take c.n) (lams.getD (k / 2 ^ c.k * c.t + i) noOpd)
      (yi.getD k noOpd) (xs.getD k noOpd) (dd.map (fun l => l.getD k noOpd)))
    putOutputs r (Desc.ofWords e.rc) yf c.n i (made.map Prod.fst) s = .ok ys s2 →
    let evs := made.zipIdx.flatMap (fun q => shiftEvs (q.2 * c.n) q.1.2) ++ ys
    carryRow r e t xf yf b p c hs lams dd i s = .ok (evFlags evs) (recordEvents r .stair e.pc t.tag i 0 evs s2)

/-- R125, R126: `sc.fold` on a compensated state that is due makes every pair canonical, or with drop its value alone; on another, or on
one that is not due, it does nothing. -/
def Sys2Proof.Says.FoldMakesPairsCanonical : Prop :=
  ∀ (s s1 s2 : State) (r : RoomId) (u : FmtU) (e : QEntry) (t : Tensor) (fs : List Flags), Issues scFoldRow s r u e s1 →
    Reads (foldPrep r u e) s1 t →
    let due := t.comp && !(u.imm.getLsbD 1 && stepOf s1 r % foldPeriod s1 r != 0)
    (due = false → exec (.scFold r u) s = .next (s.unitDone s1 r s1)) ∧
    (due = true → t.status = none → (List.range t.rows).mapM (foldRow r e t (u.imm.getLsbD 0)) s1 = .ok fs s2 →
      exec (.scFold r u) s = .next (s.unitDone s1 r (s2.satFld (rreg r Reg.scFolds) 0 32 1))) ∧
    ∀ (i : Nat) (old : List El) (s3 s4 : State) (drop : Bool), Reads (loadState r t i) s3 old →
      let made := old.map (foldEl t drop)
      storeState r t i (made.map (fun x => x.el)) s3 = .ok () s4 →
      let evs := made.zipIdx.flatMap (fun q => flagEvs q.1.fl q.2)
      let sat := (made.filter (fun x => x.clamp)).length
      foldRow r e t drop i s3 = .ok (evFlags evs) (recordEvents r .stair e.pc t.tag i 0 evs
        ((s4.count64 (rreg r Reg.scResidueSat) sat).orReg (rreg r Reg.scEvent) (if 0 < sat then 1 else 0)))

/-- R113, R128, R129: `sc.export` writes an image: its header, the CRC-32C of header and payload, and the payload: the values of its rows,
and the residues unless the value-only form is asked for, whose conversions are events of their elements. It leaves the state. -/
def Sys2Proof.Says.ExportWritesAnImage : Prop :=
  ∀ (s s1 s2 s3 : State) (r : RoomId) (u : FmtU) (e : QEntry) (t : Tensor) (g : Desc) (withRes : Bool) (rows : List (List Stored)) (b : List Nat),
    (Issues scExportRow s r u e s1 → Reads (exportPrep r u e) s1 (t, g, withRes) → g.status = none →
      (List.range t.rows).mapM (exportRow r e t withRes) s1 = .ok rows s2 → Reads (stairBlock r t) s2 b →
      let els := rows.flatten
      let payload := rows.flatMap (fun l => t.fmt.pack (l.map (fun x => x.el.1))) ++ (if withRes then els.map (fun x => BitVec.ofInt 8 x.el.2) else [])
      let head := imageHeader t (FmtU.field u 9 3) (FmtU.field u 1 8) (b.getD 14 0) (b.getD 13 0) (stepOf s2 r) payload.length withRes
        (withRes && els.all (fun x => (storeEl t (repEl t x.el).v {}).el == x.el))
      storeAt r g.base (head ++ bytesOfNat 4 (crc32c (head ++ payload)) ++ payload) s2 = .ok () s3 →
      exec (.scExport r u) s = .next (s.unitDone s1 r s3)) ∧
    ∀ (i : Nat) (old : List El), Reads (loadState r t i) s old →
      let made := old.map (exportEl t withRes)
      exportRow r e t withRes i s = .ok made (recordEvents r .stair e.pc t.tag i 0 (elEvs made) s)

/-- R113, R130, R131: `sc.import` checks the image in order: one that passes is converted into the destination's rows, with its events;
one whose CRC is wrong sets them to zero; any other leaves them. SC_IMPORT_STATUS has the result and the image's version, and SC_EVENT
a rejection. -/
def Sys2Proof.Says.ImportChecksTheImage : Prop :=
  ∀ (s s1 s2 : State) (r : RoomId) (u : FmtU) (e : QEntry) (t : Tensor) (g : Desc) (h payload : List Byte), Issues scImportRow s r u e s1 →
    Reads (importPrep r u e) s1 (t, g) → t.status = none → Reads (loadAt r g.base 64) s1 h →
    let c0 := importCode t g u.imm.toNat h
    let version := 2 ^ 16 * opNat h 4 2
    (c0 ≠ 0 → c0 ≠ 4 ∧ ∃ z, exec (.scImport r u) s = .next (s.unitDone s1 r z) ∧ z.rooms = s1.rooms ∧ z.dram = s1.dram ∧
      z.reg (rreg r Reg.scImportStatus) = BitVec.ofNat 32 (c0 + version) ∧ z.fld (rreg r Reg.scEvent) 1 1 = 1) ∧
    (c0 = 0 → Reads (loadAt r (addrPlus g.base 64) (imagePayload t h)) s1 payload →
      let good := crc32c (h.take 0x3C ++ payload) = opNat h 0x3C 4
      let els := importEls t h payload
      let zeros : List Stored := List.replicate (t.rows * t.count) ⟨(0, 0), false, false, {}⟩
      (good → (List.range t.rows).forM (importRow r e t els) s1 = .ok () s2 → exec (.scImport r u) s = .next (s.unitDone s1 r (
        ((s2.count64 (rreg r Reg.scResidueSat) (els.filter (fun x => x.clamp)).length).orReg (rreg r Reg.scEvent)
          (if 0 < (els.filter (fun x => x.clamp)).length then 1 else 0)).setReg (rreg r Reg.scImportStatus) (BitVec.ofNat 32 version)))) ∧
      (¬ good → (List.range t.rows).forM (importRow r e t zeros) s1 = .ok () s2 →
        ∃ z, exec (.scImport r u) s = .next (s.unitDone s1 r z) ∧ z.rooms = s2.rooms ∧
          z.reg (rreg r Reg.scImportStatus) = BitVec.ofNat 32 (4 + version) ∧ z.fld (rreg r Reg.scEvent) 1 1 = 1)) ∧
    ∀ (els : List Stored) (i : Nat) (s3 s4 : State),
      let row := (els.drop (i * t.count)).take t.count
      storeState r t i (row.map (fun x => x.el)) s3 = .ok () s4 →
      importRow r e t els i s3 = .ok () (recordEvents r .stair e.pc t.tag i 0 (elEvs row) s4)

/-- R101, R102, R104: a unit's instruction writes its tile status word where its descriptor says, gathers the flags in ROOM_NUM_STATUS,
and with trap_inv or trap_sat raises NUMERIC_TRAP for a word that carries that flag, with the exception record in the unit capture. -/
def Sys2Proof.Says.StatusWordsTrap : Prop :=
  ∀ (s s1 : State) (r : RoomId) (a : Nat) (t : TileStatus), storeNat r a 4 t.word s = .ok () s1 →
    let s2 := s1.orReg (rreg r Reg.roomNumStatus) (t.word % 128)
    let trap := (s1.fld (rreg r Reg.roomExcCtl) 4 1 = 1 ∧ t.fl.inv = true) ∨ (s1.fld (rreg r Reg.roomExcCtl) 5 1 = 1 ∧ t.fl.sat = true)
    (¬ trap → putStatus r (some a) t s = .ok () s2) ∧
    (trap → putStatus r (some a) t s = .error ⟨.numericTrap, [(s1.reg (rreg r Reg.roomExcInfo)).toNat, (s1.reg (rreg r Reg.roomExcRow)).toNat,
      (s1.reg (rreg r Reg.roomExcK)).toNat, (s1.reg (rreg r Reg.roomExcPc)).toNat]⟩ s2)

/-- R135, R136, R268, R383: `lm.eval` takes each element less its row's bias, times its row's scale, through the function, times the row's and
the column's factors; each is converted once, its flags recorded at its coordinate, and the lookups and flushes counted. A table is
one that is loaded, not written since, and at the epoch it is asked for. -/
def Sys2Proof.Says.EvalAppliesItsFunction : Prop :=
  ∀ (s s1 s2 : State) (r : RoomId) (u : FmtU) (e : QEntry) (d o : Desc) (df yf : Fmt) (tab : Option LampTab) (b : List Nat) (ob oa oc : LampArg)
    (cols : List Opd) (xs : Nat → List Opd) (fl : Flags), Issues lmEvalRow s r u e s1 → Reads (evalPrep r u e) s1 (d, o, df, yf) → o.status = none →
    let fn := FmtU.field u 0 4
    (fn < 8 → ∃ t, tab = some t ∧ Reads (tableCheck r fn (u.imm.getLsbD 4) (FmtU.field u 5 16)) s1 () ∧
      Reads (loadBank r fn (s1.fld (rreg r Reg.lmTblt + 4 * fn) 0 1)) s1 t) → (8 ≤ fn → tab = none) →
    Reads (lampBlock r e.rc) s1 b →
    let per (i : Nat) : Bool := bitAt (b.getD 4 0) i
    Reads (lampArg r b 0 d.rows (per 0) .pz) s1 ob → Reads (lampArg r b 1 d.rows (per 1) .one) s1 oa → Reads (lampArg r b 2 d.rows (per 2) .one) s1 oc →
    (∀ a, blockWord b 3 = some a → Reads (loadArray r .f32 a d.cols) s1 cols) → (blockWord b 3 = none → cols = []) →
    (∀ i < d.rows, Reads (loadScaled r d df i 0 d.cols) s1 (xs i)) →
    let rows := (List.range d.rows).map (fun i => (xs i).zipIdx.map (fun p =>
      evalEl tab fn p.1 (ob.at_ i) (oa.at_ i) (oc.at_ i) (cols.getD p.2 ⟨.one, {}⟩)))
    let flushes := (rows.map (fun l => (l.filter (fun q => q.2.2)).length)).foldl (· + ·) 0
    lampWrite r e d.tag o yf (u.imm.getLsbD 21) (rows.map (fun l => l.map (fun q => (q.1, q.2.1)))) s1 = .ok fl s2 →
    exec (.lmEval r u) s = .next (s.unitDone s1 r (((s2.count64 (rreg r Reg.lmLookups) (d.rows * d.cols)).count64 (rreg r Reg.lmFlushes) flushes).orReg
      (rreg r Reg.lmEvent) (if 0 < flushes then 2 else 0)))

/-- R38, R383: a row of Lamp results is converted once into its destination, and each element's flags are recorded at its column. -/
def Sys2Proof.Says.LampRowsAreWritten : Prop :=
  ∀ (s s2 : State) (r : RoomId) (e : QEntry) (tag : Nat) (o : Desc) (yf : Fmt) (sat : Bool) (row : List (Val × Flags)) (i : Nat),
    let cs := row.map (fun x => convert yf sat x.1)
    storeRaws r yf (o.rowAddr i) (cs.map Prod.fst) s = .ok () s2 →
    let evs := ((row.zip (cs.map Prod.snd)).map (fun q => q.1.2.or q.2)).zipIdx.flatMap (fun q => flagEvs q.1 q.2)
    lampRow r e tag o yf sat row i s = .ok (evFlags evs) (recordEvents r .lamp e.pc tag i 0 evs s2)

/-- R144: `lm.sincos` writes the sine of every element to its first output and the cosine to its second. -/
def Sys2Proof.Says.SincosWritesBoth : Prop :=
  ∀ (s s1 s2 s3 : State) (r : RoomId) (u : FmtU) (e : QEntry) (d so co : Desc) (df sf cf : Fmt) (xs : Nat → List Opd) (fs fc : Flags),
    Issues lmSincosRow s r u e s1 → Reads (sincosPrep r u e) s1 (d, so, co, df, sf, cf) → so.status = none → co.status = none →
    (∀ i < d.rows, Reads (loadScaled r d df i 0 d.cols) s1 (xs i)) →
    let rows := (List.range d.rows).map xs
    lampWrite r e d.tag so sf false (rows.map (fun l => l.map (sincosEl false))) s1 = .ok fs s2 →
    lampWrite r e d.tag co cf false (rows.map (fun l => l.map (fun x => ((sincosEl true x).1, {})))) s2 = .ok fc s3 →
    exec (.lmSincos r u) s = .next (s.unitDone s1 r (s3.count64 (rreg r Reg.lmLookups) (d.rows * d.cols)))

/-- R150: `lm.stat` writes each live row's sum, sum of squares, moments, largest or smallest element; a row that its mask removes is one
of no elements. -/
def Sys2Proof.Says.StatisticsOfRows : Prop :=
  ∀ (s s1 s2 : State) (r : RoomId) (u : FmtU) (e : QEntry) (d o : Desc) (df yf : Fmt) (bytes : List Byte) (b : List Nat) (xs : Nat → List Opd)
    (fs : List Flags), Issues lmStatRow s r u e s1 → Reads (statPrep r u e) s1 (d, o, df, yf) → o.status = none →
    let kind := FmtU.field u 0 3
    (∀ a, d.mask = some a → Reads (loadAt r a (ceilDiv d.rows 8)) s1 bytes) →
    let live := if d.mask.isSome then liveRows bytes d.rows else List.range d.rows
    Reads (lampBlock r e.rc) s1 b → (∀ i ∈ live, Reads (loadScaled r d df i 0 d.cols) s1 (xs i)) →
    let rows := (List.range d.rows).map (fun i =>
      let x := if live.contains i then xs i else []
      if kind = 2 then statMoments (u.imm.getLsbD 4) (readOpd .f32 (b.getD 5 0)) x else statOne kind (u.imm.getLsbD 3) x)
    rows.zipIdx.mapM (fun p => statWrite r e d.tag o (if kind = 2 then .f32 else yf) p.1 p.2) s1 = .ok fs s2 →
    exec (.lmStat r u) s = .next (s.unitDone s1 r s2)

/-- R97, R384: `lm.red` combines its parts by the tree of R93: triples into a triple, integers into an INT32 sum, and others into a sum that is
converted once.
The coordinates of its events are the model's reading (log entry 36). -/
def Sys2Proof.Says.ReductionOfParts : Prop :=
  ∀ (s s1 s2 : State) (r : RoomId) (u : FmtU) (e : QEntry) (d o : Desc) (yf : Fmt), Issues lmRedRow s r u e s1 → Reads (redPrep r u e) s1 (d, o, yf) →
    o.status = none →
    let p := FmtU.field u 0 5
    let seen (z : State) (evs : List Ev) : State := recordEvents r .lamp e.pc d.tag 0 0 evs z
    (∀ bs, u.imm.getLsbD 6 = true → Reads (loadAt r d.base (p * 12)) s1 bs → storeAt r o.base (redTriples bs p).1 s1 = .ok () s2 →
      exec (.lmRed r u) s = .next (s.unitDone s1 r (seen s2 (redTriples bs p).2.1))) ∧
    (∀ xs, u.imm.getLsbD 6 = false → u.imm.getLsbD 5 = true → Reads (loadRaws r .int32 d.base p) s1 xs →
      let z := tree addIPart (xs.zipIdx.map (fun q => (⟨signedOf q.1 32, q.2⟩ : IPart)))
      storeNat r o.base 4 (wrapTo ((z.1.map IPart.v).getD 0) 32) s1 = .ok () s2 →
      exec (.lmRed r u) s = .next (s.unitDone s1 r (seen s2 z.2))) ∧
    (∀ xs, u.imm.getLsbD 6 = false → u.imm.getLsbD 5 = false → Reads (loadOpds r .f32 d.base p) s1 xs →
      let z := tree addPart (xs.zipIdx.map (fun q => (⟨q.1.v, q.2⟩ : Part)))
      ∀ cv, storeVals r yf false o.base [(z.1.map Part.v).getD .nz] s1 = .ok cv s2 →
      exec (.lmRed r u) s = .next (s.unitDone s1 r (seen s2
        (xs.zipIdx.flatMap (fun q => flagEvs q.1.fl q.2) ++ z.2 ++ flagEvs (cv.foldl Flags.or {}) 0))))

/-- R154-R159, R166: `pa.attend` takes its query rows through the pages of its list in order, then writes each row's output and lse; with update, each
page's Shelf copy takes its new score. -/
def Sys2Proof.Says.AttendMeetsItsPages : Prop :=
  ∀ (s s1 s2 s3 s4 : State) (r : RoomId) (u : FmtU) (e : QEntry) (a : Attn) (q o : Desc) (pl : PageList) (qs : Nat → List Opd) (pos : Nat → Nat)
    (rows : List AttnRow) (ms : List MetPage) (below : Nat) (fs : List Flags) (fw : Flags), Issues paAttendRow s r u e s1 →
    Reads (attendPrep r u e) s1 (a, q, o) → o.status = none → Reads (loadList r (.paAttend u) a.list) s1 pl →
    (∀ i < a.q, Reads (loadOpds r a.qfmt (q.rowAddr i) a.dim) s1 (qs i)) → (∀ i < a.q / a.g, Reads (loadNat r (addrPlus a.pos (8 * i)) 8) s1 (pos i)) →
    pl.pages.zipIdx.foldlM (meetNext r a (readOpd .f32 a.theta) ((List.range a.q).map qs) ((List.range (a.q / a.g)).map pos))
      (List.replicate a.q ({} : AttnRow), [], 0) s1 = .ok (rows, ms, below) s2 →
    rows.zipIdx.mapM (fun x => attendOut r e a o x.1 x.2) s2 = .ok fs s3 →
    (if a.update then scorePass r e a o.tag rows ms else pure {}) s3 = .ok fw s4 →
    let empty := (rows.filter (fun x => x.first)).length
    ∃ z, exec (.paAttend r u) s = .next (s.unitDone s1 r z) ∧ z.rooms = s4.rooms ∧ z.dram = s4.dram ∧
      z.reg64 (rreg r Reg.paKeys) = (s4.reg64 (rreg r Reg.paKeys) + (rows.map (fun x => x.keys)).foldl (· + ·) 0) % 2 ^ 64 ∧
      z.fld (rreg r Reg.paEmptyRows) 0 32 = min (2 ^ 32 - 1) (s4.fld (rreg r Reg.paEmptyRows) 0 32 + empty) ∧
      (a.response = 1 → 0 < below → z.fld (rreg r Reg.paEvent) 0 1 = 1) ∧ (0 < empty → z.fld (rreg r Reg.paEvent) 1 1 = 1)

/-- R154, R155, R161, R173: a page that is resident and sound meets each row that has a live key in it; a page with none is counted as
skipped, and reads no token. -/
def Sys2Proof.Says.AttendSkipsDeadPages : Prop :=
  ∀ (s : State) (r : RoomId) (a : Attn) (theta : Opd) (qs : List (List Opd)) (pos : List Nat) (rows : List AttnRow) (m : MetPage)
    (keys vals : Nat → List Opd),
    let lives := (List.range a.q).map (fun i => (List.range 64).filter (keyLive a m.hdr (pos.getD (i / a.g) 0)))
    let any (j : Nat) : Bool := lives.any (fun l => l.contains j)
    ((∀ j < 64, any j = false) → attendPage r a theta qs pos rows m s =
      .ok (rows.map (fun x => { x with pages := x.pages ++ [none] })) (s.count64 (rreg r Reg.paPagesSkipped) 1)) ∧
    ((∃ j < 64, any j = true) → (∀ j < 64, any j = true → Reads (loadToken r a.list m a.dim false j) s (keys j) ∧ Reads (loadToken r a.list m a.dim true j) s (vals j)) →
      let ks := (List.range 64).map (fun j => if any j then keys j else [])
      let vs := (List.range 64).map (fun j => if any j then vals j else [])
      attendPage r a theta qs pos rows m s = .ok (rows.zipIdx.map (fun x =>
        let live := lives.getD x.2 []
        if live.isEmpty then { x.1 with pages := x.1.pages ++ [none] }
        else rowMeets a x.1 (rowScores theta (qs.getD x.2 []) ks live (64 * m.index)) vs (64 * m.index))) (s.count64 (rreg r Reg.paPages) 1))

/-- R168: `pa.pageset` advance at a position that starts no page, with no window, gives the page of the position one token more, moves the
list's next position on, and answers that no page came or went. -/
def Sys2Proof.Says.PagesetAdvances : Prop :=
  ∀ (s s1 s2 s3 s4 : State) (r : RoomId) (u : FmtU) (e : QEntry) (a : Attn) (pl : PageList) (ld o : Desc) (hs : List (Nat × PageHdr))
    (x : Nat × PageHdr), Issues paPagesetAdvanceRow s r u e s1 → Reads (pagesetPrep r (paPagesetAdvanceRow.prep u) e) s1 (a, pl, ld, o) →
    o.status = none → a.w = 0 → pl.next % 64 ≠ 0 → Reads (copyHdrs r ld.base pl.pages) s1 hs →
    hs.reverse.find? (fun x => decide (x.2.base ≤ pl.next ∧ pl.next < x.2.base + 64)) = some x →
    setTokens r ld.base x.1 (pl.next - x.2.base + 1) s1 = .ok () s2 →
    storeList r ld.base { pl with next := (pl.next + 1) % 2 ^ 64, pages := hs.map Prod.fst } s2 = .ok () s3 →
    storeAt r o.base (bytesOfNat 4 0xFFFFFF ++ bytesOfNat 4 0xFFFFFF ++ bytesOfNat 4 0xFFFFFF ++ bytesOfNat 4 0) s3 = .ok () s4 →
    ∃ z, exec (.paPagesetAdvance r u) s = .next (s.unitDone s1 r z) ∧ z.rooms = s4.rooms ∧ z.dram = s4.dram ∧ z.jobs = s4.jobs ∧
      z.thr = (noteSink r pl.sink (hs.map Prod.fst) s4).thr ∧
      ∀ k, k ≠ rreg r Reg.paEvent → k ≠ rreg r Reg.paEvictions → k ≠ rreg r Reg.paExpired → z.reg k = s4.reg k

/-- R169, R170: `pa.pageset` narrow takes a page of the narrower size, builds it in its output with every token of K and V narrowed, puts its number in
the list, and frees the old page at the step's release.
The scale of a block that has no scale of R169's is a free value, the model's choice (log entry 66). -/
def Sys2Proof.Says.PagesetNarrows : Prop :=
  ∀ (s s1 s2 s3 s4 s5 s6 : State) (r : RoomId) (u : FmtU) (e : QEntry) (a : Attn) (pl : PageList) (ld o : Desc) (hb : List Byte) (p : Nat) (fs : List Flags),
    Issues paPagesetNarrowRow s r u e s1 → Reads (pagesetPrep r (paPagesetNarrowRow.prep u) e) s1 (a, pl, ld, o) → o.status = none →
    let v := paPagesetNarrowRow.prep u
    let ix := FmtU.field v 1 12
    let tag := FmtU.field v 13 3
    let form := FmtU.field v 16 2
    let old := pl.pages.getD ix 0
    let h := pageHdrOf hb
    let dst := addrPlus o.base 0x40
    Reads (loadCopy r ld.base old 0 64) s1 hb → h.tag < tag → h.magic = pageMagic → tagForm h.tag h.form = true → headDim h.dim = some a.dim →
    takeFor r ld.base ix a.dim tag form h.base h.rest h.count s1 = .ok p s2 →
    storeAt r dst ({ h with tag := tag, form := form, number := p } : PageHdr).bytes s2 = .ok () s3 →
    (List.range (min 64 h.count)).mapM (narrowKey r e o ld.base dst ⟨ix, old, h⟩ a.dim tag form) s3 = .ok fs s4 →
    storeNat r (addrPlus ld.base (16 + 4 * ix)) 4 p s4 = .ok () s5 →
    storeAt r o.base (bytesOfNat 4 0xFFFFFF ++ bytesOfNat 4 p ++ bytesOfNat 4 0xFFFFFF ++ bytesOfNat 4 0) s5 = .ok () s6 →
    exec (.paPagesetNarrow r u) s = .next (s.unitDone s1 r (freeLater r old (noteSink r pl.sink (pl.pages.set ix p) s6)))

/-! ## The Dumbwaiter -/

/-- R182, R192, R270: `dw.launch` with a program and a status word that its room can name, and a deadline that has not passed, waits in
the Dumbwaiter's queue with its addresses, its channel and the pane roles of that moment. -/
def Sys2Proof.Says.LaunchIsQueued : Prop :=
  ∀ (s : State) (r : RoomId) (u : FmtU), RoomReady s r → (⟨.a, .a, .imm 3, 24⟩ : UShape).ok u = true → predOn (s.room r) u = true →
    let w := (s.room r).stew
    let a := (w.areg.get (Fin.ofNat 16 u.ra.toNat)).toNat
    let b := (w.areg.get (Fin.ofNat 16 u.rb.toNat)).toNat
    checkAt r a 16 s = .ok () s → checkAt r b 4 s = .ok () s → (s.room r).stepTime ≤ u.imm.toNat →
    exec (.dwLaunch r u) s = .next (s.queued r 4 (entryOf s r (.dwLaunch u) u [a] [b] [u.rc.toNat]))

/-- R192: a launch whose own deadline has passed when it issues is SCHEDULE_BREACH. -/
def Sys2Proof.Says.LateLaunchBreaches : Prop :=
  ∀ (s : State) (r : RoomId) (u : FmtU), RoomReady s r → (⟨.a, .a, .imm 3, 24⟩ : UShape).ok u = true → predOn (s.room r) u = true →
    let w := (s.room r).stew
    checkAt r (w.areg.get (Fin.ofNat 16 u.ra.toNat)).toNat 16 s = .ok () s →
    checkAt r (w.areg.get (Fin.ofNat 16 u.rb.toNat)).toNat 4 s = .ok () s → u.imm.toNat < (s.room r).stepTime →
    ∃ t, exec (.dwLaunch r u) s = .next t ∧ t.faults.length = s.faults.length + 1 ∧
      (t.faults.getLast?.map (fun f => (f.code, f.room))) = some (.scheduleBreach, some r) ∧ (t.room r).stew.running = false

/-- R182, R194, R203: the launch at the head of the queue whose channel is free and whose wait has been met starts: its channel runs
the program fetched, with the status address, deadline and pane roles of its issue, and goes on from there. An extended launch takes a
staging slot from the pool, or, with none free, is denied one and counted. -/
def Sys2Proof.Says.LaunchStarts : Prop :=
  ∀ (s : State) (r : RoomId) (e : QEntry) (u : FmtU) (prog : List DwOp), s.up = true → launchReady (s.room r) = some e →
    e.op = .dwLaunch u →
    let s1 := s.modQueue r 4 (fun q => { q with entries := q.entries.tail })
    fetchProg r e.op 64 (e.ra.headD 0) [] s1 = .ok prog s1 →
    let ext := bitAt (e.rc.headD 0) 2
    let free := s.fld Reg.hallPool 8 8
    ∃ (t : State) (l : Launch), (t.room r).chan e.channel = some l ∧ l.id = e.id ∧ l.prog = prog ∧ l.status = e.rb.headD 0 ∧
      l.deadline = u.imm.toNat ∧ l.roles = e.roles ∧ l.ix = 0 ∧ l.finished = false ∧
      ((t.room r).queue 4).entries = ((s.room r).queue 4).entries.tail ∧
      l.slotHeld = (ext && decide (0 < free)) ∧ l.denied = (ext && decide (free = 0)) ∧
      t.fld Reg.hallPool 8 8 = (if ext = true ∧ 0 < free then free - 1 else free) ∧
      t.fld Reg.hallPoolDenied 0 32 = (if ext = true ∧ free = 0 then min (2 ^ 32 - 1) (s.fld Reg.hallPoolDenied 0 32 + 1)
        else s.fld Reg.hallPoolDenied 0 32) ∧
      (∀ k, k ≠ Reg.hallPool → k ≠ Reg.hallPoolDenied → t.reg k = s.reg k) ∧ t.dram = s.dram ∧ t.hall = s.hall ∧
      (∀ q, q ≠ r → t.room q = s.room q) ∧
      exec (.dwLaunchStart r) s = .next { settle r (dwRun r e.channel t) with pending := s.pending, pins := s.pins }

/-- R186, R191, R203: a launch whose every destination write has landed completes: its status word is written, DW_CHn_STATUS and its
channel follow, and its staging slot returns to the pool; then launches and Stewards that waited go on. -/
def Sys2Proof.Says.LaunchCompletes : Prop :=
  ∀ (s : State) (r : RoomId) (ch : Fin 4) (l : Launch) (off : Nat), s.up = true → (s.room r).chan ch = some l → launchLanded s r l = true →
    decodeAddr r l.status 4 s = .ok (.room r .shelf off) s → s.eccOf (some r) .shelf = [] → (s.room r).sampler.awaiting = [] →
    let pool := s.fld Reg.hallPool 8 8
    ∃ t : State, (t.room r).chan ch = none ∧ (t.room r).shelf = (s.room r).shelf.putN off 4 l.word ∧
      t.fld (rreg r Reg.dwChnStatus + 4 * ch.val) 2 4 = l.flags.toNat % 16 ∧ t.fld (rreg r Reg.dwChnStatus + 4 * ch.val) 6 1 = b2n l.denied ∧
      t.fld Reg.hallPool 8 8 = (if l.slotHeld then (pool + 1) % 256 else pool) ∧ (∀ c, c ≠ ch → (t.room r).chan c = (s.room r).chan c) ∧ (∀ q, q ≠ r → t.room q = s.room q) ∧ t.hall = s.hall ∧ t.dram = s.dram ∧
      exec (.dwLaunchComplete r ch) s = .next { goOn t with pending := s.pending, pins := s.pins }

/-- R270: `dw.wait` goes on when no earlier launch on the channels of its mask is incomplete; else the Steward stalls. -/
def Sys2Proof.Says.DwWaitWaitsForItsChannels : Prop :=
  ∀ (s : State) (r : RoomId) (u : FmtU), UReady s r u { imm := 4 } →
    (launchesOn (s.room r) u.imm.toNat = false → exec (.dwWait r u) s = .next (s.stepped r id)) ∧
    (launchesOn (s.room r) u.imm.toNat = true → exec (.dwWait r u) s = .next (s.stalled r .dw (.dwWait u)))

/-- R195: `dw.swap` on a valid pair, with no launch queued and none that writes the pair's fill pane, exchanges the pair's roles. -/
def Sys2Proof.Says.DwSwapExchangesThePanes : Prop :=
  ∀ (s : State) (r : RoomId) (u : FmtU), UReady s r u ⟨.unused, .unused, .unused, 4⟩ → (paneAddr (s.room r) (s.room r).roles u.imm.toNat true).isSome = true →
    (∀ ch l, (s.room r).chan ch = some l → fillsPair l u.imm.toNat = false) →
    exec (.dwSwap r u) s = .next ((s.modRoom r (fun m => { m with roles := m.roles ^^^ BitVec.ofNat 16 (2 ^ u.imm.toNat) })).stepped r id)

/-- R196, R197: `dw.put` to another room or the Pantry reads its bytes and sends them as remote writes of at most 256 B each, in order;
it completes with their acknowledgements. -/
def Sys2Proof.Says.PutIsSent : Prop :=
  ∀ (s : State) (r : RoomId) (u : FmtU) (p : Place) (bs : List Byte), UReady s r u ⟨.a, .a, .s, 0⟩ →
    let w := (s.room r).stew
    let a := (w.areg.get (Fin.ofNat 16 u.ra.toNat)).toNat
    let b := (w.areg.get (Fin.ofNat 16 u.rb.toNat)).toNat
    let n := (w.read (.s (Fin.ofNat 32 u.rc.toNat))).toNat
    let e := entryOf s r (.dwPut u) u [a] [b] [n]
    let s1 := s.taken r e
    bitsOf a 30 2 ≠ 2 → bitsOf b 30 2 ≠ 2 → 8 ≤ n → n ≤ 65536 → n % 8 = 0 → a % 8 = 0 → b % 8 = 0 →
    checkAt r a n s = .ok () s → checkAt r b n s = .ok () s →
    loadAt r a n s1 = .ok bs s1 → bs.length = n → decodeAddr r b n s1 = .ok p s1 → p.isLocal r = false →
    let ops := (chunksOf 256 bs).zipIdx.map (fun c =>
      (⟨r, p.target, (Place.at_ p).1, (Place.at_ p).2 + 256 * c.2, .write c.1, .entry e.id, e.pc, false, []⟩ : HallOp))
    exec (.dwPut r u) s = .next (State.count64 { s1 with hall := s.hall ++ ops } (rreg r Reg.dwWriteBytes) n)

/-- R196: `dw.add` to another room or the Pantry reads its addends and sends them as one remote add. -/
def Sys2Proof.Says.AddIsSent : Prop :=
  ∀ (s : State) (r : RoomId) (u : FmtU) (p : Place) (bs : List Byte), UReady s r u ⟨.a, .a, .unused, 6⟩ →
    let w := (s.room r).stew
    let a := (w.areg.get (Fin.ofNat 16 u.ra.toNat)).toNat
    let b := (w.areg.get (Fin.ofNat 16 u.rb.toNat)).toNat
    let k := if u.imm.getLsbD 5 then 8 else 4
    let n := k * (FmtU.field u 0 5 + 1)
    let e := entryOf s r (.dwAdd u) u [a] [b] []
    let s1 := s.taken r e
    bitsOf a 30 2 ≠ 2 → bitsOf b 30 2 ≠ 2 → a % k = 0 → b % k = 0 → checkAt r a n s = .ok () s → checkAt r b n s = .ok () s →
    loadAt r a n s1 = .ok bs s1 → decodeAddr r b n s1 = .ok p s1 → p.isLocal r = false →
    let o : HallOp := ⟨r, p.target, (Place.at_ p).1, (Place.at_ p).2, .add ((chunksOf k bs).map natOfBytes) (k == 8), .entry e.id, e.pc,
      false, []⟩
    exec (.dwAdd r u) s = .next { s1.count64 (rreg r Reg.dwWriteBytes) n with hall := s.hall ++ [o] }

/-- R199: `dw.mcast` of a valid group starts a multicast of a Pantry region to the group's rooms that are not fenced. -/
def Sys2Proof.Says.MulticastStarts : Prop :=
  ∀ (s : State) (r : RoomId) (u : FmtU) (poff off : Nat), UReady s r u ⟨.a, .a, .s, 4⟩ →
    let w := (s.room r).stew
    let a := (w.areg.get (Fin.ofNat 16 u.ra.toNat)).toNat
    let b := (w.areg.get (Fin.ofNat 16 u.rb.toNat)).toNat
    let n := (w.read (.s (Fin.ofNat 32 u.rc.toNat))).toNat
    let e := entryOf s r (.dwMcast u) u [a] [b] [n]
    bitAt (s.reg (rreg r Reg.roomGrpvalid)).toNat u.imm.toNat = true → 64 ≤ n → n ≤ 2 ^ 23 →
    decodeAddr r a n s = .ok (.pantry poff) s → poff = bitsOf a 0 30 → mcastDest b n s = .ok off s →
    (∀ t, mcastDest b n t = .ok off t) →
    let g := s.fld (rreg r Reg.roomGrpmap + 4 * (u.imm.toNat / 8)) (4 * (u.imm.toNat % 8)) 4
    let m : Mcast := ⟨s.nextMcast, r, .entry e.id, e.pc, .pantry poff, some (poff, n), .shelf, off, n, 0, groupRooms s g⟩
    exec (.dwMcast r u) s = .next { (s.taken r e).count64 (rreg r Reg.dwWriteBytes) n with
      mcasts := s.mcasts ++ [m], nextMcast := s.nextMcast + 1 }

/-- R188, R189, R363, R364, R368: a free read tag goes to the room and channel whose turn it is: its request, with the tag of the job's host context and
the job's QoS class, spends a credit, and the line is on its way. -/
def Sys2Proof.Says.ReadTagIsGranted : Prop :=
  ∀ (s : State) (port : Fin 4) (tag : BitVec 8) (r : RoomId) (ch : Fin 4) (l : Launch) (x : Nat), s.up = true →
    0 < (s.ports.get port).creditRq → (∀ u ∈ (s.ports.get port).reads, u.tag ≠ tag.toNat) → tagTarget s false port = some (r, ch) →
    (s.room r).chan ch = some l → readWanted s r ch port = some x →
    ∃ t, exec (.tagGrant port false tag) s = .next t ∧ (t.ports.get port).creditRq = (s.ports.get port).creditRq - 1 ∧
      (t.ports.get port).lastRead = some r ∧
      (t.ports.get port).reads = (s.ports.get port).reads ++ 
        [{ tag := tag.toNat, room := some r, ch := ch, launch := l.id, line := x, ctx := roomCtx s r, qos := s.fld Reg.hallQos 0 4 }] ∧
      (t.room r).chan ch = some { l with want := l.want.erase x, flight := l.flight ++ [x] } ∧
      (t.room r).lastReadCh = ch ∧ (t.room r).shelf = (s.room r).shelf ∧ t.dram = s.dram ∧ (∀ q, q ≠ r → t.room q = s.room q)

/-! ## The Hall -/

/-- R196, R197, R385: a remote write that is the first of its source and target lands: its bytes are in the target's store, and it
waits for its acknowledgement. No other byte of any store, and none of DRAM, changes. -/
def Sys2Proof.Says.RemoteWriteLands : Prop :=
  ∀ (s : State) (n : Nat) (o : HallOp) (bs : List Byte), s.up = true → s.still → s.hall[n]? = some o → hallFirst s.hall n = true →
    o.act = .write bs → o.hub = false → o.store ≠ .lamp → s.eccOf o.room o.store = [] → (o.room = none ↔ o.store = .pantry) →
    ∃ t, exec (.remoteWriteApply n) s = .next t ∧ t.mem o.room o.store = (s.mem o.room o.store).putBytes o.off bs ∧
      t.hall[n]? = some { o with done := true, reply := [] } ∧ (∀ k, k ≠ n → t.hall[k]? = s.hall[k]?) ∧
      (∀ q st, (q, st) ≠ (o.room, o.store) → (q = none ↔ st = .pantry) → t.mem q st = s.mem q st) ∧ t.dram = s.dram ∧ t.land = s.land

/-- R197: a remote add that is the first of its source and target replaces each word by the wrapping sum with its addend. -/
def Sys2Proof.Says.RemoteAddAdds : Prop :=
  ∀ (s : State) (n : Nat) (o : HallOp) (ws : List Nat) (int64 : Bool), s.up = true → s.still → s.hall[n]? = some o →
    hallFirst s.hall n = true → o.act = .add ws int64 → o.hub = false → o.store ≠ .lamp → s.eccOf o.room o.store = [] →
    (o.room = none ↔ o.store = .pantry) → ws ≠ [] →
    let w := if int64 then 8 else 4
    let old := (chunksOf w ((s.mem o.room o.store).bytes o.off (w * ws.length))).map natOfBytes
    ∃ t, exec (.remoteAddApply n) s = .next t ∧
      t.mem o.room o.store = (s.mem o.room o.store).putBytes o.off
        ((ws.zip old).flatMap (fun p => bytesOfNat w ((p.1 + p.2) % 2 ^ (8 * w)))) ∧
      t.hall[n]? = some { o with done := true, reply := [] } ∧ t.dram = s.dram ∧
      (∀ q st, (q, st) ≠ (o.room, o.store) → (q = none ↔ st = .pantry) → t.mem q st = s.mem q st)

/-- R196: a read-return that is the first of its source and target brings back the target's bytes and changes no store. -/
def Sys2Proof.Says.ReadReturnReads : Prop :=
  ∀ (s : State) (n : Nat) (o : HallOp) (k : Nat), s.up = true → s.still → s.hall[n]? = some o → hallFirst s.hall n = true →
    o.act = .read k → o.hub = false → s.eccOf o.room o.store = [] →
    ∃ t, exec (.readReturnService n) s = .next t ∧
      t.hall[n]? = some { o with done := true, reply := (s.mem o.room o.store).bytes o.off k } ∧
      t.rooms = s.rooms ∧ t.pantry = s.pantry ∧ t.dram = s.dram

/-- R197: the acknowledgement of an applied operation ends it; the last one of a `dw.put` or `dw.add` completes the instruction, whose
post then counts. -/
def Sys2Proof.Says.AcknowledgementCompletes : Prop :=
  ∀ (s : State) (n : Nat) (o : HallOp), s.up = true → s.still → s.hall[n]? = some o → o.done = true →
    (o.owner = .store → exec (.remoteAck n) s = .next { s with hall := s.hall.eraseIdx n }) ∧
    (∀ id rest, o.owner = .entry id → (∀ x ∈ s.hall.eraseIdx n, ¬ (x.src = o.src ∧ x.owner = .entry id)) →
      (s.room o.src).sampler.awaiting = [] → ((s.room o.src).queue 4).posts = (id, false) :: rest →
      (∀ p ∈ rest, p.1 ≠ id ∧ p.2 = false) →
      exec (.remoteAck n) s = .next (State.modQueue { s with hall := s.hall.eraseIdx n } o.src 4 (fun x =>
        { x with posts := rest, tally := x.tally + 1 })))

/-- R200: while every attached receiver is less than a window of 64 KiB behind, the hub sends the next packet of at most 256 B to each
of them. -/
def Sys2Proof.Says.MulticastPacketIsSent : Prop :=
  ∀ (s : State) (n : Nat) (m : Mcast) (b : List Byte), s.up = true → s.mcasts[n]? = some m → m.from_ = .bytes b → m.sent < m.size →
    (∀ x ∈ s.mcasts, x.id = m.id → x = m) →
    (m.recv.any (fun x => !x.detached)) = true → (∀ x ∈ m.recv, x.detached = false → m.sent - x.acked < 0x10000) →
    let bs := (b.drop m.sent).take (min 256 (m.size - m.sent))
    let att := m.recv.filter (fun x => !x.detached)
    ∃ t, exec (.mcastSend n none) s = .next t ∧
      t.hall = s.hall ++ att.map (fun x => (⟨m.src, some x.room, m.store, m.off + m.sent, .write bs, .mcast m.id, m.pc, false, []⟩ : HallOp)) ∧
      t.mcasts[n]? = some { m with sent := m.sent + bs.length, recv := m.recv.map (fun x =>
        if x.detached then x else { x with sent := m.sent + bs.length }) } ∧ t.rooms = s.rooms ∧ t.pantry = s.pantry

/-- R200: a receiver that holds its group at a full window is detached and counted, and its replay begins at what has landed. -/
def Sys2Proof.Says.SlowReceiverIsDetached : Prop :=
  ∀ (s : State) (n : Nat) (m : Mcast) (r : RoomId) (x : Receiver), s.up = true → s.mcasts[n]? = some m →
    (∀ y ∈ s.mcasts, y.id = m.id → y = m) → x ∈ m.recv → x.room = r → x.detached = false → m.sent - x.acked = 0x10000 →
    ∃ t, exec (.mcastDetach n r) s = .next t ∧
      t.mcasts[n]? = some { m with recv := m.recv.map (fun y => if y.room = r then { y with detached := true, sent := y.acked } else y) } ∧
      t.fld Reg.hallMcastDetach 0 32 = min (2 ^ 32 - 1) (s.fld Reg.hallMcastDetach 0 32 + 1) ∧ t.rooms = s.rooms ∧
      (∀ o ∈ t.hall, ¬ (o.owner = .mcast m.id ∧ o.room = some r))

/-- R200, R201: a multicast of a launch that has landed at every receiver ends, and launches that waited for its region go on. -/
def Sys2Proof.Says.PantryRegionIsReleased : Prop :=
  ∀ (s : State) (n : Nat) (m : Mcast) (id : Nat), s.up = true → s.still → s.mcasts[n]? = some m → m.owner = .launch id →
    (∀ x ∈ m.recv, m.size ≤ x.acked) →
    exec (.pantryRelease n) s = .next { s with mcasts := s.mcasts.filter (fun x => x.id != m.id) }

/-- R192, R356: a launch that is not complete when the room's step time reaches its deadline is SCHEDULE_BREACH, on its channel or
still in the queue; in a room of a debug job none is. That a room's step time moves with the times that the command names is the model's
choice (log entry 123). -/
def Sys2Proof.Says.DeadlineBreaches : Prop :=
  ∀ (s : State) (r : RoomId) (ch : Fin 4) (now : Nat), s.up = true →
    let s1 := s.modRoom r (fun m => { m with stepTime := max m.stepTime now })
    (roomDebug s r = true → exec (.scheduleBreach r ch now) s = .next s1) ∧
    (roomDebug s r = false →
      (∀ l, (s.room r).chan ch = some l → l.stopped = false → l.deadline ≤ now →
        ∃ t f, exec (.scheduleBreach r ch now) s = .next t ∧ t.faults = s.faults ++ [f] ∧ f.code = .scheduleBreach ∧ f.room = some r ∧
          f.slot = (s.room r).job ∧ f.pc = l.pc ∧ (t.room r).chan ch = some { l with stopped := true } ∧ (t.room r).stew.running = false ∧
          (t.room r).shelf = (s.room r).shelf ∧ t.dram = s.dram) ∧
      (∀ e, (∀ l, (s.room r).chan ch = some l → l.stopped = true ∨ now < l.deadline) →
        ((s.room r).queue 4).entries.find? (fun e => e.isLaunch && e.channel == ch && decide (e.deadline ≤ now)) = some e →
        ∃ t f, exec (.scheduleBreach r ch now) s = .next t ∧ t.faults = s.faults ++ [f] ∧ f.code = .scheduleBreach ∧ f.room = some r ∧
          f.pc = e.pc ∧ (t.room r).stew.running = false ∧ (t.room r).chans = (s.room r).chans) ∧
      ((∀ l, (s.room r).chan ch = some l → l.stopped = true ∨ now < l.deadline) →
        ((s.room r).queue 4).entries.find? (fun e => e.isLaunch && e.channel == ch && decide (e.deadline ≤ now)) = none →
        exec (.scheduleBreach r ch now) s = .next s1))

/-- R178: the rewrite of a corrected word leaves it with fresh check bits, and no data changes. -/
def Sys2Proof.Says.CorrectedWordIsRewritten : Prop :=
  ∀ (s : State) (r : RoomId) (code : StoreCode) (word : Nat), s.up = true → code.val < 5 → (code.val, word) ∈ (s.room r).rewrites →
    ∃ t, exec (.eccRewrite r code word) s = .next t ∧ (∀ x, (code.val, word, x) ∉ (t.room r).ecc) ∧
      (∀ e ∈ (s.room r).ecc, (e.1, e.2.1) ≠ (code.val, word) → e ∈ (t.room r).ecc) ∧ (code.val, word) ∉ (t.room r).rewrites ∧
      (t.room r).shelf = (s.room r).shelf ∧ (t.room r).chest = (s.room r).chest ∧ t.regs = s.regs

/-- R180: with patrol enabled, patrol of a room goes on to the next word. A word of the Shelf with two bits in error is poisoned and
counted, without a fault; one with a single bit in error is counted and recorded as R178 has it.
Which stores patrol visits, and in which order, is the model's reading (log entry 108). -/
def Sys2Proof.Says.PatrolReadsTheNextWord : Prop :=
  ∀ (s : State) (r : RoomId), s.up = true → s.fld (rreg r Reg.roomEccCtl) 0 1 = 1 → (s.room r).power = .on →
    (s.room r).patrol < 0x20000 →
    let w := (s.room r).patrol
    ∃ t, exec (.patrolScrub (some r)) s = .next t ∧ (t.room r).patrol = w + 1 ∧ t.faults = s.faults ∧ (t.room r).shelf = (s.room r).shelf ∧
      ((s.eccOf (some r) .shelf).lookup w = none → t = s.modRoom r (fun m => { m with patrol := w + 1 })) ∧
      ((s.eccOf (some r) .shelf).lookup w = some 1 → t.reg (rreg r Reg.roomEccAddr) = BitVec.ofNat 32 (1 + 16 * w) ∧ (0, w) ∈ (t.room r).rewrites) ∧
      ((s.eccOf (some r) .shelf).lookup w = some 2 → (t.eccOf (some r) .shelf).lookup w = some 3 ∧
        t.fld (rreg r Reg.roomEccCorr) 24 8 = min 255 (s.fld (rreg r Reg.roomEccCorr) 24 8 + 1))

/-! ## Barriers -/

/-- R206, R207, R271: `sy.arrive` toggles the room's sense bit on its channel and, as a plain arrival, waits for the release; as a split
one it goes on. A second arrival before the release stalls and arrives nowhere. -/
def Sys2Proof.Says.ArrivalTogglesTheSense : Prop :=
  ∀ (s : State) (r : RoomId) (u : FmtU) (ch : ChanId), UReady s r u { imm := 4 } → mapChan s r (FmtU.field u 0 3) = some ch →
    ((s.room r).awaiting.get ch = false → ∃ t, exec (.syArrive r u) s = .next t ∧
      (t.room r).sense.get ch = !(s.room r).sense.get ch ∧ (t.room r).awaiting.get ch = true ∧
      (∀ k, k ≠ ch → (t.room r).sense.get k = (s.room r).sense.get k ∧ (t.room r).awaiting.get k = (s.room r).awaiting.get k ∧ t.bar k = s.bar k) ∧
      t.bar ch = { s.bar ch with arrived := (s.bar ch).arrived || (s.bar ch).members.getLsbD r.val } ∧
      (t.room r).stew = (if u.imm.getLsbD 3 then { (s.room r).stew.unstall with pc := (s.room r).stew.pc + 8 }
        else { (s.room r).stew with gone := none, stall := .barrier, waiting := .release ch false, stallFrom := winCycles s r, running := true }) ∧
      (∀ q, q ≠ r → t.room q = s.room q) ∧ t.regs = s.regs ∧ t.dram = s.dram) ∧
    ((s.room r).awaiting.get ch = true → exec (.syArrive r u) s = .next (s.stalled r .barrier (.syArrive u)))

/-- R206, R207, R209: a channel that is no job's step barrier releases once every member has arrived: E toggles, the epoch counts, the mask written
for it is in force, every member's arrival has its release, and a Steward that waited for it goes on behind its instruction. Of a
channel with a member missing nothing happens. -/
def Sys2Proof.Says.BarrierReleases : Prop :=
  ∀ (s : State) (ch : ChanId), s.up = true →
    (barMissing s ch ≠ 0 → exec (.barrierRelease ch) s = .next s) ∧
    (releases s ch = true → stepJob s ch = none → ∃ t, exec (.barrierRelease ch) s = .next (s.sealing (settleAll t)) ∧
      (t.bar ch).e = !(s.bar ch).e ∧ (t.bar ch).arrived = false ∧ (t.bar ch).members = writtenMembers s ch ∧
      t.reg (Reg.landBarnEpoch + 0x20 * ch.val) = s.reg (Reg.landBarnEpoch + 0x20 * ch.val) + 1 ∧
      (∀ k, k ≠ ch → t.bar k = s.bar k) ∧ t.dram = s.dram ∧ t.jobs = s.jobs ∧
      ∀ r, (s.bar ch).members.getLsbD r.val = true → (t.room r).awaiting.get ch = false ∧ (t.room r).sense.get ch = (s.room r).sense.get ch ∧
        ∀ halt, (s.room r).stew.waiting = .release ch halt →
          let w := (s.room r).stew
          (t.room r).stew = { w.unstall with pc := w.pc + 8, running := true, gone := some (w.stall, winCycles s r - w.stallFrom) })

/-- R25, R206: the release of a job's step barrier toggles E and counts the epoch; the job's Stewards stop, its step ends, and what follows
begins. -/
def Sys2Proof.Says.StepBarrierEndsTheStep : Prop :=
  ∀ (s : State) (ch : ChanId) (j : SlotId), s.up = true → releases s ch = true → stepJob s ch = some j →
    ∃ t, exec (.barrierRelease ch) s = .next (s.sealing (settleAll (stepReleased j t))) ∧ (t.bar ch).e = !(s.bar ch).e ∧
      t.reg (Reg.landBarnEpoch + 0x20 * ch.val) = s.reg (Reg.landBarnEpoch + 0x20 * ch.val) + 1 ∧ t.jobs = s.jobs ∧ t.dram = s.dram ∧
      ((s.job j).inStep = true → ∃ u, stepReleased j t = afterStep j (endStep j u) ∧ u.jobs = t.jobs ∧ u.land = t.land ∧
        ∀ r ∈ (s.job j).physical, (u.room r).stew.running = false ∧ (u.room r).stew.waiting = .nothing)

/-- R211: a channel of a running job that does not release within its limit is STEP_WATCHDOG, with the channel, its epoch and the missing members;
with a limit of 0, in a debug job, before the first arrival and with no member missing there is none. -/
def Sys2Proof.Says.WatchdogExpires : Prop :=
  ∀ (s : State) (ch : ChanId) (j : SlotId), s.up = true → (s.bar ch).slot = some j →
    let quiet := s.reg (Reg.landBarnWdog + 0x20 * ch.val) = 0 ∨ (s.bar ch).arrived = false ∨ barMissing s ch = 0 ∨ (s.job j).st ≠ .running ∨
      (s.job j).debug = true
    (quiet → exec (.stepWatchdog ch) s = .next s) ∧
    (¬ quiet → exec (.stepWatchdog ch) s = .next (s.addFault
      { code := .stepWatchdog, source := 0x21, room := none, slot := some j, ledger := 0xFFFF, pc := 0xFFFFFFFF,
        capture := [ch.val, (s.reg (Reg.landBarnEpoch + 0x20 * ch.val)).toNat, barMissing s ch] }))

/-- R26, R250: the oldest checkpoint of a job commits once every state write of its step has been answered, and not before: the job restarts
behind that step, and each of its streams' Attic headers, as the hub reads them, names the step and the log position; no other byte
that the hub reads changes. Which image the header names is the model's choice (log entry 127).
That those are the writes of the launches which had not completed at the step's end is the model's reading (log entry 87). -/
def Sys2Proof.Says.CheckpointCommits : Prop :=
  ∀ (s : State) (j : SlotId) (c : Ckpt) (rest : List Ckpt), s.up = true → (s.job j).ckpts = c :: rest →
    (ckptDone s c = false → exec (.checkpointCommit j) s = .next s) ∧
    (ckptDone s c = true → (s.job j).ending = none →
      ∃ t, exec (.checkpointCommit j) s = .next t ∧ (t.job j).ckpts = rest ∧ (t.job j).committed = some c.step ∧ t.rooms = s.rooms ∧
        t.regs = s.regs ∧ t.dram = s.dram ∧ t.thr.ledger = s.thr.ledger ∧ (∀ k, k ≠ j → t.job k = s.job k) ∧
        ∀ i pos, c.streams = [(i, pos)] → s.jobOf i = some j → s.led i Led.state ≠ Led.FAULTED →
          let a := s.atticKey i
          t.dnum (a + 6) 2 = i % 2 ^ 16 ∧ t.dnum (a + 0xC) 1 = (if atticImage s i = some 0 then 1 else 0) ∧
          t.dnum (a + 0x10) 8 = c.step % 2 ^ 64 ∧ t.dnum (a + 0x18) 8 = pos % 2 ^ 64 ∧
          t.dnum (a + 0x3C) 4 = crc32c (t.dbytes a 0x3C) % 2 ^ 32 ∧
          ∀ x, (∀ n, n < 0x40 → x ≠ dramKey (a + n)) → t.hubDram.get x = s.hubDram.get x)

/-! ## Sync words of the rooms -/

/-- The room's sync operations: the command, its instruction with the form's immediate bits, and the operation that it sends (R214). -/
def Sys2Proof.Says.syncRows : List (URow × (State → RoomId → FmtU → SyncDo)) :=
  [(⟨.sySignal, .sySignal, id, { imm := 10 }⟩, fun _ _ _ => .signal),
   (⟨.syAdd, .syAdd, (fun u => withImm u 10 1 0), { rb := .s, imm := 11 }⟩, fun s r u => .add (signedOf (sWord (s.room r) u.rb) 32)),
   (⟨.sySet, .syAdd, (fun u => withImm u 10 1 1), { rb := .s, imm := 11 }⟩, fun s r u => .set (sWord (s.room r) u.rb))]

/-- R214: `sy.signal`, `sy.add` and `sy.set` on a bound handle send their operation to the word's home and go on; on a handle that is not
bound each is HANDLE_INVALID. -/
def Sys2Proof.Says.SyncOperationsAreSent : Prop :=
  ∀ row ∈ Says.syncRows, ∀ (s : State) (r : RoomId) (u : FmtU), UReady s r (row.1.prep u) row.1.shape →
    let v := row.1.prep u
    let h := FmtU.field v 0 10
    let c := roomCtx s r
    keyBad s c h = false →
    (∀ w, s.keyWord c h = some w → ∃ t, exec (row.1.cmd r u) s = .next t ∧
      t.land.ops = s.land.ops ++ [⟨r, h, w, row.2 s r v, (s.room r).stew.pc, (encodeFis (row.1.fis v)).toNat⟩] ∧
      t.land.words = s.land.words ∧ t.land.watches = s.land.watches ∧ t.rooms = (s.stepped r id).rooms ∧ t.regs = s.regs ∧ t.dram = s.dram) ∧
    (s.keyWord c h = none → ∃ t f, exec (row.1.cmd r u) s = .next t ∧ t.faults = s.faults ++ [f] ∧ f.code = .handleInvalid ∧ f.room = some r ∧
      f.capture = [h, c] ∧ t.land.ops = s.land.ops ∧ (t.room r).stew.running = false)

/-- R218, R219: `sy.watch` on a bound handle with its slot not armed sends its watch to the word's home and arms the slot; on an armed slot it is
ILLEGAL_INSTRUCTION.
That a slot with a wake is armed anew is the model's choice (log entry 27). -/
def Sys2Proof.Says.WatchIsSentAndArmsItsSlot : Prop :=
  ∀ (s : State) (r : RoomId) (u : FmtU) (w : Nat),
    let v := withImm u 16 1 0
    let h := FmtU.field v 0 10
    let k : Fin 16 := Fin.ofNat 16 (FmtU.field v 10 4)
    let c := roomCtx s r
    UReady s r v { ra := .s, rc := .s, imm := 17 } → keyBad s c h = false → s.keyWord c h = some w →
    ((s.room r).slots.get k ≠ .armed → ∃ t, exec (.syWatch r u) s = .next t ∧
      t.land.ops = s.land.ops ++ [⟨r, h, w, .watch k (FmtU.field v 14 2) (sWord (s.room r) v.ra), (s.room r).stew.pc, (encodeFis (.syWatch v)).toNat⟩] ∧
      t.rooms = ((s.setSlot r k .armed).stepped r id).rooms ∧ t.land.words = s.land.words ∧ t.regs = s.regs) ∧
    ((s.room r).slots.get k = .armed → exec (.syWatch r u) s =
      .next (raise r (s.room r).stew.pc ⟨.illegalInstruction, [(encodeFis (.syWatch v)).toNat]⟩ s))

/-- R221: `sy.watch` as a cancel answers 0 on an armed slot, whose watch is gone and which holds a wake with status 3 (its value is open), 1 on a
slot whose wake has been issued, and 2 on an empty one. -/
def Sys2Proof.Says.WatchCancelAnswers : Prop :=
  ∀ (s : State) (r : RoomId) (u : FmtU),
    let v := withImm u 16 1 1
    let k : Fin 16 := Fin.ofNat 16 (FmtU.field v 10 4)
    let rc : RegName := .s (Fin.ofNat 32 v.rc.toNat)
    UReady s r v { ra := .s, rc := .s, imm := 17 } →
    ((s.room r).slots.get k = .empty → exec (.syWatchCancel r u) s = .next (s.stepped r (fun w => w.write rc 2))) ∧
    ((s.room r).slots.get k ≠ .empty → (s.room r).slots.get k ≠ .armed →
      exec (.syWatchCancel r u) s = .next (s.stepped r (fun w => w.write rc 1))) ∧
    ((s.room r).slots.get k = .armed → ∃ t x, exec (.syWatchCancel r u) s = .next t ∧ (t.room r).slots.get k = .wake x 3 ∧
      (t.room r).stew = { ((s.room r).stew.write rc 0).unstall with pc := (s.room r).stew.pc + 8 } ∧
      (∀ y ∈ t.land.watches, y.who ≠ .room r k) ∧ (∀ y ∈ s.land.watches, y.who ≠ .room r k → y ∈ t.land.watches) ∧
      t.reg64 Reg.landWakes = (s.reg64 Reg.landWakes + 1) % 2 ^ 64 ∧ (∀ q, q ≠ r → t.room q = s.room q))

/-- R207, R221: `sy.wait` on a slot with a wake takes its value and status into rc and leaves the slot empty; on an empty slot it takes 0; on an
armed one it stalls. On a barrier it stalls while an arrival of the room waits for its release, and else goes on. -/
def Sys2Proof.Says.WaitTakesTheWake : Prop :=
  ∀ (s : State) (r : RoomId) (u : FmtU),
    (let v := withImm u 4 1 0
     let k : Fin 16 := Fin.ofNat 16 (FmtU.field v 0 4)
     let rc : RegName := .s (Fin.ofNat 32 v.rc.toNat)
     UReady s r v { rc := .s, imm := 8 } →
     (∀ x st, (s.room r).slots.get k = .wake x st → exec (.syWait r u) s = .next ((s.setSlot r k .empty).stepped r (fun w =>
       w.write rc (BitVec.ofNat 64 (x.toNat + 2 ^ 32 * (st % 4)))))) ∧
     ((s.room r).slots.get k = .empty → exec (.syWait r u) s = .next (s.stepped r (fun w => w.write rc 0))) ∧
     ((s.room r).slots.get k = .armed ∨ (∃ x st, (s.room r).slots.get k = .coming x st) →
       exec (.syWait r u) s = .next (s.stalled r .sync (.syWait v)))) ∧
    (let v := withImm u 4 1 1
     ∀ ch, UReady s r v { rc := .s, imm := 8 } → mapChan s r (FmtU.field v 5 3) = some ch →
     ((s.room r).awaiting.get ch = false → exec (.syWaitBarrier r u) s = .next (s.stepped r id)) ∧
     ((s.room r).awaiting.get ch = true → exec (.syWaitBarrier r u) s = .next (s.stalled r .barrier (.syWait v))))

/-- R216: `sy.fence` goes on when no write of the room in the classes of its mask is incomplete, and else stalls. -/
def Sys2Proof.Says.FenceWaitsForItsClasses : Prop :=
  ∀ (s : State) (r : RoomId) (u : FmtU), UReady s r u { imm := 3 } →
    (fenceBusy s r u.imm.toNat = false → exec (.syFence r u) s = .next (s.stepped r id)) ∧
    (fenceBusy s r u.imm.toNat = true → exec (.syFence r u) s = .next (s.stalled r .fence (.syFence u)))

/-- R214, R215: what an operation makes of a word, by its kind. A signal adds 1 to a counter or a claim and sets a flag to 1; an add goes to a
counter, and to a claim when it is not negative; a set goes to a flag. A value that would leave the range of 32 bits is held at its end and
latched; every other pair of an operation and a kind is an error and leaves the word alone. -/
def Sys2Proof.Says.SyncWordArithmetic : Prop :=
  ∀ (v : Word64) (n : Int) (m : Nat), let x := wordValue v
    (wordKind v = 1 ∨ wordKind v = 3 → x < 2 ^ 32 - 1 → syncResult v .signal = (wordWith v (x + 1), .done)) ∧
    (wordKind v = 1 ∨ wordKind v = 3 → x = 2 ^ 32 - 1 → syncResult v .signal = (wordSet (wordWith v (2 ^ 32 - 1)) 56, .high)) ∧
    (wordKind v = 2 → syncResult v .signal = (wordWith v 1, .done) ∧ syncResult v (.set m) = (wordWith v m, .done) ∧
      syncResult v (.add n) = (v, .kindError)) ∧
    (wordKind v = 1 ∨ (wordKind v = 3 ∧ 0 ≤ n) →
      (0 ≤ x + n → x + n < 2 ^ 32 → syncResult v (.add n) = (wordWith v (x + n).toNat, .done)) ∧
      (2 ^ 32 ≤ x + n → syncResult v (.add n) = (wordSet (wordWith v (2 ^ 32 - 1)) 56, .high)) ∧
      (x + n < 0 → syncResult v (.add n) = (wordSet (wordWith v 0) 57, .low))) ∧
    (wordKind v = 3 → n < 0 → syncResult v (.add n) = (v, .kindError)) ∧
    (wordKind v = 1 ∨ wordKind v = 3 → syncResult v (.set m) = (v, .kindError))

/-- R214, R215, R220, R223: a room's operation that is the first of its room on its word is applied at the word's home: the word changes by its
kind, no other word does, and the word's watches are evaluated. One that leaves the range is SYNC_OVERFLOW or SYNC_UNDERFLOW of the
room, one that the kind does not take is ILLEGAL_INSTRUCTION, and one on an ABANDONED word is dropped and counted. -/
def Sys2Proof.Says.SyncOperationIsApplied : Prop :=
  ∀ (s : State) (n : Nat) (o : SyncOp), s.up = true → s.land.ops[n]? = some o → syncFirst s.land.ops n = true → syncEcc s o.word < 2 →
    (∀ k c x, o.act ≠ .watch k c x) →
    let v := s.word o.word
    let e := syncResult v o.act
    ∃ t, exec (.syncOpApply n) s = .next (s.sealing (settleAll t)) ∧ t.land.ops = s.land.ops.eraseIdx n ∧ t.dram = s.dram ∧ t.jobs = s.jobs ∧
      (∀ x, x ≠ o.word → t.word x = s.word x) ∧
      (wordKind v ≠ 0 ∧ wordAbandoned v = true → t.word o.word = v ∧ t.faults = s.faults ∧ t.land.watches = s.land.watches ∧
        t.rooms = s.rooms ∧ t.fld Reg.landAbandonDrops 0 32 = min (2 ^ 32 - 1) (s.fld Reg.landAbandonDrops 0 32 + 1)) ∧
      (wordAbandoned v = false → e.2 = .done ∨ e.2 = .high ∨ e.2 = .low → Evaluated s t o.word e.1) ∧
      (wordAbandoned v = false → e.2 = .done → t.faults = s.faults ∧ (¬ s.watched o.word → t.rooms = s.rooms ∧ t.regs = s.regs)) ∧
      (wordAbandoned v = false → e.2 = .high ∨ e.2 = .low → ∃ f, t.faults = s.faults ++ [f] ∧ f.room = some o.room ∧
        f.code = (if e.2 = .high then .syncOverflow else .syncUnderflow) ∧ f.capture = [o.handle, o.word, (t.word o.word).toNat] ∧
        t.fld Reg.landSatEvents 0 32 = min (2 ^ 32 - 1) (s.fld Reg.landSatEvents 0 32 + 1)) ∧
      (wordAbandoned v = false → e.2 = .kindError ∨ e.2 = .free → t.word o.word = v ∧ t.land.watches = s.land.watches ∧
        ∃ f, t.faults = s.faults ++ [f] ∧ f.code = .illegalInstruction ∧ f.room = some o.room)

/-- R219, R220, R222, R223: a watch that reaches its word is registered and the word's watches evaluated, so that it wakes its slot at once when its
condition holds; on an ABANDONED word it wakes with status 2 and is not registered. -/
def Sys2Proof.Says.WatchReachesItsWord : Prop :=
  ∀ (s : State) (n : Nat) (o : SyncOp) (k : Fin 16) (cond thr : Nat), s.up = true → s.land.ops[n]? = some o → syncFirst s.land.ops n = true →
    syncEcc s o.word < 2 → o.act = .watch k cond thr →
    let v := s.word o.word
    let x : Watch := ⟨o.word, .room o.room k, cond, thr⟩
    ∃ t, exec (.syncOpApply n) s = .next (s.sealing (settleAll t)) ∧ t.land.ops = s.land.ops.eraseIdx n ∧ t.faults = s.faults ∧
      (∀ y, y ≠ o.word → t.word y = s.word y) ∧
      (wordAbandoned v = false → Evaluated { s with land := { s.land with watches := s.land.watches ++ [x] } } t o.word v) ∧
      (wordAbandoned v = true → t.word o.word = v ∧ t.land.watches = s.land.watches ∧
        ∃ y, (t.room o.room).slots.get k = .coming y 2)

/-- R221: a wake on its way reaches its slot, and the room's Steward goes on if it waits for it. -/
def Sys2Proof.Says.WakeReachesItsSlot : Prop :=
  ∀ (s : State) (r : RoomId) (k : Fin 16) (x : Word) (st : Nat), s.up = true → (s.room r).slots.get k = .coming x st →
    exec (.wakeArrival r k) s = .next (s.sealing (settle r (s.setSlot r k (.wake x st))))

/-! ## Sync words of the host -/

/-- R210: a write of LAND_BAR_PORCH toggles the Porch's sense bit on every channel whose bit is 1, and on no other. -/
def Sys2Proof.Says.PorchArrives : Prop :=
  ∀ (s : State) (c : Ctx) (v : Word), Serves s c Reg.landBarPorch true →
    ∃ t, exec (.landBarPorch c v) s = .next t ∧ t.resp = ⟨0, false⟩ ∧ t.rooms = s.rooms ∧ t.regs = s.regs ∧
      ∀ ch, t.bar ch = if v.getLsbD ch.val then
        { s.bar ch with porch := !(s.bar ch).porch, arrived := (s.bar ch).arrived || (s.bar ch).members.getLsbD 32 } else s.bar ch

/-- The host's operations on a word: the command, its register, and the operation of a value written (R214). -/
def Sys2Proof.Says.hostRows : List ((Ctx → Word → Instr) × Nat × (Word → SyncDo)) :=
  [(.landHSignal, Reg.landHSignal, fun _ => .signal),
   (.landHAdd, Reg.landHAdd, fun v => .add (signedOf (bitsOf v.toNat 10 22) 22)),
   (.landHSet, Reg.landHSet, fun v => .set (bitsOf v.toNat 10 22))]

/-- R214, R215, R220, R223: a host operation on a bound word changes it by its kind and evaluates its watches, and LAND_H_STATUS says how it ended:
0 applied, 1 not bound, 2 a kind error, 3 saturated, 4 dropped on an ABANDONED word. No other word changes. -/
def Sys2Proof.Says.HostOperationsAnswer : Prop :=
  ∀ row ∈ Says.hostRows, ∀ (s : State) (c : Ctx) (v : Word), Serves s c row.2.1 true →
    let h := bitsOf v.toNat 0 10
    (keyBad s c.val h = false → s.keyWord c.val h = none → ∃ t, exec (row.1 c v) s = .next t ∧ t.resp = ⟨0, false⟩ ∧
      t.fld (ctxKey c Reg.landHStatus) 0 3 = 1 ∧ t.land.words = s.land.words ∧ t.rooms = s.rooms ∧ t.faults = s.faults) ∧
    ∀ w, Bound s c.val h w →
      let x := s.word w
      let e := syncResult x (row.2.2 v)
      ∃ t, exec (row.1 c v) s = .next t ∧ t.resp = ⟨0, false⟩ ∧ t.dram = s.dram ∧ (∀ y, y ≠ w → t.word y = s.word y) ∧
        (¬ s.watched w → t.rooms = s.rooms) ∧
        (wordKind x ≠ 0 ∧ wordAbandoned x = true → t.word w = x ∧ t.land.watches = s.land.watches ∧
          t.fld (ctxKey c Reg.landHStatus) 0 3 = 4) ∧
        (wordAbandoned x = false →
          (e.2 = .done ∨ e.2 = .high ∨ e.2 = .low → Evaluated s t w e.1) ∧
          (e.2 = .done → t.fld (ctxKey c Reg.landHStatus) 0 3 = 0 ∧ t.faults = s.faults) ∧
          (e.2 = .kindError ∨ e.2 = .free → t.fld (ctxKey c Reg.landHStatus) 0 3 = 2 ∧ t.faults = s.faults ∧ t.word w = x ∧
            t.land.watches = s.land.watches) ∧
          (e.2 = .high ∨ e.2 = .low → t.fld (ctxKey c Reg.landHStatus) 0 3 = 3 ∧
            t.fld Reg.landSatEvents 0 32 = min (2 ^ 32 - 1) (s.fld Reg.landSatEvents 0 32 + 1)))

/-- R212, R213, R224: a bind of a handle that is not bound takes a free word, gives it its kind, owner and value, and answers 0; it answers 3 for a kind that is
reserved, 1 for a handle that is bound and 2 when no word is free, and then changes no word. An unbind frees the handle's word and its entry.
The order of the refusals is the model's reading (log entry 96). -/
def Sys2Proof.Says.HostBindsAndUnbinds : Prop :=
  ∀ (s : State) (c : Ctx) (v : Word), let h := bitsOf v.toNat 0 10
    let kind := bitsOf v.toNat 10 4
    let st := fun (t : State) => t.fld (ctxKey c Reg.landHBindStatus) 0 2
    (Serves s c Reg.landHBind true → ∃ t, exec (.landHBind c v) s = .next t ∧ t.resp = ⟨0, false⟩ ∧ t.rooms = s.rooms ∧
      (kind = 0 ∨ 3 < kind → st t = 3 ∧ t.land = s.land) ∧
      (1 ≤ kind → kind ≤ 3 → (s.keyWord c.val h).isSome = true → st t = 1 ∧ t.land = s.land) ∧
      (1 ≤ kind → kind ≤ 3 → s.keyWord c.val h = none → findWord s (bitsOf v.toNat 14 5) = none → st t = 2 ∧ t.land = s.land) ∧
      (∀ w, 1 ≤ kind → kind ≤ 3 → s.keyWord c.val h = none → findWord s (bitsOf v.toNat 14 5) = some w →
        st t = 0 ∧ t.keyWord c.val h = some w ∧ t.word w = mkWord kind c.val 0x7FFFF (s.reg (ctxKey c Reg.landHBindValue)).toNat ∧
        ∀ y, y ≠ w → t.word y = s.word y)) ∧
    (Serves s c Reg.landHUnbind true → ∃ t, exec (.landHUnbind c v) s = .next t ∧ t.resp = ⟨0, false⟩ ∧ t.keyWord c.val h = none ∧
      (s.keyWord c.val h = none → t.land = s.land ∧ t.rooms = s.rooms) ∧
      ∀ w, s.keyWord c.val h = some w → t.word w = 0 ∧ ¬ t.watched w ∧ ∀ y, y ≠ w → t.word y = s.word y)

/-- R218-R222: arming a host slot on a bound handle registers its watch, shows it armed and evaluates the word's watches, so that it wakes at once when its condition holds (R223: with status 2
on an ABANDONED word);
an armed slot, and a handle that is not bound, are refused. A cancel of an armed slot leaves it not armed with status 3 and its watch gone.
That a cancel is counted but not delivered is the model's reading (log entry 95). -/
def Sys2Proof.Says.HostSlotsArmAndCancel : Prop :=
  ∀ (s : State) (c : Ctx) (k : Fin 64) (v : Word), let off := Reg.landHWslotsCtl + 0x20 * k.val
    let ctl := wslotKey c k Reg.landHWslotsCtl
    let stat := wslotKey c k Reg.landHWslotsStatus
    let h := bitsOf v.toNat 0 10
    let cond := bitsOf v.toNat 10 2
    let thr := (s.reg (wslotKey c k Reg.landHWslotsThresh)).toNat
    Serves s c off true →
    (s.fld ctl 16 1 = 1 → ∃ t, exec (.landHWslotArm c k v) s = .next t ∧ t.resp = ⟨0, false⟩ ∧ t.rooms = s.rooms ∧ t.land = s.land ∧
      t.fld stat 2 1 = 1 ∧ t.fld ctl 16 1 = 1) ∧
    (s.fld ctl 16 1 = 0 → keyBad s c.val h = false → s.keyWord c.val h = none →
      ∃ t, exec (.landHWslotArm c k v) s = .next t ∧ t.resp = ⟨0, false⟩ ∧ t.rooms = s.rooms ∧ t.land.watches = s.land.watches ∧
        t.land.words = s.land.words ∧ t.fld stat 2 1 = 1 ∧ t.fld ctl 16 1 = 0) ∧
    (∀ w, s.fld ctl 16 1 = 0 → Bound s c.val h w → (∀ y ∈ s.land.watches, y.who ≠ .host c k) →
      let x : Watch := ⟨w, .host c k, cond, thr⟩
      ∃ t, exec (.landHWslotArm c k v) s = .next t ∧ t.resp = ⟨0, false⟩ ∧ t.fld ctl 0 16 = bitsOf v.toNat 0 16 ∧
        (∀ y, y ≠ w → t.word y = s.word y) ∧ (¬ s.watched w → t.rooms = s.rooms) ∧
        (wordAbandoned (s.word w) = false →
          Evaluated { s with land := { s.land with watches := s.land.watches ++ [x] } } t w (s.word w) ∧
          (x ∈ t.land.watches → t.fld ctl 16 1 = 1 ∧ t.fld stat 0 3 = 0) ∧ (x ∉ t.land.watches → t.fld ctl 16 1 = 0 ∧ t.fld stat 0 3 = 1)) ∧
        (wordAbandoned (s.word w) = true → t.word w = s.word w ∧ t.land.watches = s.land.watches ∧ t.fld ctl 16 1 = 0 ∧ t.fld stat 0 3 = 2)) ∧
    (∃ t, exec (.landHWslotCancel c k v) s = .next t ∧ t.resp = ⟨0, false⟩ ∧ t.rooms = s.rooms ∧ t.land.words = s.land.words ∧
      t.fld ctl 16 1 = 0 ∧ t.fld ctl 0 16 = bitsOf v.toNat 0 16 ∧
      (s.fld ctl 16 1 = 0 → t.land.watches = s.land.watches ∧ t.reg stat = s.reg stat) ∧
      (s.fld ctl 16 1 = 1 → t.fld stat 0 2 = 3 ∧ t.reg64 Reg.landWakes = (s.reg64 Reg.landWakes + 1) % 2 ^ 64 ∧
        t.land.watches = s.land.watches.filter (fun x => !(x.who == .host c k))))

/-! ## Threshold -/

/-- A Ledger entry without a word in error. -/
def Sys2Proof.Says.sound (s : State) (i : Nat) : Prop := ∀ e ∈ s.thr.ledgerEcc, e.1 / 32 ≠ i

/-- What THR_CMD_STATUS of a context shows of a command that has answered: done, its result and its index (R231). -/
def Sys2Proof.Says.answered (t : State) (c : Ctx) (result index : Nat) : Prop :=
  t.reg (ctxKey c Reg.thrCmdStatus) = BitVec.ofNat 32 (1 + 2 * result + 32 * (index % 4096)) ∧ t.thr.cmds.get c = none

/-- R228, R231, R233, R295: OPEN and RESTORE take a free entry for one stream of a job of the context when nothing refuses them: it is IDLE, with the job, the
class, the Attic record and the window length of the arguments, and a RESTORE goes on from the record's committed position. Which free entry it is is open.
The header of a stream whose job is not checkpointed names no image and position 0; that it is written by the OPEN is the model's choice (log entry 128).
What is reserved, and which free entry is taken, are the model's reading and choice (log entries 78, 106). -/
def Sys2Proof.Says.OpenTakesAFreeEntry : Prop :=
  ∀ row ∈ [(Instr.open_, false), (Instr.restore, true)], ∀ (s : State) (c : Ctx) (j : SlotId), Serves s c Reg.thrCmd true →
    s.thr.cmds.get c = none →
    let a := openArgs c s
    jobWith s c a.job = some j → openRefusal a row.2 (some j) s = none → a.duplex = false → (∀ i ∈ freeEntries s 1, Says.sound s i) →
    ∃ i t, exec (row.1 c) s = .next t ∧ i ∈ freeEntries s 1 ∧ Says.answered t c 0 i ∧ t.led i Led.state = Led.IDLE ∧ t.led i Led.ctx = c.val ∧
      t.led i Led.kind = a.cls % 4 + 4 * b2n (a.win != 0) ∧ t.led i Led.gen = (s.led i Led.gen + 1) % 2 ^ 16 ∧ t.led i Led.room = 0xFF ∧
      t.led i Led.attic = a.attic ∧ ((s.job j).desc.ckpt = false → t.dnum (t.atticKey i + 0xC) 1 = 0xFF ∧ t.dnum (t.atticKey i + 0x18) 8 = 0) ∧
      ((s.job j).desc.ckpt = true → t.hubWrites = s.hubWrites) ∧ t.led i Led.winLen = a.win ∧ t.led i Led.fed = t.led i Led.consumed ∧ (row.2 = false → t.led i Led.fed = 0) ∧
      (∀ k f, k ≠ i → f ∈ [Led.state, Led.kind, Led.job, Led.attic, Led.fed, Led.consumed] → t.led k f = s.led k f) ∧
      t.rooms = s.rooms ∧ t.jobs = s.jobs ∧ t.dram = s.dram

/-- R231: an OPEN or RESTORE that a check refuses answers with that check's result and leaves the Ledger as it is; so does a command with a reserved op, with
result 11. While the context's previous command has not answered, a command is discarded and shows result 1.
The order of the checks is the model's reading (log entry 78). -/
def Sys2Proof.Says.RefusedCommandsAnswer : Prop :=
  ∀ (s : State) (c : Ctx), Serves s c Reg.thrCmd true →
    (s.thr.cmds.get c = none → ∀ row ∈ [(Instr.open_, false), (Instr.restore, true)], ∀ code,
      openRefusal (openArgs c s) row.2 (jobWith s c (openArgs c s).job) s = some code →
      ∃ t, exec (row.1 c) s = .next t ∧ Says.answered t c code 0 ∧ t.thr.ledger = s.thr.ledger ∧ t.rooms = s.rooms) ∧
    (s.thr.cmds.get c = none → ∀ v : Word, (bitsOf v.toNat 0 4 = 0 ∨ 5 < bitsOf v.toNat 0 4) → ∃ t, exec (.thrCmdInvalidOp c v) s = .next t ∧
      Says.answered t c 11 0 ∧ t.thr.ledger = s.thr.ledger ∧ t.rooms = s.rooms) ∧
    ((s.thr.cmds.get c).isSome = true → ∀ i, ∀ cmd ∈ [Instr.open_ c, .restore c, .close c i, .park c i, .unpark c i],
      ∃ t, exec cmd s = .next t ∧ t.reg (ctxKey c Reg.thrCmdStatus) = 2 ∧ t.thr = s.thr ∧ t.cel = s.cel ∧ t.rooms = s.rooms)

/-- R229, R231, R249: CLOSE of an entry of the context's own frees it, and its partner with it, and answers 0; while a member is ACTIVE it answers 0 and leaves the
entries for the release. Of a FREE entry it answers 6, of another context's 7. -/
def Sys2Proof.Says.CloseFreesTheEntry : Prop :=
  ∀ (s : State) (c : Ctx) (x : BitVec 12), let i := x.toNat
    Serves s c Reg.thrCmd true → s.thr.cmds.get c = none → Says.sound s i →
    (s.led i Led.state = Led.FREE → ∃ t, exec (.close c x) s = .next t ∧ Says.answered t c 6 i ∧ t.thr.ledger = s.thr.ledger) ∧
    (s.led i Led.state ≠ Led.FREE → s.led i Led.ctx ≠ c.val → ∃ t, exec (.close c x) s = .next t ∧ Says.answered t c 7 i ∧ t.thr.ledger = s.thr.ledger) ∧
    (s.led i Led.state ≠ Led.FREE → s.led i Led.ctx = c.val →
      ((∀ y ∈ s.unit i, s.led y Led.state ≠ Led.ACTIVE) → ∃ t, exec (.close c x) s = .next t ∧ Says.answered t c 0 i ∧
        (∀ y ∈ s.unit i, t.led y Led.state = Led.FREE) ∧ t.rooms = s.rooms) ∧
      ((∃ y ∈ s.unit i, s.led y Led.state = Led.ACTIVE) → ∃ t, exec (.close c x) s = .next t ∧ Says.answered t c 0 i ∧
        (∀ y ∈ s.unit i, y ∈ t.thr.closing) ∧ t.thr.ledger = s.thr.ledger ∧ t.rooms = s.rooms))

/-- R231, R328: PARK of an IDLE stream and UNPARK of a PARKED one, of the context's own, are given to the Cellar, and the command has not answered; a stream in another
state answers 6.
That PARK of a stream that is not IDLE answers 6 is the model's reading (log entry 97). -/
def Sys2Proof.Says.ParkGoesToTheCellar : Prop :=
  ∀ row ∈ [(Instr.park, 3, Led.IDLE), (Instr.unpark, 4, Led.PARKED)], ∀ (s : State) (c : Ctx) (x : BitVec 12), let i := x.toNat
    Serves s c Reg.thrCmd true → s.thr.cmds.get c = none → Says.sound s i → s.led i Led.state ≠ Led.FREE → s.led i Led.ctx = c.val →
    ((∀ y ∈ s.unit i, s.led y Led.state = row.2.2) → ∃ u, exec (row.1 c x) s = .next (s.sealing (celGo u)) ∧ u.thr.cmds.get c = some ⟨row.2.1, i⟩ ∧
      u.reg (ctxKey c Reg.thrCmdStatus) = 0 ∧ u.cel = { s.cel with waiting := s.cel.waiting ++ [if row.2.1 = 3 then .park c i else .unpark c i] } ∧
      u.thr.ledger = s.thr.ledger ∧ u.rooms = s.rooms) ∧
    ((∃ y ∈ s.unit i, s.led y Led.state ≠ row.2.2) → ∃ t, exec (row.1 c x) s = .next t ∧ Says.answered t c 6 i ∧ t.thr.ledger = s.thr.ledger ∧ t.cel = s.cel)

/-- R234: THR_FEED_STATUS takes the first check that a feed fails. An accepted feed appends its positions and takes as many tokens; a refused one appends none, and but
for result 5 it counts.
The order of the first checks, and that a feed of nothing is accepted, are the model's reading (log entry 79). -/
def Sys2Proof.Says.FeedAppendsOrCounts : Prop :=
  ∀ (s : State) (c : Ctx) (v : Word) (host : HostBytes), let i := bitsOf v.toNat 0 12
    let n := bitsOf v.toNat 12 16
    let s0 := hostWrites host s
    let code := feedResult c i n s0
    let k := Reg.thrClasscShed + 0x10 * s0.classOf i
    Serves s c Reg.thrFeed true → Says.sound s i →
    ∃ t, exec (.thrFeed c v host) s = .next t ∧ t.resp = ⟨0, false⟩ ∧ t.dram = s.dram.putCells host ∧ t.rooms = s.rooms ∧ t.jobs = s.jobs ∧
      t.reg (ctxKey c Reg.thrFeedStatus) = BitVec.ofNat 32 code ∧ t.led i Led.consumed = s.led i Led.consumed ∧
      (code = 0 → t.led i Led.fed = (s.led i Led.fed + n) % 2 ^ 64 ∧
        t.thr.bucket.get (Fin.ofNat 4 (s.classOf i)) = s.thr.bucket.get (Fin.ofNat 4 (s.classOf i)) - 16 * n) ∧
      (code ≠ 0 → t.led i Led.fed = s.led i Led.fed ∧ t.thr.bucket = s.thr.bucket) ∧
      (code = 5 → t.thr = s.thr) ∧
      (code ≠ 0 → code ≠ 5 → t.led i Led.refused = min (2 ^ 32 - 1) (s.led i Led.refused + 1) ∧ t.fld k 0 32 = min (2 ^ 32 - 1) (s.fld k 0 32 + 1))

/-- R241, R242: every room named in THR_FENCE is fenced, or its fence is decided and waits for its job's step boundary; a room that holds a job is not fenced before
that. THR_UNFENCE begins the self-test of a fenced room that the Chimney does not hold and whose rails are on.
That a room with both kinds of fence waits for both to clear is the model's reading (log entry 104). -/
def Sys2Proof.Says.FenceAndUnfence : Prop :=
  ∀ (s : State) (c : Ctx) (v : Word),
    (Serves s c Reg.thrFence true → ∃ t, exec (.thrFence c v) s = .next t ∧ t.resp = ⟨0, false⟩ ∧ t.thr.faultFence = s.thr.faultFence ||| v ∧
      ∀ r : RoomId, (v.getLsbD r.val = true → (t.fenced ||| t.thr.fenceDue).getLsbD r.val = true) ∧
        ((s.room r).job.isSome = true → t.fenced.getLsbD r.val = s.fenced.getLsbD r.val)) ∧
    (Serves s c Reg.thrUnfence true → ∃ t, exec (.thrUnfence c v) s = .next t ∧ t.resp = ⟨0, false⟩ ∧ t.fenced = s.fenced ∧
      ∀ r : RoomId, v.getLsbD r.val = true → s.fenced.getLsbD r.val = true → t.thr.faultFence.getLsbD r.val = false ∧
        (s.chim.thermal.getLsbD r.val = false → (s.room r).power ≠ .off → t.thr.readmit.get r = .selfTest ∧ (t.room r).power = .on))

/-- R228, R230: a write of THR_LEDGER_SEL captures the entry that it names into the data registers. -/
def Sys2Proof.Says.LedgerEntryIsCaptured : Prop :=
  ∀ (s : State) (c : Ctx) (v : Word), let i := bitsOf v.toNat 0 12
    Serves s c Reg.thrLedgerSel true → Says.sound s i →
    ∃ t, exec (.thrLedgerSel c v) s = .next t ∧ t.resp = ⟨0, false⟩ ∧ t.reg Reg.thrLedgerSel = BitVec.ofNat 32 i ∧
      (∀ w, w < 64 → t.reg (Reg.thrLedgerDataw + 4 * w) = BitVec.ofNat 32 (s.thr.ledger.getN (256 * i + 4 * w) 4)) ∧ t.thr = s.thr ∧ t.rooms = s.rooms

/-- R23, R234, R236, R245, R372: Threshold's tick samples the system counter, whose Gray code it decodes; once ready it also counts a millisecond, refills every bucket up to its depth and decides shedding.
No stream's positions change.
The order of the tick's parts is the model's reading (log entry 107). -/
def Sys2Proof.Says.ThresholdTicks : Prop :=
  ∀ (s : State) (time : Word64), s.up = true →
    let p := s.pendingOf 1 + s.pendingOf 2 + s.pendingOf 3
    ∃ t, exec (.thresholdTick (time ^^^ (time >>> 1))) s = .next t ∧ t.reg64 Reg.thrTimebase = time.toNat ∧ t.thr.ledger = s.thr.ledger ∧ t.rooms = s.rooms ∧
      (s.ready = false → t.thr = s.thr) ∧
      (s.ready = true → t.thr.ms = s.thr.ms + 1 ∧
        (∀ c : Fin 4, t.thr.bucket.get c = min (bucketTop s c.val) (s.thr.bucket.get c + s.fld (Reg.thrClasscBucket + 0x10 * c.val) 0 16)) ∧
        t.thr.shedBulk = (shedStep (shedHold s) (s.fld Reg.thrShedBulk 0 16) (s.fld Reg.thrShedBulk 16 16) p s.thr.shedBulk s.thr.quietBulk s.thr.sinceBulk).1 ∧
        t.thr.shedBg = (shedStep (shedHold s) (s.fld Reg.thrShedBg 0 16) (s.fld Reg.thrShedBg 16 16) p s.thr.shedBg s.thr.quietBg s.thr.sinceBg).1 ∧
        t.fld Reg.thrStatus 0 1 = b2n t.thr.shedBulk ∧ t.fld Reg.thrStatus 1 1 = b2n t.thr.shedBg)

/-- R229, R245: when the counter has reached the end of a stream's next window plus the grace, the window is due, and an IDLE stream is READY; before that nothing
becomes due.
What a windowed stream's origin is, and what a due window does to its stream, are the model's reading (log entry 76). -/
def Sys2Proof.Says.WindowBecomesDue : Prop :=
  ∀ (s : State) (x : BitVec 12) (time : Word64), let i := x.toNat
    let at_ := winDueAt s i (s.led i Led.window + (s.dueOf i).length)
    s.up = true → s.windowed i = true → Led.IDLE ≤ s.led i Led.state → s.led i Led.state ≤ Led.ACTIVE → i ∉ s.thr.noOrigin → Says.sound s i →
    ∃ t, exec (.windowDue x (time ^^^ (time >>> 1))) s = .next t ∧ t.reg64 Reg.thrTimebase = time.toNat ∧ t.rooms = s.rooms ∧
      (time.toNat < at_ → t.thr = s.thr) ∧
      (at_ ≤ time.toNat → t.thr.due = s.thr.due ++ [⟨i, at_⟩] ∧ t.led i Led.state = max Led.READY (s.led i Led.state))

/-- R240: the copies that a job's next step waits for are made, and its Stewards start the step at their first instructions. Every state is read before any is
written, so that two streams may exchange their places.
Where a row's state lies, and when in the boundary the copies fall, are the model's choices (log entries 80, 85). -/
def Sys2Proof.Says.StatesAreCopied : Prop :=
  ∀ (s : State) (j : SlotId), s.up = true → (s.job j).waitCopy = true → faultsOf s j = [] → (∀ r, s.eccOf (some r) .chest = []) →
    let at_ := fun row => (Config.rowState row).1
    let put := fun (r q : RoomId) row row' =>
      (s.room q).chest.putBytes (at_ row') (fitting .chest (at_ row') ((s.room r).chest.bytes (at_ row) (Config.rowState row).2))
    ∃ t, exec (.stateMoveCopy j) s = .next (s.sealing (settleAll t)) ∧ (t.job j).copies = [] ∧ (t.job j).waitCopy = false ∧ (t.job j).inStep = true ∧
      (∀ r ∈ (s.job j).physical, (t.room r).stew.running = true ∧ (t.room r).stew.pc = (s.room r).stew.codeBase ∧ (t.room r).stew.waiting = .nothing ∧
        (t.room r).stepTime = 0) ∧
      (∀ r, (t.room r).shelf = (s.room r).shelf) ∧
      (∀ i r q row row', (s.job j).copies = [⟨i, r, row, q, row'⟩] → s.partner i = none → (t.room q).chest = put r q row row') ∧
      ∀ i k r q row row', (s.job j).copies = [⟨i, r, row, q, row'⟩, ⟨k, q, row', r, row⟩] → s.partner i = none → s.partner k = none → r ≠ q →
        (t.room q).chest = put r q row row' ∧ (t.room r).chest = put q r row' row

/-- R242: a room whose self-test passes, and that no fence holds, is in PORCH_ROOMS_OK and no longer fenced; one whose self-test fails is out of it, held by a fault fence
and out of re-admission. -/
def Sys2Proof.Says.SelfTestDecides : Prop :=
  ∀ (s : State) (r : RoomId), s.up = true → s.thr.readmit.get r = .selfTest → (s.room r).power = .on →
    (s.thr.faultFence.getLsbD r.val = false → s.chim.thermal.getLsbD r.val = false →
      ∃ t, exec (.readmitSelftestDone r true) s = .next t ∧ (t.reg Reg.porchRoomsOk).getLsbD r.val = true ∧ t.fenced.getLsbD r.val = false) ∧
    ∃ t, exec (.readmitSelftestDone r false) s = .next t ∧ (t.reg Reg.porchRoomsOk).getLsbD r.val = false ∧
      t.thr.faultFence.getLsbD r.val = true ∧ t.thr.readmit.get r = .no ∧ t.thr.joins.get r = none ∧
      (t.fenced ||| t.thr.fenceDue).getLsbD r.val = true

/-- R242: a room that is loaded for a job joins it as the lowest logical room that none stands for, and is out of re-admission; the next step of a running job then starts.
That a job between steps waits while its rooms are missing is the model's reading (log entry 85). -/
def Sys2Proof.Says.LoadedRoomJoins : Prop :=
  ∀ (s : State) (r : RoomId) (j : SlotId) (l : Nat), s.up = true → s.thr.readmit.get r = .load → s.thr.joins.get r = some j →
    (s.job j).rooms.findIdx? Option.isNone = some l →
    ∃ u, (exec (.readmitLoadDone r) s = if (s.job j).st = .running then .next (s.sealing (settleAll (proceed j u))) else .next (s.sealing u)) ∧
      (u.room r).job = some j ∧ (u.room r).logical = l ∧ (u.job j).rooms[l]? = some (some r) ∧ u.thr.readmit.get r = .no ∧ u.thr.joins.get r = none

/-- R171: with a slot of its class free, a spilled page of a live job's Larder is fetched back: it is resident in a slot off the free list, with the bytes that it had in DRAM
as the hub reads it.
Which of the free slots it takes is open. -/
def Sys2Proof.Says.SpilledPageReturns : Prop :=
  ∀ (s : State) (j : SlotId) (p n : Nat), s.up = true → (s.job j).st.live = true → (s.job j).desc.larder ≠ 0 →
    let h := larderHdr s (s.job j).desc.larder
    let e := pageEntry s h p
    pageClass s h p = some n → e.state = 3 → s.freeSlots h.addr n ≠ [] →
    ∃ (a : Nat) (u : State), a ∈ s.freeSlots h.addr n ∧ u.freeSlots h.addr n = (s.freeSlots h.addr n).erase a ∧
      u.dbytes a (larderClass s h n).2.2 = s.dbytes e.addr (larderClass s h n).2.2 ∧ u.dram = s.dram ∧ u.rooms = s.rooms ∧ u.thr.ledger = s.thr.ledger ∧
      exec (.spillPrefetch j p) s = .next (s.sealing (addHeld e.owner true (setPageEntry h p { e with addr := a, state := 1 } u)))

/-! ## The Porch -/

/-- What a doorbell and an answer leave of a queue's registers: its entries are those of R281. -/
def Sys2Proof.Says.qk (q : Fin 16) (off : Nat) : Nat := off + 0x40 * q.val

/-- R281, R283: a doorbell moves the queue's producer; one that passes the ring's size stops the queue and raises source 23. -/
def Sys2Proof.Says.DoorbellMovesTheTail : Prop :=
  ∀ (s : State) (c : Ctx) (q : Fin 16) (v : Word) (host : HostBytes), Serves s c (Says.qk q Reg.porchQqTail) true →
    let s1 := (respond 0 (hostWrites host s)).setFld (Says.qk q Reg.porchQqTail) 0 16 (bitsOf v.toNat 0 16)
    (qWaiting s1 q ≤ qSize s1 q → exec (.doorbell c q v host) s = .next s1) ∧
    (qSize s1 q < qWaiting s1 q → exec (.doorbell c q v host) s = .next (raiseSource 23 (s1.setFld (Says.qk q Reg.porchQqCfg) 11 1 1))) ∧
    s1.fld (Says.qk q Reg.porchQqTail) 0 16 = bitsOf v.toNat 0 16 ∧ s1.dram = s.dram.putCells host ∧
    (∀ k, k ≠ Says.qk q Reg.porchQqTail → s1.reg k = s.reg k)

/-- The Porch has taken the entry at a queue's head and has answered it with one completion entry (R283-R285). -/
structure Sys2Proof.Says.Answered (s t : State) (q : Fin 16) (x : Compl) : Prop where
  head : t.fld (Says.qk q Reg.porchQqHead) 0 16 = (s.fld (Says.qk q Reg.porchQqHead) 0 16 + 1) % 2 ^ 16
  tail : t.fld (Says.qk q Reg.porchQqCtail) 0 16 = (s.fld (Says.qk q Reg.porchQqCtail) 0 16 + 1) % 2 ^ 16
  queue : (t.porch.queues.get q).awaits = none ∧ (t.porch.queues.get q).held = []
  last : t.porch.last = q
  jobs : t.jobs = s.jobs
  rooms : t.rooms = s.rooms
  entry : s.fld (Says.qk q Reg.porchQqCfg) 10 1 = 0 →
    let n := s.fld (Says.qk q Reg.porchQqCtail) 0 16
    t.dram = s.dram ∧ t.dbytes (ctxBase (qOwner s q) + (s.reg64 (Says.qk q Reg.porchQqCbase) % 2 ^ 48 + 32 * (n % qSize s q))) 32 =
      x.bytes (1 - n / qSize s q % 2)

/-- The answer to an entry that leaves its job as it is: it tells the job's number, restarts and last fault (R284). -/
def Sys2Proof.Says.ofJob (b : Job) (tag result : Nat) : Compl :=
  { tag := tag, number := b.number, result := result, fault := b.lastFault, restarts := b.restarts, flog := b.lastLog, step := b.faultHigh.getD b.highest }

/-- R284, R287: an entry with a reserved op or field, one that names no job of its queue and one whose job is in a state that its op does not take are answered with result
0x20; a SUBMIT or RESUME whose images do not check with 0x10, and one that a later check refuses with that check's result. No job and no room changes. Until every port has a
read-request credit no entry is read and nothing happens (R364, R378; the model's choice, log entry 119).
Which entries are bad is the model's reading (log entry 83). -/
def Sys2Proof.Says.BadEntriesAreAnswered : Prop :=
  ∀ (s : State) (q : Fin 16), s.up = true → nextQueue s = some q →
    let e := headEntry s q
    let say (cmd : Instr) (x : Compl) : Prop := ∃ t, exec cmd s = .next t ∧ Says.Answered s t q x
    let none_ (result : Nat) : Compl := { tag := e.tag, number := noNumber, result := result }
    (s.canRead = false → exec .submit s = .next s ∧ exec .end_ s = .next s ∧ exec .preempt s = .next s ∧ exec .resume s = .next s) ∧
    (s.canRead = true →
      (e.op = 0 ∨ 5 < e.op ∨ (e.op = 1 ∧ e.bad = true) → say .submit (none_ 0x20)) ∧
      (e.op = 1 → e.bad = false → imagesOk s e.addr = false → say .submit (none_ 0x10)) ∧
      (e.op = 1 → e.bad = false → imagesOk s e.addr = true → ∀ res, let d := jobDesc s e.addr
        jobRefusal s q d (schedOf s d.sched) (currentReserves s) noNumber ((List.finRange 8).any (fun j => (s.job j).st == .free)) = some res →
        say .submit (none_ res)) ∧
      (∀ row ∈ [(Instr.end_, 2, fun x => x == JobState.running || x == .restarting), (.preempt, 4, fun x => x == .running || x == .restarting),
          (.resume, 5, fun x => x == .preempted)], e.op = row.2.1 →
        (e.bad = true ∨ entryJob s q e = none → say row.1 (none_ 0x20)) ∧
        ∀ j, e.bad = false → entryJob s q e = some j → row.2.2 (s.job j).st = false → say row.1 (Says.ofJob (s.job j) e.tag 0x20)) ∧
      ∀ j, e.op = 5 → e.bad = false → entryJob s q e = some j → (s.job j).st = .preempted →
        (imagesOk s (s.job j).desc.addr = false → say .resume (Says.ofJob (s.job j) e.tag 0x10)) ∧
        ∀ res, let d := jobDesc s (s.job j).desc.addr
          imagesOk s (s.job j).desc.addr = true → jobRefusal s q d (schedOf s d.sched) (s.job j).reserves (s.job j).number true = some res →
          say .resume (Says.ofJob (s.job j) e.tag res))

/-- R286-R288: a SUBMIT that passes every check gives a free slot a job of the entry's tag, the queue and the descriptor's context, with a number that no job holds; it is LOADING,
and each of its logical rooms has a free room of its own. Which slot and which rooms is open. -/
def Sys2Proof.Says.SubmitAdmitsAJob : Prop :=
  ∀ (s : State) (q : Fin 16), s.up = true → s.canRead = true → nextQueue s = some q →
    let e := headEntry s q
    let d := jobDesc s e.addr
    e.op = 1 → e.bad = false → imagesOk s e.addr = true →
    jobRefusal s q d (schedOf s d.sched) (currentReserves s) noNumber ((List.finRange 8).any (fun j => (s.job j).st == .free)) = none →
    ∃ j t, exec .submit s = .next t ∧ (s.job j).st = .free ∧ (t.job j).st = .loading ∧ (t.job j).queue = q ∧ (t.job j).tag = e.tag ∧
      (t.job j).number = nextNumber s 10 ∧ (t.job j).ctx = Fin.ofNat 32 d.ctx ∧ (t.job j).desc = d ∧ (∀ k, k ≠ j → t.job k = s.job k) ∧
      t.fld (Says.qk q Reg.porchQqHead) 0 16 = (s.fld (Says.qk q Reg.porchQqHead) 0 16 + 1) % 2 ^ 16 ∧ t.dram = s.dram ∧
      (t.porch.queues.get q).awaits = some (.job j false) ∧
      ∀ l, l < d.rooms → ∃ r, r ∈ freeRooms s ∧ (t.job j).rooms[l]? = some (some r) ∧ (t.room r).job = some j ∧ (t.room r).logical = l

/-- R288, R289: END and PREEMPT of a job that runs are noted for its present step, and take effect there; during a restart for the step that the replay has still to pass.
The states that take the op are the model's reading (log entry 83). -/
def Sys2Proof.Says.EndAndPreemptAreNoted : Prop :=
  ∀ row ∈ [(Instr.end_, 2, false), (.preempt, 4, true)], ∀ (s : State) (q : Fin 16) (j : SlotId), s.up = true → s.canRead = true → nextQueue s = some q →
    let e := headEntry s q
    e.op = row.2.1 → e.bad = false → entryJob s q e = some j → (s.job j).st = .running ∨ (s.job j).st = .restarting →
    ∃ t, exec row.1 s = .next t ∧
      t.job j = { s.job j with endReq := some ⟨row.2.2, e.tag, if (s.job j).st = .restarting then max (s.job j).step (s.job j).replayTo else (s.job j).step⟩ } ∧
      (∀ k, k ≠ j → t.job k = s.job k) ∧ t.rooms = s.rooms ∧ t.dram = s.dram ∧
      t.fld (Says.qk q Reg.porchQqHead) 0 16 = (s.fld (Says.qk q Reg.porchQqHead) 0 16 + 1) % 2 ^ 16

/-- R288, R289: ABORT ends a job at once, whatever its state: its slot is free, and its rooms hold no job. -/
def Sys2Proof.Says.AbortFreesTheSlot : Prop :=
  ∀ (s : State) (q : Fin 16) (j : SlotId), s.up = true → s.canRead = true → nextQueue s = some q →
    let e := headEntry s q
    e.op = 3 → e.bad = false → entryJob s q e = some j →
    ∃ t, exec .abort s = .next (s.sealing (settleAll t)) ∧ (t.job j).st = .free ∧
      ∀ r ∈ (s.job j).physical, (t.room r).job = none ∧ (t.room r).stew.running = false

/-- R288: RESUME of a PREEMPTED job that passes the checks loads it again, with its number and its streams.
What the resumed job runs with is the model's reading (log entry 83). -/
def Sys2Proof.Says.ResumeLoadsAgain : Prop :=
  ∀ (s : State) (q : Fin 16) (j : SlotId), s.up = true → s.canRead = true → nextQueue s = some q →
    let e := headEntry s q
    let b := s.job j
    let d := jobDesc s b.desc.addr
    e.op = 5 → e.bad = false → entryJob s q e = some j → b.st = .preempted → imagesOk s b.desc.addr = true →
    jobRefusal s q d (schedOf s d.sched) b.reserves b.number true = none →
    ∃ t, exec .resume s = .next t ∧ (t.job j).st = .loading ∧ (t.job j).number = b.number ∧ (t.job j).tag = e.tag ∧ (t.job j).next = b.next ∧
      (∀ k, k ≠ j → t.job k = s.job k) ∧ t.dram = s.dram ∧ t.thr.ledger = s.thr.ledger ∧
      t.fld (Says.qk q Reg.porchQqHead) 0 16 = (s.fld (Says.qk q Reg.porchQqHead) 0 16 + 1) % 2 ^ 16

/-- R257, R288, R293: when the rooms of a LOADING job are loaded, or stages 4 to 6 of a restart are done, the job is RUNNING at its next step, each of its channels is at a new start,
the completion is ADMITTED or RESTARTED, and the step proceeds; PORCH_JOBj_RESTART_US takes the restart's time. With a room not ON or a fault of the job waiting nothing happens. -/
def Sys2Proof.Says.LoadedJobRuns : Prop :=
  ∀ (s : State) (j : SlotId) (us : BitVec 16), s.up = true →
    (canLoad s j = false → exec (.jobLoaded j) s = .next s ∧ exec (.restartComplete j us) s = .next s) ∧
    ((s.job j).st = .loading → canLoad s j = true → let s1 := loadJob j (decide (0 < (s.job j).next)) s
      faultsOf s1 j = [] → ∃ u, exec (.jobLoaded j) s = .next (s.sealing (settleAll (jobCompl j 0x00 (s1.job j).tag (proceed j u)))) ∧
        (u.job j).st = .running ∧ (u.job j).step = (s1.job j).next ∧ (u.job j).inStep = false ∧ ∀ ch ∈ (s1.job j).chans, (u.bar ch).arrived = false) ∧
    ((s.job j).st = .restarting → canLoad s j = true → let s1 := loadJob j true s
      faultsOf s1 j = [] → ∃ u, exec (.restartComplete j us) s = .next (s.sealing (settleAll (jobCompl j 0x04 (s1.job j).tag (proceed j u)))) ∧
        (u.job j).st = .running ∧ (u.job j).step = (s1.job j).next ∧ (u.job j).inStep = false ∧
        u.fld (Reg.porchJobjRestartUs + 0x40 * j.val) 0 16 = us.toNat)

/-- R290-R293, R299: a fault of a live job, the only one waiting, is recorded in the log under the next number and stops the job; the job restarts, unless one more restart would pass its limit: then it
leaves its slot with result 0x03. -/
def Sys2Proof.Says.FaultRestartsTheJob : Prop :=
  ∀ (s : State) (j : SlotId) (tied : Nat) (e : FaultEvent), s.up = true → s.faults = [e] → e.slot = some j → (s.job j).st.live = true →
    e.code ≠ .sramUncorrectable →
    ∃ u, u.faults = [] ∧ u.reg Reg.porchFlogHead = s.reg Reg.porchFlogHead + 1 ∧ (u.job j).lastFault = e.code.toNat ∧
      (u.job j).lastLog = (s.reg Reg.porchFlogHead).toNat ∧ u.rooms = s.rooms ∧ u.thr.ledger = s.thr.ledger ∧
      let v := stopJob j u
      (recoveryEnds v j = false → exec (.jobFault j tied) s = .next (s.sealing (settleAll (beginRestart j v))) ∧ ((beginRestart j v).job j).st = .restarting) ∧
      (recoveryEnds v j = true → exec (.jobFault j tied) s = .next (s.sealing (settleAll (raiseSource 17 (leaveSlot j 0x03 (v.job j).tag v)))) ∧
        ((leaveSlot j 0x03 (v.job j).tag v).job j).st = .free)

/-- R241, R293: a restart that is held for want of a room takes a free one, which goes to its self-test first; with none free nothing happens. -/
def Sys2Proof.Says.HeldRestartTakesARoom : Prop :=
  ∀ (s : State) (j : SlotId), s.up = true → (s.job j).st = .restarting → (s.job j).noRoom = true →
    (freeRooms s = [] → exec (.restartResume j) s = .next s) ∧
    (freeRooms s ≠ [] → 0 < lacking s j → ∃ t r, exec (.restartResume j) s = .next t ∧ r ∈ freeRooms s ∧ t.thr.joins.get r = some j ∧
      t.thr.readmit.get r = .selfTest ∧ t.rooms = s.rooms ∧ (lacking s j = 1 → (t.job j).noRoom = false))

/-- R280, R281, R285: PORCH_Qq_CFG takes its size only while the queue is disabled and its owner only from context 0; a write of 1 clears its stop. A write of PORCH_Qq_CHEAD moves the consumer, and a held
completion follows into the ring when there is room.
That the owner's writes leave the owner field is the model's reading (log entry 13). -/
def Sys2Proof.Says.QueueRegistersAreWritten : Prop :=
  ∀ (s : State) (c : Ctx) (q : Fin 16) (v : Word), let k := Says.qk q Reg.porchQqCfg
    let h := Says.qk q Reg.porchQqChead
    (Serves s c k true → ∃ t, exec (.porchQCfgWrite c q v) s = .next t ∧ t.resp = ⟨0, false⟩ ∧
      t.fld k 0 4 = (if s.fld k 9 1 = 0 then bitsOf v.toNat 0 4 else s.fld k 0 4) ∧
      t.fld k 4 5 = (if c.val = 0 then bitsOf v.toNat 4 5 else s.fld k 4 5) ∧ t.fld k 9 2 = bitsOf v.toNat 9 2 ∧
      t.fld k 11 1 = (if bitAt v.toNat 11 then 0 else s.fld k 11 1) ∧ (∀ i, i ≠ k → t.reg i = s.reg i) ∧ t.rooms = s.rooms ∧ t.porch = s.porch) ∧
    (Serves s c h true →
      let s1 := (respond 0 s).setFld h 0 16 (bitsOf v.toNat 0 16)
      ((s.porch.queues.get q).held = [] ∨ qRoom s1 q = false → exec (.porchQCheadWrite c q v) s = .next s1) ∧
      ∀ x, (s.porch.queues.get q).held = [x] → qRoom s1 q = true →
        exec (.porchQCheadWrite c q v) s = .next (writeCompl q x (s1.modPorchQ q (fun y => { y with held := [] }))))

/-- R225, R301: a write of PORCH_CTX_RESET with its start bit aborts the context's jobs, frees its words, its Ledger entries and its Keyring bindings, and drops its command of
Threshold's; every queue that it owns is empty, its entries discarded without completions. Without the bit it only names the context. That all of this is done before the
next command is the model's choice (log entry 88). -/
def Sys2Proof.Says.ContextIsReset : Prop :=
  ∀ (s : State) (c : Ctx) (v : Word), let x : Ctx := Fin.ofNat 32 (bitsOf v.toNat 0 5)
    Serves s c Reg.porchCtxReset true →
    (v.getLsbD 5 = false → ∃ t, exec (.porchCtxReset c v) s = .next t ∧ t.fld Reg.porchCtxReset 0 5 = bitsOf v.toNat 0 5 ∧ t.land = s.land ∧ t.jobs = s.jobs ∧
      t.rooms = s.rooms) ∧
    (v.getLsbD 5 = true → ∃ t, exec (.porchCtxReset c v) s = .next (s.sealing (settleAll t)) ∧
      (∀ j, (s.job j).st ≠ .free → (s.job j).ctx = x → (t.job j).st = .free ∧ ∀ r ∈ (s.job j).physical, (t.room r).job = none) ∧
      (∀ j, (s.job j).ctx ≠ x → (t.job j).st = (s.job j).st) ∧
      (∀ i, i < ledgerSize → s.led i Led.ctx = x.val → t.led i Led.state = Led.FREE) ∧
      (∀ q, qOwner s q = x.val → t.fld (Says.qk q Reg.porchQqHead) 0 16 = s.fld (Says.qk q Reg.porchQqTail) 0 16 ∧
        t.fld (Says.qk q Reg.porchQqCtail) 0 16 = s.fld (Says.qk q Reg.porchQqChead) 0 16 ∧ t.porch.queues.get q = {}) ∧
      (∀ h, h < 1024 → t.keyWord x.val h = none) ∧ (∀ w, wordKind (s.word w) ≠ 0 → wordCtx (s.word w) = x.val → t.word w = 0) ∧
      (s.land.ops = [] → ∀ w, wordCtx (s.word w) ≠ x.val → t.word w = s.word w) ∧
      t.thr.cmds.get x = none ∧ ∀ i, CelTask.park x i ∉ t.cel.waiting ∧ CelTask.unpark x i ∉ t.cel.waiting)

/-- R302, R303: a write of PORCH_IRQv_STATUS clears the causes whose bits are 1; in wire mode the vector's level follows, and in message mode the message is
written again while a cause that is not masked remains. -/
def Sys2Proof.Says.InterruptCausesAreCleared : Prop :=
  ∀ (s : State) (c : Ctx) (k : Fin 8) (v : Word), let off := Reg.porchIrqvStatus + 0x20 * k.val
    Serves s c off true → ∃ t, exec (.porchIrqStatusWrite c k v) s = .next t ∧ t.resp = ⟨0, false⟩ ∧
      t.reg off = s.reg off &&& ~~~(v &&& 0xFFFFFF) ∧ (∀ i, i ≠ off → t.reg i = s.reg i) ∧ t.rooms = s.rooms ∧
      let left := s.reg off &&& ~~~(v &&& 0xFFFFFF) &&& s.reg (Reg.porchIrqvEnable + 0x20 * k.val)
      let cfg := Reg.porchIrqvCfg + 0x20 * k.val
      (s.fld cfg 0 1 = 0 → t.hubWrites = s.hubWrites ∧ t.irqWire k.val = (left != 0)) ∧
      (s.fld cfg 0 1 = 1 → left = 0 → t.hubWrites = s.hubWrites) ∧
      (s.fld cfg 0 1 = 1 → left ≠ 0 →
        t.dbytes (ctxBase (s.fld cfg 1 5) + s.reg64 (Reg.porchIrqvAddr + 0x20 * k.val) % 2 ^ 48 / 4 * 4) 4 =
          bytesOfNat 4 (s.reg (Reg.porchIrqvData + 0x20 * k.val)).toNat)

/-! ## The Cellar -/

/-- The part answers, and the Cellar has nothing under way. -/
structure Sys2Proof.Says.CellarFree (s : State) : Prop where
  part : s.fld Reg.celStatus 0 1 = 1
  active : s.cel.active = none
  waiting : s.cel.waiting = []
  steps : s.cel.steps = []
  todo : s.cel.todo = []
  issued : s.cel.issued = false

/-- An argument of a Cellar command. -/
def Sys2Proof.Says.arg (s : State) (n : Nat) : Nat := (s.reg (Reg.celCmdArga + 4 * n)).toNat

/-- The buffer of a Cellar command. -/
def Sys2Proof.Says.buf (s : State) : Nat := s.reg64 Reg.celBuf % 2 ^ 48 / 64 * 64

/-- A Cellar command has answered at once, with nothing on the part changed. -/
def Sys2Proof.Says.cellarSays (cmd : Instr) (s : State) (dram : Memory) (result : Nat) : Prop :=
  ∃ t, exec cmd s = .next t ∧ t.reg Reg.celCmdStatus = BitVec.ofNat 32 (1 + 2 * result) ∧ t.cel.flash = s.cel.flash ∧ t.cel.steps = [] ∧
    t.cel.active = none ∧ t.rooms = s.rooms ∧ t.dram = dram

/-- R324: while a command has not answered, another one is not taken: CEL_CMD_STATUS shows Busy. -/
def Sys2Proof.Says.BusyCellarTakesNoCommand : Prop :=
  ∀ (s : State) (c : Ctx) (host : HostBytes) (op a b x y : Nat), Serves s c Reg.celCmd true → s.cel.active = some (.cmd op a b x y) →
    ∀ cmd ∈ [Instr.eraseSlot c, .writeSlot c host, .swap c, .writeCal c host, .mount c, .list c, .recall c, .release c, .readRaw c],
      ∃ t, exec cmd s = .next t ∧ t.reg Reg.celCmdStatus = 2 ∧ t.cel = s.cel ∧ t.rooms = s.rooms ∧ (∀ k, k ≠ Reg.celCmdStatus → t.reg k = s.reg k)

/-- R324, R329: the results that a free Cellar gives at once: 8 for an argument that is out of range, 3 for the slot that booted or that the pointer names, 4 for a slot whose image does not check, 2 before a mount,
5 for an anchor that is not live, 9 for a table that is too small. A command that reads DRAM waits for the ports' initial credits (the model's choice, log entry 119).
The results of commands that R324 does not list are the model's choice (log entry 100). -/
def Sys2Proof.Says.CellarRefusesAtOnce : Prop :=
  ∀ (s : State) (c : Ctx) (host : HostBytes), Serves s c Reg.celCmd true → Says.CellarFree s →
    let a0 := Says.arg s 0
    let a1 := Says.arg s 1
    let id := a0 + 2 ^ 32 * a1
    let d := s.dram.putCells host
    (1 < a0 → Says.cellarSays (.eraseSlot c) s s.dram 8 ∧ Says.cellarSays (.swap c) s s.dram 8) ∧
    (a0 ≤ 1 → slotInUse s a0 = true → Says.cellarSays (.eraseSlot c) s s.dram 3 ∧ Says.cellarSays (.swap c) s s.dram 3) ∧
    (a0 ≤ 1 → slotInUse s a0 = false → (checkSlot a0 (readPointer s).2).1 = false → Says.cellarSays (.swap c) s s.dram 4) ∧
    (s.canRead = true → 1 < a0 ∨ a1 < 32 ∨ 1024 * sectorWords * 32 < a1 → Says.cellarSays (.writeSlot c host) s d 8) ∧
    (s.canRead = true → a0 ≤ 1 → 32 ≤ a1 → a1 ≤ 1024 * sectorWords * 32 → slotInUse s a0 = true → Says.cellarSays (.writeSlot c host) s d 3) ∧
    (s.canRead = true → a1 < 32 ∨ 64 * sectorWords * 32 < a1 → Says.cellarSays (.writeCal c host) s d 8) ∧
    (a1 < 16 * s.sectors + 0x20000 → Says.cellarSays (.mount c) s s.dram 9) ∧
    (s.mounted = false → Says.cellarSays (.list c) s s.dram 2 ∧ Says.cellarSays (.recall c) s s.dram 2 ∧ Says.cellarSays (.release c) s s.dram 2) ∧
    (s.mounted = true → liveAnchor s id = none → Says.cellarSays (.recall c) s s.dram 5 ∧ Says.cellarSays (.release c) s s.dram 5) ∧
    (s.sectors ≤ a0 → Says.cellarSays (.readRaw c) s s.dram 8)

/-- R311, R322-R324: ERASE_SLOT of a slot not in use erases and formats its sectors one after another, WRITE_SLOT programs the image from DRAM into the slot's words, SWAP programs a pointer record with the next
sequence into the next blank word of the pointer's sector, and WRITE_CAL begins with the copy that is not in use. None has answered yet. -/
def Sys2Proof.Says.SlotCommandsBegin : Prop :=
  ∀ (s : State) (c : Ctx) (host : HostBytes), Serves s c Reg.celCmd true → Says.CellarFree s →
    let a0 := Says.arg s 0
    let a1 := Says.arg s 1
    let d := s.dram.putCells host
    let begins (cmd : Instr) (dram : Memory) (p : List CelStep → Prop) : Prop :=
      ∃ t, exec cmd s = .next t ∧ t.reg Reg.celCmdStatus = 0 ∧ t.cel.flash = s.cel.flash ∧ t.cel.issued = true ∧ t.dram = dram ∧ p t.cel.steps
    (a0 ≤ 1 → slotInUse s a0 = false → begins (.eraseSlot c) s.dram (· = formatSteps s (slotBase a0) 1024 2 a0 ++ [.answer 0])) ∧
    (s.canRead = true → a0 ≤ 1 → slotInUse s a0 = false → 32 ≤ a1 → a1 ≤ 1024 * sectorWords * 32 → wordBlank s.cel.flash (slotBase a0) 0 = true →
      let w := (hostWrites host s).dbytes (Says.buf s) 32
      let at_ := wordAt (slotBase a0) 0
      begins (.writeSlot c host) d (fun l => ∃ rest, l = .prog at_ w :: .prog (parityAt (slotBase a0) 0) (wordParity at_ w) ::
        .readBack (slotBase a0) 0 :: rest)) ∧
    (∀ sec seq slot w, let checked := checkSlot a0 (readPointer s).2
      a0 ≤ 1 → slotInUse s a0 = false → checked.1 = true → (readPointer checked.2).1 = some (sec, seq, slot) →
      (List.range sectorWords).find? (wordBlank s.cel.flash sec) = some w →
      let b := pointerRecord (seq + 1) a0
      begins (.swap c) s.dram (· = [.prog (wordAt sec w) b, .prog (parityAt sec w) (wordParity (wordAt sec w) b), .pointed sec w b, .answer 0])) ∧
    (s.canRead = true → 32 ≤ a1 → a1 ≤ 64 * sectorWords * 32 →
      let first := match s.cel.cal with | some x => 1 - x | none => 0
      begins (.writeCal c host) d (fun l => ∃ n rest, l = .erase (calBase first) n :: rest))

/-- R324, R326, R329: MOUNT reads the journal and answers 0, and the Keepsake is mounted; LIST writes a row for each live anchor; RECALL writes the Attic record of an anchor whose words all read; RELEASE programs a
tombstone into the journal's next word; READ_RAW copies a sector as it is. None changes the part before its programs complete.
The layouts of the mount table and of LIST, and what R324 to R334 leave open of the commands, are the model's choices (log entries 100, 101). -/
def Sys2Proof.Says.JournalCommandsRun : Prop :=
  ∀ (s : State) (c : Ctx), Serves s c Reg.celCmd true → Says.CellarFree s →
    let a0 := Says.arg s 0
    let id := a0 + 2 ^ 32 * Says.arg s 1
    let b := Says.buf s
    (16 * s.sectors + 0x20000 ≤ Says.arg s 1 → ∃ t, exec (.mount c) s = .next t ∧ t.reg Reg.celCmdStatus = 1 ∧ t.mounted = true ∧
      t.cel.flash = s.cel.flash) ∧
    (s.mounted = true → 16 * s.cel.recs.length ≤ 2 ^ 48 → ∃ t, exec (.list c) s = .next t ∧ t.reg Reg.celCmdStatus = 1 ∧ t.cel.flash = s.cel.flash ∧
      t.dram = s.dram ∧ ∀ k r, (s.cel.recs.filter (fun r => r.type == 0x12))[k]? = some r →
        t.dbytes (b + 16 * k) 16 = bytesOfNat 16 (Config.listEntry r.id r.index r.arg r.time)) ∧
    (∀ r (ds : List (List Byte)), s.mounted = true → liveAnchor s id = some r →
      r.dataPlaces.map (fun p => (placeRead s.cel.flash p.1 p.2).data?) = ds.map some → crc32c ds.flatten = r.crc →
      ∃ t, exec (.recall c) s = .next t ∧ t.reg Reg.celCmdStatus = 1 ∧ t.cel.flash = s.cel.flash ∧
        t.dram = s.dram ∧ t.hubWrites = (writeAttic b r.index (ds.flatten.take r.arg) s).hubWrites) ∧
    (∀ sec w, s.mounted = true → (liveAnchor s id).isSome = true → s.cel.jpos = some (sec, w) → w < sectorWords → wordBlank s.cel.flash sec w = true →
      let x := tombWord id s.cel.nextSeq
      ∃ t, exec (.release c) s = .next t ∧ t.reg Reg.celCmdStatus = 0 ∧ t.cel.flash = s.cel.flash ∧ t.cel.issued = true ∧
        t.cel.steps = [.prog (wordAt sec w) x, .prog (parityAt sec w) (wordParity (wordAt sec w) x), .verify sec w x, .tomb id, .answer 0]) ∧
    (a0 < s.sectors → ∃ t, exec (.readRaw c) s = .next t ∧ t.reg Reg.celCmdStatus = 1 ∧
      t.dram = s.dram ∧ t.dbytes b sectorBytes = flashBytes s.cel.flash (sectorBytes * a0) sectorBytes ∧ t.cel.flash = s.cel.flash)

/-- R313-R315, R318, R331, R333: a completed erase leaves its sector erased, and its health record is programmed next; a failed one leaves some of its bits. A completed program clears the bits that its bytes clear; a failed one
some of them. Then the Cellar goes on. A suspended erase is under way again once it resumes.
What a failed program leaves in the part is a free value, the model's choice (log entry 102). -/
def Sys2Proof.Says.PartCompletes : Prop :=
  ∀ (s : State), s.up = true →
    (∀ sec count rest (us : Word) (ok : Bool), s.cel.issued = true → s.cel.suspended = false → s.cel.steps = .erase sec count :: rest →
      let st := s.statOf sec
      let watch := decide (st.worst = 2) || decide (s.fld Reg.celTimes 16 16 * 1000 * s.fld Reg.celHealthCfg 0 4 < us.toNat)
      ∃ u, exec (.eraseComplete us ok) s = .next (s.sealing (celGo u)) ∧ u.cel.issued = false ∧ u.dram = s.dram ∧ (sec ∈ u.cel.watch ↔ watch = true) ∧
        (ok = true → u.cel.flash = flashErase s.cel.flash sec ∧
          u.cel.steps = .prog (sectorBytes * sec) (healthRecord sec count us.toNat st.worst watch st.skips) :: .readBack sec sectorWords :: rest) ∧
        (ok = false → u.cel.flash = flashHalfErase s.cel.flash (Config.tornBits s.free) sec ∧ u.cel.steps = rest.filter (fun x => x != .erased sec))) ∧
    (∀ a bs rest (ok : Bool), s.cel.issued = true → s.cel.steps = .prog a bs :: rest →
      ∃ u, exec (.flashProgramComplete ok) s = .next (s.sealing (celGo u)) ∧ u.cel.issued = false ∧ u.cel.steps = rest ∧ u.dram = s.dram ∧
        u.cel.flash = (if ok then flashProgram s.cel.flash a bs else flashTorn s.cel.flash (Config.tornBits s.free) a bs)) ∧
    (∃ t, exec .eraseResume s = .next t ∧ t.cel = { s.cel with suspended := false } ∧ t.fld Reg.celStatus 4 1 = 0 ∧ t.rooms = s.rooms ∧ t.dram = s.dram)

/-- R330, R332: with the Keepsake mounted and the Cellar idle, reclaim erases a journal sector that holds nothing live after an intent; the retention scrub copies the live anchors that are older than their limit, and the patrol
those records with a word of two corrected bits, for which it does not wait. Else nothing happens. The wall clock advances. Which order the Cellar's own work takes is the
model's choice (log entries 101, 102). -/
def Sys2Proof.Says.KeepsakeIsKept : Prop :=
  ∀ (s : State), s.up = true →
    (s.celIdle = false → exec .reclaim s = .next s ∧ exec .retentionScrub s = .next s) ∧
    (s.mounted = false ∨ s.fld Reg.celScrub 0 1 = 0 → exec .cellarPatrol s = .next s) ∧
    (∀ sec, s.celIdle = true →
      ((journalSectors s).filter (fun x => !s.isRetired x && (match s.cel.jpos with | some p => p.1 != x | none => true))).find?
        (fun x => !s.cel.recs.any (fun r => r.places.any (fun p => p.1 == x))) = some sec →
      exec .reclaim s = .next (s.sealing (celGo (s.modCel (fun c => { c with todo := [.erase sec ((eraseCount s.cel.flash sec).getD 0 + 1) true] }))))) ∧
    (s.celIdle = true → s.fld Reg.celScrub 0 1 = 1 → s.fld Reg.celStatus 6 1 = 1 →
      exec .retentionScrub s = .next (s.sealing (celGo (s.modCel (fun c => { c with
        todo := (s.cel.recs.filter (fun r => r.type == 0x12 && decide (ageLimit s r < s.clock - r.time))).map (fun r => CelTask.copy r.seq) }))))) ∧
    (s.mounted = true → s.fld Reg.celScrub 0 1 = 1 → (∀ r ∈ s.cel.recs, ∀ p ∈ r.places, ∃ d n, placeRead s.visibleFlash p.1 p.2 = .good d n) →
      let weak := (s.cel.recs.filter (fun r => r.places.any (fun p => match placeRead s.visibleFlash p.1 p.2 with
        | .good _ 2 => true
        | _ => false))).map (fun r => CelTask.copy r.seq)
      ∃ u, exec .cellarPatrol s = .next (s.sealing (celGo u)) ∧ u.cel.flash = s.cel.flash ∧ u.regs = s.regs ∧ u.dram = s.dram ∧
        u.cel.todo = s.cel.todo ++ weak.filter (fun t => !s.cel.todo.contains t)) ∧
    exec .wallclockTick s = .next (s.setReg Reg.celWallclock (s.reg Reg.celWallclock + 1))

/-- R315: a write of CEL_HEALTH_SEL captures the health record of the sector that its 17 bits name, with whether the sector is retired. -/
def Sys2Proof.Says.HealthRecordIsCaptured : Prop :=
  ∀ (s : State) (c : Ctx) (v : Word), Serves s c Reg.celHealthSel true →
    let sec := bitsOf v.toNat 0 17
    (∃ t, exec (.celHealthSel c v) s = .next t ∧ t.resp = ⟨0, false⟩ ∧ t.fld Reg.celHealthSel 0 17 = sec ∧ t.cel.flash = s.cel.flash ∧
      t.rooms = s.rooms) ∧
    ∀ (d : List Byte) (n : Nat), placeRead s.visibleFlash sec sectorWords = .good d n →
    ∃ t, exec (.celHealthSel c v) s = .next t ∧ t.resp = ⟨0, false⟩ ∧ t.fld Reg.celHealthSel 0 17 = sec ∧
      (∀ w, w < 7 → t.reg (Reg.celHealthDataw + 4 * w) = BitVec.ofNat 32 (fieldOf d (4 * w) 4)) ∧
      t.reg (Reg.celHealthDataw + 28) = BitVec.ofNat 32 (b2n (s.isRetired sec)) ∧ t.cel.flash = s.cel.flash ∧ t.rooms = s.rooms ∧ t.dram = s.dram

/-! ## The Chimney -/

/-- R339, R341: a droop of a room that is ON is counted, saturating; in a room that is not, nothing happens. -/
def Sys2Proof.Says.DroopsAreCounted : Prop :=
  ∀ (s : State) (r : RoomId) (edges : Fin 3), s.up = true →
    (edges ≠ 0 → (s.room r).power = .on → ∃ t, exec (.droopStretch r edges) s = .next t ∧
      t.fld (statKey r) 13 19 = min (2 ^ 19 - 1) (s.fld (statKey r) 13 19 + 1) ∧ t.temp r = s.temp r ∧ (∀ k, k ≠ statKey r → t.reg k = s.reg k) ∧
      t.room r = { s.room r with stretches := (s.room r).stretches + 1 } ∧ (∀ q, q ≠ r → t.room q = s.room q) ∧ t.chim = s.chim) ∧
    (edges = 0 ∨ (s.room r).power ≠ .on → exec (.droopStretch r edges) s = .next s)

/-- R339, R341, R348, R349: in a microsecond of the room loops an ON room's frequency goes 25 MHz down towards its target, or up when its rail has settled high enough and its LDO trim is set for it;
a room cycle counts in WIN_CYCLES and, enabled, in each counter that selects its event, and takes one each of the instructions issued, words corrected and edges stretched that wait to be
counted (the model's choice, log entry 131). -/
def Sys2Proof.Says.RoomLoopsStep : Prop :=
  ∀ (s : State), s.up = true →
    (∀ margins, s.loopsRun = true → ∃ t, exec (.roomLoopTick margins []) s = .next t ∧ t.rooms = s.rooms ∧
      ∀ r, (s.room r).power = .on → let f := s.mhz r
        let g := targetMhz s r
        t.mhz r = if f < g then
          (if s.chim.settling.get (railOf r) = true ∨ s.rail (railOf r) + 50 < needMv s r (min g (f + 25)) ∨
            s.chim.trimmed.get r < needMv s r (min g (f + 25)) then f else min g (f + 25))
          else max g (f - 25)) ∧
    (∀ margins cycles, s.loopsRun = false → cycles = [] → exec (.roomLoopTick margins cycles) s = .next s) ∧
    (∀ margins r es, s.loopsRun = false → (s.room r).power = .on → ∃ t, exec (.roomLoopTick margins [(r, [es])]) s = .next t ∧
      t.room r = cycleTakes (s.room r) ∧ (∀ q, q ≠ r → t.room q = s.room q) ∧
      t.reg64 (rreg r Reg.winCycles) = (s.reg64 (rreg r Reg.winCycles) + 1) % 2 ^ 64 ∧
      ∀ n, n < 8 → let sel := (s.reg (rreg r Reg.winSeln + 4 * n)).toNat
        let old := s.reg64 (rreg r Reg.winCntn + 8 * n)
        let x := eventValue s r es (bitsOf sel 0 8)
        (s.fld (rreg r Reg.winCtl) 0 1 = 0 ∨ bitAt sel 17 = false → t.reg64 (rreg r Reg.winCntn + 8 * n) = old) ∧
        (s.fld (rreg r Reg.winCtl) 0 1 = 1 → bitAt sel 17 = true → t.reg64 (rreg r Reg.winCntn + 8 * n) =
          (old + if bitAt sel 16 then b2n (decide (bitsOf sel 8 8 < x)) else x) % 2 ^ 48))

/-- R336: once a rail's rise has settled, its rooms may run up to it. -/
def Sys2Proof.Says.RailSettles : Prop :=
  ∀ (s : State) (g : Fin 4), s.up = true → ∃ t, exec (.railSettle g) s = .next t ∧ t.chim.settling.get g = false ∧
    (∀ k, k ≠ g → t.chim.settling.get k = s.chim.settling.get k) ∧ t.regs = s.regs ∧ t.rooms = s.rooms

/-- R340, R342: a budget period adds its energy to CHIM_ENERGY in µJ with nothing lost, and moves the ceilings of busy rooms alone, by at most 25 MHz. With the loops not running nothing happens. -/
def Sys2Proof.Says.BudgetCountsEnergy : Prop :=
  ∀ (s : State) (events : List (RoomId × List Nat)) (other : Nat), s.up = true →
    let total := (events.map (fun e => (e.2.zipIdx.map (fun n => n.1 * eventEnergy s n.2)).foldl (· + ·) 0)).foldl (· + ·) (4 * other)
    let sum := s.chim.rest + total
    (s.loopsRun = false → exec (.budgetTick events other) s = .next s) ∧
    (s.loopsRun = true → ∃ t, exec (.budgetTick events other) s = .next t ∧ t.chim.rest = sum % 4000000 ∧ t.rooms = s.rooms ∧
      t.reg64 Reg.chimEnergy = (s.reg64 Reg.chimEnergy + sum / 4000000) % 2 ^ 64 ∧
      ∀ r, (busyRoom s r = false → t.chim.ceil.get r = s.chim.ceil.get r) ∧ t.chim.ceil.get r ≤ s.chim.ceil.get r + 25 ∧
        s.chim.ceil.get r ≤ t.chim.ceil.get r + 25)

/-- R344: once a second the skin loop sets a ceiling between CHIM_SKIN.min_mw and the profile's, or none; an estimate that is stale only grows older. Three seconds without a write make it stale and raise an event, and a write makes it fresh. -/
def Sys2Proof.Says.SkinLoopHoldsItsCeiling : Prop :=
  ∀ (s : State), s.up = true →
    (s.loopsRun = false → exec .skinTick s = .next s ∧ exec .skinStale s = .next s) ∧
    (s.loopsRun = true → ∃ t, exec .skinTick s = .next t ∧ t.chim.skinAge = s.chim.skinAge + 1 ∧ t.rooms = s.rooms ∧ t.chim.ceil = s.chim.ceil ∧
      (s.chim.stale = true → t.regs = s.regs ∧ t.chim.skin = s.chim.skin) ∧
      (s.chim.stale = false → t.fld Reg.chimStatus 3 1 = b2n t.chim.skin.isSome ∧ ∀ mw, t.chim.skin = some mw → skinMin s ≤ mw ∧ mw < profileMw s)) ∧
    (s.loopsRun = true → 3 ≤ s.chim.skinAge → s.chim.stale = false → ∃ t, exec .skinStale s = .next t ∧ t.chim = { s.chim with stale := true } ∧
      t.fld Reg.chimEvent 1 1 = 1 ∧ t.rooms = s.rooms) ∧
    (∀ (c : Ctx) (v : Word), Serves s c Reg.chimSkin true → ∃ t, exec (.chimSkinWrite c v) s = .next t ∧ t.resp = ⟨0, false⟩ ∧ t.reg Reg.chimSkin = v ∧
      t.chim = { s.chim with skinAge := 0, stale := false } ∧ t.rooms = s.rooms)

/-- R345: the bias loop rewrites the placement bias of every ON room and counts the milliseconds without a job; port pacing takes CHIM_PACE but never less than the admitted claims, and an event says when those hold it. -/
def Sys2Proof.Says.BiasAndPacing : Prop :=
  ∀ (s : State), s.up = true →
    (s.loopsRun = false → exec .biasTick s = .next s ∧ exec .pacingTick s = .next s) ∧
    (s.loopsRun = true → ∃ t, exec .biasTick s = .next t ∧ t.rooms = s.rooms ∧
      ∀ r, ((s.room r).power = .on → t.fld (ctlKey r) 21 4 = biasOf s r) ∧ t.mhz r = s.mhz r ∧
        t.chim.idle.get r = if (s.room r).job.isNone ∧ (s.thr.joins.get r).isNone then s.chim.idle.get r + 1 else 0) ∧
    (s.loopsRun = true → ∃ t, exec .pacingTick s = .next t ∧ t.rooms = s.rooms ∧
      let claims := s.fld Reg.thrPortClaimed 0 16 + s.fld Reg.thrPortClaimed 16 16
      t.chim.paced = max (s.fld Reg.chimPace 0 16) claims ∧ t.chim.paceHeld = decide (s.fld Reg.chimPace 0 16 < claims) ∧
        (s.fld Reg.chimPace 0 16 < claims → s.chim.paceHeld = false → t.fld Reg.chimEvent 2 1 = 1))

/-- R346: a sensor reading enters its room's temperature, 115 °C when it is out of range, and is counted against fence_on and fence_off; at or above the emergency threshold the room runs at no more than 300 MHz, and an event says so. -/
def Sys2Proof.Says.SensorIsRead : Prop :=
  ∀ (s : State) (r : RoomId) (raw : Int), s.up = true → s.loopsRun = true →
    ∃ t, exec (.sensorRead r raw) s = .next t ∧ t.rooms = s.rooms ∧ -640 ≤ t.temp r ∧ t.temp r ≤ 2400 ∧
      (raw < -640 ∨ 2400 < raw → t.temp r = 1840 ∧ t.fld Reg.chimEvent 4 1 = 1) ∧
      t.chim.hot.get r = (if 16 * (s.fld Reg.chimTherm 0 8 : Int) ≤ t.temp r then s.chim.hot.get r + 1 else 0) ∧
      t.chim.cool.get r = (if t.temp r ≤ 16 * (s.fld Reg.chimTherm 8 8 : Int) then s.chim.cool.get r + 1 else 0) ∧
      t.chim.emergency.getLsbD r.val = decide (16 * (s.fld Reg.chimTherm 16 8 : Int) ≤ t.temp r) ∧
      (16 * (s.fld Reg.chimTherm 16 8 : Int) ≤ t.temp r → t.mhz r = min 300 (s.mhz r) ∧ t.fld Reg.chimEvent 3 1 = 1)

/-- R343, R346: a room that has been at or above fence_on for a millisecond is fenced by its temperature; a fenced room that is ON goes to RETAIN; with power above the limit for 10 ms and every busy room
at the floor, a hottest busy room is fenced. Until then nothing happens. -/
def Sys2Proof.Says.HeatFencesARoom : Prop :=
  ∀ (s : State), s.up = true →
    (∀ r, s.chim.hot.get r < 10 ∨ s.chim.thermal.getLsbD r.val = true → exec (.thermalFence r) s = .next s) ∧
    (∀ r, 10 ≤ s.chim.hot.get r → s.chim.thermal.getLsbD r.val = false → ∃ t, exec (.thermalFence r) s = .next t ∧
      t.chim.thermal = s.chim.thermal ||| roomBit r ∧ (t.fenced ||| t.thr.fenceDue).getLsbD r.val = true ∧ t.fld Reg.chimEvent 5 1 = 1 ∧
      (t.fenced.getLsbD r.val = true → (s.room r).power = .on → (t.room r).power = .retain)) ∧
    (s.chim.overTicks < 1000 → exec .floorFence s = .next s) ∧
    (1000 ≤ s.chim.overTicks → (∃ r, busyRoom s r = true ∧ s.thr.fenceDue.getLsbD r.val = false) → ∃ t r, exec .floorFence s = .next t ∧
      busyRoom s r = true ∧ (∀ q, busyRoom s q = true → s.thr.fenceDue.getLsbD q.val = false → s.temp q ≤ s.temp r) ∧ t.chim.overTicks = 0 ∧
      t.chim.thermal = s.chim.thermal ||| roomBit r ∧ (t.fenced ||| t.thr.fenceDue).getLsbD r.val = true ∧ t.fld Reg.chimEvent 0 1 = 1)

/-- R242, R346, R347: a room that the Chimney holds and that has been cool for 100 ms is released: with no fault fence on it, its self-test begins when its fence had taken effect, and a
decision that had not is withdrawn; with one it stays in RETAIN.
What R343 to R347 leave open of the release is the model's reading (log entry 104). -/
def Sys2Proof.Says.CoolRoomIsReleased : Prop :=
  ∀ (s : State) (r : RoomId), s.up = true →
    (s.chim.cool.get r < 1000 ∨ s.chim.thermal.getLsbD r.val = false → exec (.chimneyRelease r) s = .next s) ∧
    (1000 ≤ s.chim.cool.get r → s.chim.thermal.getLsbD r.val = true → ∃ t, exec (.chimneyRelease r) s = .next t ∧
      t.chim.thermal.getLsbD r.val = false ∧ t.fenced = s.fenced ∧
      (s.fenced.getLsbD r.val = true → s.thr.faultFence.getLsbD r.val = false → (s.room r).power ≠ .off →
        t.thr.readmit.get r = .selfTest ∧ (t.room r).power = .on) ∧
      (s.fenced.getLsbD r.val = true → s.thr.faultFence.getLsbD r.val = true → t.thr.readmit = s.thr.readmit ∧ t.rooms = s.rooms) ∧
      (s.fenced.getLsbD r.val = false → s.thr.faultFence.getLsbD r.val = false → t.thr.fenceDue.getLsbD r.val = false))

/-- R24, R337, R349: a room that has held no job for idle_ms goes to RETAIN, its arrays kept and nothing on its way to it or from it; work placed on it returns it to ON. A write of CHIM_ROOMn_CTL takes a fenced room OFF, its arrays and counters cleared, and no other room; cleared, it
returns the room to ON and to its self-test. -/
def Obligations.PowerStatesChange : Prop :=
  ∀ (s : State) (r : RoomId), s.up = true →
    (s.fld Reg.chimCtl 16 16 ≠ 0 → s.fld Reg.chimCtl 16 16 ≤ s.chim.idle.get r → (s.room r).power = .on → (s.room r).job = none →
      s.thr.joins.get r = none → s.thr.readmit.get r = .no → (∀ o ∈ s.hall, o.src = r → o.done = true ∨ o.isRead = true) → (∀ o ∈ s.hall, o.room = some r → o.done = true) →
      exec (.roomIdleRetain r) s = .next (s.modRoom r (fun m => { m with power := .retain }))) ∧
    (s.fld Reg.chimCtl 16 16 = 0 ∨ s.chim.idle.get r < s.fld Reg.chimCtl 16 16 ∨ (s.room r).power ≠ .on ∨ (s.room r).job.isSome = true →
      exec (.roomIdleRetain r) s = .next s) ∧
    ((s.room r).power = .retain → (s.room r).job.isSome = true ∨ (s.thr.joins.get r).isSome = true →
      ∃ t, exec (.roomWake r) s = .next (s.sealing (settle r t)) ∧ t.room r = { s.room r with power := .on } ∧ t.chim.idle.get r = 0 ∧ t.regs = s.regs) ∧
    ((s.room r).power ≠ .retain → exec (.roomWake r) s = .next s) ∧
    ∀ (c : Ctx) (v : Word), Serves s c (ctlKey r) true →
      (v.getLsbD 2 = true → s.fenced.getLsbD r.val = false → exec (.chimRoomCtlOff c r v) s = .next (respond 0 s)) ∧
      (v.getLsbD 2 = true → s.fenced.getLsbD r.val = true → ∃ t, exec (.chimRoomCtlOff c r v) s = .next t ∧ (t.room r).power = .off ∧
        (t.room r).shelf = [] ∧ (t.room r).chest = [] ∧ (t.room r).lamp = [] ∧ (t.room r).parlour = [] ∧ (t.room r).icache = [] ∧
        t.reg64 (rreg r Reg.winCycles) = 0 ∧ t.reg (rreg r Reg.winOvf) = 0 ∧ t.thr.readmit.get r = .no) ∧
      (v.getLsbD 2 = false → (s.room r).power = .off → ∃ t, exec (.chimRoomCtlOff c r v) s = .next t ∧ (t.room r).power = .on ∧
        t.thr.readmit.get r = .selfTest ∧ t.fld (ctlKey r) 2 1 = 0 ∧ t.fenced = s.fenced)

/-! ## The Window -/

/-- R349, R354: a write of WIN_CTL enables or stops the room's counters, and with clear sets them and WIN_OVF to 0; a write of WIN_SAMP_CTL that raises enable loads the LFSR, and with clear empties the buffer. -/
def Sys2Proof.Says.CountersAndSamplerAreSet : Prop :=
  ∀ (s : State) (c : Ctx) (r : RoomId) (v : Word),
    (Serves s c (rreg r Reg.winCtl) true → ∃ t, exec (.winClear c r v) s = .next t ∧ t.resp = ⟨0, false⟩ ∧ t.rooms = s.rooms ∧
      t.fld (rreg r Reg.winCtl) 0 1 = b2n (v.getLsbD 0) ∧ t.reg64 (rreg r Reg.winCycles) = s.reg64 (rreg r Reg.winCycles) ∧
      (v.getLsbD 1 = true → t.reg (rreg r Reg.winOvf) = 0 ∧ ∀ n, n < 8 → t.reg64 (rreg r Reg.winCntn + 8 * n) = 0) ∧
      (v.getLsbD 1 = false → ∀ k, k ≠ rreg r Reg.winCtl → t.reg k = s.reg k)) ∧
    (Serves s c (rreg r Reg.winSampCtl) true → ∃ t, exec (.winSampCtlWrite c r v) s = .next t ∧ t.resp = ⟨0, false⟩ ∧
      t.reg (rreg r Reg.winSampCtl) = (s.reg (rreg r Reg.winSampCtl) &&& ~~~0xFFFF007F) ||| (v &&& 0xFFFF007F) ∧
      (t.room r).stew = (s.room r).stew ∧ (∀ q, q ≠ r → t.room q = s.room q) ∧
      (s.fld (rreg r Reg.winSampCtl) 0 1 = 0 → v.getLsbD 0 = true →
        (t.room r).sampler.lfsr = BitVec.ofNat 16 (if bitsOf v.toNat 16 16 = 0 then 0xACE1 else bitsOf v.toNat 16 16) ∧ (t.room r).sampler.count = 0) ∧
      (v.getLsbD 7 = true → t.fld (rreg r Reg.winSampStatus) 0 6 = 0 ∧ t.fld (rreg r Reg.winSampStatus) 6 5 = 0))

/-- R350: at the end of a meter window every count moves into its register and counting restarts; with a window of 0 nothing happens. -/
def Sys2Proof.Says.MeterWindowEnds : Prop :=
  ∀ (s : State), s.up = true →
    (s.fld Reg.winMeterCtl 0 24 = 0 → exec .meterWindowEnd s = .next s) ∧
    (s.fld Reg.winMeterCtl 0 24 ≠ 0 → ∃ t, exec .meterWindowEnd s = .next t ∧ t.win = { s.win with ports := [], links := [] } ∧ t.rooms = s.rooms ∧
      (∀ i, i < 8 → t.reg (Reg.winPortkRd + 4 * i) = BitVec.ofNat 32 (sget 0 s.win.ports i)) ∧
      ∀ i, i < 112 → t.reg (Reg.winLinkiDd + 4 * i) = BitVec.ofNat 32 (sget 0 s.win.links i))

/-- R23, R351-R353: a snapshot counts, and with the dump enabled its records are written whole at the producer of the dump ring, in the dumps' context, or dropped and counted when they do not fit; while a record
of the dump before is still being written it is skipped and counted. The period's source is 0, WIN_SNAP's 1 and the Study's 2; a period of 0 and a write without the snapshot bit take none. The records are written as
the ports' tags allow; that the producer moves at once is the model's choice (log entry 110). -/
def Sys2Proof.Says.SnapshotsAreDumped : Prop :=
  ∀ (s : State) (c : Ctx) (v : Word) (time : Word64),
    let gray := time ^^^ (time >>> 1)
    let taken (cmd : Instr) (src : Nat) (s0 : State) : Prop :=
      let s1 := s0.setReg64 Reg.thrTimebase time.toNat
      let rs := snapRecords s1 src
      let prod := s1.fld Reg.winDumpProd 0 16
      let fits := (prod + 2 ^ 16 - s1.fld Reg.winDumpCons 0 16) % 2 ^ 16 + rs.length ≤ dumpSize s1
      let on := s1.fld Reg.winDumpCtl 0 1 = 1
      ∃ t, exec cmd s = .next t ∧ t.rooms = s.rooms ∧ t.dram = s.dram ∧ t.reg64 Reg.thrTimebase = time.toNat ∧
        (dumpPending s = true → t.win = s.win ∧ t.hubWrites = s.hubWrites ∧
          t.fld Reg.winDumpStatus 0 16 = min (2 ^ 16 - 1) (s1.fld Reg.winDumpStatus 0 16 + 1)) ∧
        (dumpPending s = false → t.win.snaps = s.win.snaps + 1 ∧
          (¬ on → t.hubWrites = s.hubWrites) ∧
          (on → ¬ fits → t.hubWrites = s.hubWrites ∧ t.fld Reg.winDumpStatus 16 16 = min (2 ^ 16 - 1) (s1.fld Reg.winDumpStatus 16 16 + 1)) ∧
          (on → fits → t.fld Reg.winDumpProd 0 16 = (prod + rs.length) % 2 ^ 16 ∧ ∀ i r, rs[i]? = some r →
            t.dbytes (ctxBase (s1.fld Reg.winDumpCtl 2 5) + (s1.reg64 Reg.winDumpBase % 2 ^ 48 / 0x1000 * 0x1000 +
              128 * ((prod + i) % dumpSize s1))) 128 = r))
    (s.up = true → (s.fld Reg.winDumpCtl 16 16 = 0 → exec (.snapshotPeriod gray) s = .next s) ∧
      (s.fld Reg.winDumpCtl 16 16 ≠ 0 → taken (.snapshotPeriod gray) 0 s)) ∧
    (Serves s c Reg.winSnap true → (v.getLsbD 0 = false → exec (.winSnap c v gray) s = .next (respond 0 s)) ∧
      (v.getLsbD 0 = true → taken (.winSnap c v gray) 1 (respond 0 s))) ∧
    (Serves s c Reg.studyDbgJobs true → (v.getLsbD 8 = false → exec (.studySnap c v gray) s = .next (plainWrite c Reg.studyDbgJobs v (respond 0 s))) ∧
      (v.getLsbD 8 = true → taken (.studySnap c v gray) 2 (plainWrite c Reg.studyDbgJobs v (respond 0 s))))

/-! ## The Study -/

/-- R356, R357: in a room of a job in debug, a write of STUDY_ROOMn_RUN with halt holds the Steward and shows it halted, and one without lets it go on; a step is granted to one that is halted or that the write
halts, and leaves it halted. In another room a write is refused, and shows so.
What a held room is, and what a step lets issue, are the model's reading (log entry 98). -/
def Sys2Proof.Says.StudyHaltsAndSteps : Prop :=
  ∀ (s : State) (c : Ctx) (r : RoomId) (v : Word), let k := Reg.studyRoomnRun + 0x40 * r.val
    let step := v.getLsbD 1 && (v.getLsbD 0 || (s.room r).stew.held)
    Serves s c k true →
    (roomDebug s r = false → (∃ t, exec (.studyHalt c r v) s = .next t ∧ t.fld Reg.studyEvent 0 1 = 1 ∧ t.rooms = s.rooms ∧ t.reg k = s.reg k) ∧
      ∃ t, exec (.studyStep c r) s = .next t ∧ t.fld Reg.studyEvent 0 1 = 1 ∧ t.rooms = s.rooms) ∧
    (roomDebug s r = true →
      (∃ t, exec (.studyHalt c r v) s = .next (s.sealing (settle r t)) ∧ (t.room r).stew.held = (v.getLsbD 0 || step) ∧ t.fld k 0 1 = b2n (v.getLsbD 0) ∧
        t.fld k 2 1 = b2n (v.getLsbD 0 || step) ∧ (v.getLsbD 3 = true → t.fld k 3 1 = 0) ∧ (step = true → (t.room r).stew.stepping = true) ∧
        (v.getLsbD 0 = false → step = false → (t.room r).stew.stepping = false)) ∧
      ∃ t, exec (.studyStep c r) s = .next (s.sealing (settle r t)) ∧ (t.room r).stew.held = true ∧ (t.room r).stew.stepping = true ∧
        (t.room r).stew.pc = (s.room r).stew.pc)

/-- R8, R358: an access of a word of STUDY_REG_DATA reads or writes that word of the register that STUDY_REG_SEL names in a halted room of a job in debug; elsewhere a write is refused, and a read gives 0. -/
def Sys2Proof.Says.StudyReadsRegisters : Prop :=
  ∀ (s : State) (c : Ctx) (high : Bool) (v : Word), let off := Reg.studyRegData + 4 * b2n high
    (Serves s c off true → match studyTarget s with
      | some (r, n) => exec (.studyRegData c ⟨high, some v⟩) s = .next (setStudyValue r n (setBits (studyValue s r n) (32 * b2n high) 32 v.toNat) (respond 0 s))
      | none => ∃ t, exec (.studyRegData c ⟨high, some v⟩) s = .next t ∧ t.fld Reg.studyEvent 0 1 = 1 ∧ t.rooms = s.rooms) ∧
    (Serves s c off false → (∀ h ∈ s.hold, h.1 ≠ holdKey c off) → ∃ t, exec (.studyRegData c ⟨high, none⟩) s = .next t ∧ t.rooms = s.rooms ∧
      match studyTarget s with
      | some (r, n) => t.resp = ⟨BitVec.ofNat 32 (bitsOf (studyValue s r n) (32 * b2n high) 32), false⟩ ∧
        (high = false → (holdKey c (off + 4), BitVec.ofNat 32 (bitsOf (studyValue s r n) 32 32)) ∈ t.hold)
      | none => t.resp = ⟨0, false⟩ ∧ t.fld Reg.studyEvent 0 1 = 1)

/-- R359: STUDY_SYNC_GO sets the value of the word that STUDY_SYNC_SEL names, whatever its kind, evaluates the word's watches,
and leaves its kind and owner; a forced one also clears its state bits. It answers 0; 3 for a handle that is not bound, 2 for a free word and 1 for an
ABANDONED one that is not forced, and then no word changes. Every attempt counts in the Study log.
What force does to an abandoned word is the model's reading (log entry 111). -/
def Sys2Proof.Says.StudySetsAWord : Prop :=
  ∀ (s : State) (c : Ctx) (v : Word), Serves s c Reg.studySyncGo true →
    let forced := s.fld Reg.studySyncSel 20 1 = 1
    (v.getLsbD 0 = false → exec (.studySyncGo c v) s = .next (respond 0 s)) ∧
    (v.getLsbD 0 = true → ∃ t, exec (.studySyncGo c v) s = .next t ∧ t.win.attempts = s.win.attempts + 1 ∧
      (studyWord s = none → t.fld Reg.studySyncGo 1 3 = 3 ∧ t.land = s.land ∧ t.rooms = s.rooms) ∧
      ∀ w, studyWord s = some w → let x := s.word w
        (wordKind x = 0 → t.fld Reg.studySyncGo 1 3 = 2 ∧ t.land = s.land ∧ t.rooms = s.rooms) ∧
        (wordKind x ≠ 0 → wordAbandoned x = true → ¬ forced → t.fld Reg.studySyncGo 1 3 = 1 ∧ t.land = s.land ∧ t.rooms = s.rooms) ∧
        (wordKind x ≠ 0 → wordAbandoned x = false ∨ forced →
          let y := wordWith x (s.reg Reg.studySyncValue).toNat
          t.fld Reg.studySyncGo 1 3 = 0 ∧ (¬ s.watched w → t.rooms = s.rooms) ∧ (∀ z, z ≠ w → t.word z = s.word z) ∧
          (¬ forced → Evaluated s t w y) ∧ (forced → Evaluated s t w (BitVec.ofNat 64 (setBits y.toNat 56 4 0)))))

/-- R360: when space has returned in the trace queue after records were dropped, one overflow record with their count follows, and the count restarts; with none dropped, or with the queue full, nothing
happens. -/
def Sys2Proof.Says.OverflowIsTraced : Prop :=
  ∀ (s : State), s.up = true →
    (s.win.traceDrop = 0 ∨ 256 ≤ s.trace.length → exec .traceOverflowRecord s = .next s) ∧
    (s.win.traceDrop ≠ 0 → s.trace.length < 256 → exec .traceOverflowRecord s = .next { s with
      win := { s.win with traceDrop := 0 }
      trace := s.trace ++ if s.fld Reg.studyTraceCtl 5 1 = 1 then [⟨5, 0, s.win.traceDrop, s.timebase, 0⟩] else [] })

/-- R360, R372: a trace cycle carries the next byte of the oldest record on the pins, with trc_sync on its byte 0; the cycle of byte 23 takes the record off the queue, so that a full queue behind which records were
dropped has room for the overflow record. With no record the pins idle. That the cycles pass while no command waits is the model's choice (log entries 1, 99). -/
def Sys2Proof.Says.TraceLeavesByItsPins : Prop :=
  ∀ (s : State), s.up = true → s.pending = [] →
    (s.trace = [] → step s = .next { s with trc := ⟨0, false⟩ }) ∧
    ∀ x rest, s.trace = x :: rest →
      let out : TracePins := ⟨x.bytes.getD s.win.traceSent 0, s.win.traceSent == 0⟩
      (s.win.traceSent < 23 → step s = .next { s with trc := out, win := { s.win with traceSent := s.win.traceSent + 1 } }) ∧
      (s.win.traceSent = 23 → ∃ t, step s = .next t ∧ t = { s with trc := out, trace := rest, win := { s.win with traceSent := 0 } } ∧
        (s.win.traceDrop ≠ 0 → s.trace.length = 256 → s.fld Reg.studyTraceCtl 5 1 = 1 →
          exec .traceOverflowRecord s = .next s ∧
          exec .traceOverflowRecord t = .next { t with
            win := { t.win with traceDrop := 0 }
            trace := rest ++ [⟨5, 0, s.win.traceDrop, s.timebase, 0⟩] }))

/-! ## Control accesses -/

/-- The reads whose effect is only that of their access codes, with their offsets. -/
def Sys2Proof.Says.readRows (c : Ctx) : List (Instr × Nat) :=
  [(.landHStatusRead c, Reg.landHStatus), (.porchFlogCfgRead c, Reg.porchFlogCfg), (.winDumpStatusRead c, Reg.winDumpStatus),
   (.studyTraceCtlRead c, Reg.studyTraceCtl), (.hallPantryEccCorrRead c, Reg.hallPantryEccCorr)] ++
  ((List.finRange 4).flatMap (fun k =>
    [(.thrClassPendingRead c k, Reg.thrClasscPending + 0x10 * k.val), (.hallPortRttMaxRead c k, Reg.hallPortkRttMax + 8 * k.val),
     (.hallPortProtoRead c k, Reg.hallPortkProto + 4 * k.val)])) ++
  (List.finRange 8).map (fun j => (.porchJobRestartUsRead c j, Reg.porchJobjRestartUs + 0x40 * j.val)) ++
  (List.finRange 32).flatMap (fun r =>
    [(.chimRoomStatRead c r, statKey r), (.winSampStatusRead c r, rreg r Reg.winSampStatus), (.roomExcCountRead c r, rreg r Reg.roomExcCount),
     (.dwTagsRead c r, rreg r Reg.dwTags), (.dwRttMaxRead c r, rreg r Reg.dwRttMax), (.roomEccCorrRead c r, rreg r Reg.roomEccCorr)])

/-- A state after a read whose word is not held: the response is the register's value, and nothing changes but the fields of the
register that a read clears. -/
structure Sys2Proof.Says.ReadOnce (s : State) (c : Ctx) (off : Nat) (t : State) : Prop where
  resp : t.resp = ⟨BitVec.ofNat 32 (view s c off), false⟩
  others : ∀ k, k ≠ regKey c off → t.reg k = s.reg k
  rooms : t.rooms = s.rooms
  hold : t.hold = s.hold
  dram : t.dram = s.dram

/-- R4, R5: a read that is served answers with the register's value and clears its fields of access RC; no other register changes. The
lowest credit count of FL_CREDIT starts again from the present count, and a job slot's status forgets its extra restarts (the model's
choice for what a cleared low-water mark holds: log entry 60). -/
def Obligations.ReadsAnswerAndClear : Prop :=
  ∀ (s : State) (c : Ctx),
    (∀ p ∈ Says.readRows c, Serves s c p.2 false → (∀ h ∈ s.hold, h.1 ≠ holdKey c p.2) →
      ∃ t, exec p.1 s = .next t ∧ Says.ReadOnce s c p.2 t ∧ t.jobs = s.jobs ∧
        t.reg (regKey c p.2) = s.reg (regKey c p.2) &&& ~~~ BitVec.ofNat 32 (regRow p.2).rc) ∧
    (∀ r : RoomId, Serves s c (rreg r Reg.flCredit) false → (∀ h ∈ s.hold, h.1 ≠ holdKey c (rreg r Reg.flCredit)) →
      ∃ t, exec (.flCreditRead c r) s = .next t ∧ Says.ReadOnce s c (rreg r Reg.flCredit) t ∧ t.jobs = s.jobs ∧
        t.fld (rreg r Reg.flCredit) 0 7 = s.fld (rreg r Reg.flCredit) 0 7 ∧
        t.fld (rreg r Reg.flCredit) 16 7 = (s.room r).floor.credit % 128) ∧
    ∀ j : SlotId, Serves s c (Reg.porchJobjStatus + 0x40 * j.val) false →
      (∀ h ∈ s.hold, h.1 ≠ holdKey c (Reg.porchJobjStatus + 0x40 * j.val)) →
      ∃ t, exec (.porchJobStatusRead c j) s = .next t ∧ Says.ReadOnce s c (Reg.porchJobjStatus + 0x40 * j.val) t ∧
        t.job j = { s.job j with extra := 0 } ∧ ∀ i, i ≠ j → t.job i = s.job i

/-- R8, R103, R214: a read of the low word of a wide register answers with it and captures the high half, one of ROOM_EXC_INFO the rest
of the record; a captured word is returned once, to the context that captured it. A bound word of the Landing reads whole.
One holding register for each context and offset is the model's reading (log entry 93). -/
def Sys2Proof.Says.WideReadsAreHeld : Prop :=
  ∀ (s : State) (c : Ctx) (off : BitVec 24),
    let o := off.toNat
    let rows : List (Instr × Nat) := (.lowWordRead ⟨.control c, 0xF⟩ off, o) :: (List.finRange 32).map (fun r => (.roomExcInfoRead c r, rreg r Reg.roomExcInfo))
    (∀ p ∈ rows, Serves s c p.2 false → ∀ v, s.hold.lookup (holdKey c p.2) = some v →
      exec p.1 s = .next { s with resp := ⟨v, false⟩, hold := s.hold.filter (fun x => x.1 != holdKey c p.2) }) ∧
    (∀ p ∈ rows, Serves s c p.2 false → (∀ h ∈ s.hold, h.1 ≠ holdKey c p.2) →
      ¬ (Reg.landHWordh ≤ p.2 ∧ p.2 < Reg.landHWordh + 0x2000) → p.2 ≠ Reg.studyRegData → p.2 ≠ Reg.studyRegData + 4 →
      ∃ t, exec p.1 s = .next t ∧ t.resp = ⟨BitVec.ofNat 32 (view s c p.2), false⟩ ∧
        (∀ x ∈ captured p.2, t.hold.lookup (holdKey c x) = some (BitVec.ofNat 32 (view s c x))) ∧ t.rooms = s.rooms ∧ t.dram = s.dram ∧
        ∀ k, k ≠ regKey c p.2 → t.reg k = s.reg k) ∧
    ∀ (h w : Nat), h < 1024 → o = Reg.landHWordh + 8 * h → Serves s c o false → (∀ x ∈ s.hold, x.1 ≠ holdKey c o) → Bound s c.val h w →
      ∃ t, exec (.lowWordRead ⟨.control c, 0xF⟩ off) s = .next t ∧ t.resp = ⟨BitVec.ofNat 32 ((s.word w).toNat % 2 ^ 32), false⟩ ∧
        t.hold.lookup (holdKey c (o + 4)) = some (BitVec.ofNat 32 ((s.word w).toNat / 2 ^ 32))

/-- R370: an access by the debug port is the one that context 0 makes by the control port; its response goes to the debug port, whose
own is the only one that changes. -/
def Sys2Proof.Says.DebugPortActsAsContextZero : Prop :=
  ∀ (s : State) (off : BitVec 24) (be : BitVec 4) (v : Word),
    (∃ t, exec (.lowWordRead ⟨.control 0, be⟩ off) s = .next t ∧
      exec (.lowWordRead ⟨.debug, be⟩ off) s = .next { t with debugResp := t.resp, resp := s.resp }) ∧
    ∃ t, exec (.registerWrite (.control 0) off be v) s = .next t ∧
      exec (.registerWrite .debug off be v) s = .next { t with debugResp := t.resp, resp := s.resp }

/-- R7, R16, R280, R306, R307: a control access that is no aligned whole word, of a block that is not ready, of a room that is off, or
by a context that may not make it gets an error response and changes nothing; while the block is not up the stub answers, with 0 for
PORCH_PRESENCE.
That PORCH_PRESENCE never errs while the block is not up is the model's reading (log entry 7). -/
def Obligations.RefusedAccessesChangeNothing : Prop :=
  ∀ (s : State) (c : Ctx) (off : BitVec 24) (be : BitVec 4) (v : Word),
    let o := off.toNat
    let read : Instr := .lowWordRead ⟨.control c, be⟩ off
    let write : Instr := .registerWrite (.control c) off be v
    let bad : Prop := o % 4 ≠ 0 ∨ be ≠ 0xF ∨ (s.ready = false ∧ servedEarly o = false) ∨
      ∃ r x, roomOfOffset o = some (r, x) ∧ (s.room r).power = .off
    (s.up = true → bad ∨ (permitted s c o true = false ∧ o ≠ 0) → exec write s = .next { s with resp := ⟨0, true⟩ }) ∧
    (s.up = true → bad ∨ (permitted s c o false = false ∧ o ≠ 0) → exec read s = .next { s with resp := ⟨0, true⟩ }) ∧
    (s.up = false → o ≠ 0 → exec write s = .next { s with resp := ⟨0, true⟩ } ∧ exec read s = .next { s with resp := ⟨0, true⟩ }) ∧
    (s.up = false → o = 0 → exec write s = .next { s with resp := ⟨0, false⟩ } ∧ exec read s = .next { s with resp := ⟨0, false⟩ })

/-- Registers whose write has no effect beyond their fields: some of every group. -/
def Sys2Proof.Says.plainRegs : List Nat :=
  [Reg.porchRecovery, Reg.porchRestartLimit, Reg.porchFlogBase, Reg.porchFlogBase + 4, Reg.porchFlogCfg, Reg.porchQqSbase, Reg.porchQqCbase,
   Reg.porchIrqvCfg, Reg.porchIrqvData, Reg.porchIrqvAddr, Reg.porchIrqRoutei, Reg.landBarnMembers, Reg.landBarnWdog, Reg.landHBindValue,
   Reg.landHStatus, Reg.thrCtl, Reg.thrPortBudget, Reg.thrShedBulk, Reg.thrShedHold, Reg.thrPlace, Reg.thrEvent, Reg.thrClasscCfg,
   Reg.thrCmdArga, Reg.hallMcastCtl, Reg.hallLatBound, Reg.hallQos, Reg.hallPortkProto, Reg.hallPantryEccCtl, Reg.celCmdArga, Reg.celBuf,
   Reg.celTableBase, Reg.celScrub, Reg.celHealthCfg, Reg.celEvent, Reg.celMargini, Reg.chimCtl, Reg.chimFloor, Reg.chimPi, Reg.chimTherm,
   Reg.chimEvent, Reg.winMeterCtl, Reg.winDumpBase, Reg.winDumpCtl, Reg.winDumpCons, Reg.studyEvent, Reg.studyRegSel, Reg.studySyncSel,
   Reg.studyTraceCtl, 0x30000]

/-- The same in a room's slice. -/
def Sys2Proof.Says.plainRoomRegs : List Nat :=
  [Reg.roomNumStatus, Reg.flEvent, Reg.scCtl, Reg.scFold, Reg.scEvent, Reg.lmCtl, Reg.lmEvent, Reg.paCtl, Reg.paEvent, Reg.dwCtl,
   Reg.roomEccCtl, Reg.winSeln, Reg.winCntn, Reg.winOvf, Reg.flMode, 0x3000]

/-- R4, R6: a write that is served sets the fields that are RW, clears what it writes 1 to in those that are W1C, and leaves every other
bit as it is. No register or store of anything else changes. -/
def Sys2Proof.Says.PlainWritesSetTheirFields : Prop :=
  ∀ (s : State) (c : Ctx) (off : BitVec 24) (v : Word),
    let o := off.toNat
    (o ∈ Says.plainRegs ∨ ∃ r, ∃ x ∈ Says.plainRoomRegs, o = rreg r x) → Serves s c o true →
    let old := s.reg (regKey c o)
    let rw := BitVec.ofNat 32 (regRow o).rw
    let w1c := BitVec.ofNat 32 (regRow o).w1c
    exec (.registerWrite (.control c) off 0xF v) s = .next (({ s with resp := ⟨0, false⟩ } : State).setReg (regKey c o)
      (((old &&& ~~~ rw) ||| (v &&& rw)) &&& ~~~ (v &&& w1c)))

/-- R4: a control write of a register that has a command of its own is that command. -/
def Sys2Proof.Says.WritesReachTheirRegister : Prop :=
  ∀ (s : State) (c : Ctx) (v : Word),
    (∀ p ∈ ([(Reg.landHSignal, .landHSignal c v), (Reg.landHAdd, .landHAdd c v), (Reg.landHSet, .landHSet c v), (Reg.landHUnbind, .landHUnbind c v),
        (Reg.thrFence, .thrFence c v), (Reg.thrUnfence, .thrUnfence c v), (Reg.thrLedgerSel, .thrLedgerSel c v),
        (Reg.porchCtxReset, .porchCtxReset c v), (Reg.chimSkin, .chimSkinWrite c v), (Reg.celHealthSel, .celHealthSel c v),
        (Reg.studySyncGo, .studySyncGo c v)] : List (Nat × Instr)), exec (.registerWrite (.control c) (BitVec.ofNat 24 p.1) 0xF v) s = exec p.2 s) ∧
    ∀ r : RoomId, ∀ p ∈ ([(Reg.flCtl, .flCtlWrite c r v), (Reg.flCredit, .flCreditWrite c r v), (Reg.roomExcCtl, .roomExcClear c r v),
        (Reg.winCtl, .winClear c r v), (Reg.winSampCtl, .winSampCtlWrite c r v)] : List (Nat × Instr)),
      exec (.registerWrite (.control c) (BitVec.ofNat 24 (rreg r p.1)) 0xF v) s = exec p.2 s

/-- R65, R85: quarter_off changes only while the Floor is idle with no slot open, else a write that would change it is flagged; bit 4 is
written as it is. A credit limit of 1 to 64 acts at once while the Floor is idle, one of 0 as 1 and one above 64 as 64; while it is
busy, no count changes. -/
def Sys2Proof.Says.FloorRegistersAreWritten : Prop :=
  ∀ (s : State) (c : Ctx) (r : RoomId) (v : Word),
    (Serves s c (rreg r Reg.flCtl) true → ∃ t, exec (.flCtlWrite c r v) s = .next t ∧ t.resp = ⟨0, false⟩ ∧ t.rooms = s.rooms ∧ t.dram = s.dram ∧
      (∀ k, k ≠ rreg r Reg.flCtl → k ≠ rreg r Reg.flEvent → t.reg k = s.reg k) ∧ t.fld (rreg r Reg.flCtl) 4 1 = b2n (v.getLsbD 4) ∧
      (((s.room r).queue 0).busy = false → (∀ i, (s.room r).floor.slots.get i = none) →
        t.fld (rreg r Reg.flCtl) 0 4 = v.toNat % 16 ∧ t.reg (rreg r Reg.flEvent) = s.reg (rreg r Reg.flEvent)) ∧
      (((s.room r).queue 0).busy = true ∨ (∃ i x, (s.room r).floor.slots.get i = some x) →
        t.fld (rreg r Reg.flCtl) 0 4 = s.fld (rreg r Reg.flCtl) 0 4 ∧
        t.reg (rreg r Reg.flEvent) = (if v.toNat % 16 = s.fld (rreg r Reg.flCtl) 0 4 then s.reg (rreg r Reg.flEvent) else s.reg (rreg r Reg.flEvent) ||| 1))) ∧
    (Serves s c (rreg r Reg.flCredit) true → ∃ t, exec (.flCreditWrite c r v) s = .next t ∧ t.resp = ⟨0, false⟩ ∧ t.dram = s.dram ∧
      t.fld (rreg r Reg.flCredit) 0 7 = v.toNat % 128 ∧ (∀ k, k ≠ rreg r Reg.flCredit → t.reg k = s.reg k) ∧
      (∀ q, q ≠ r → t.room q = s.room q) ∧
      (((s.room r).queue 0).busy = true → t.rooms = s.rooms) ∧
      (((s.room r).queue 0).busy = false → (t.room r).floor.credit = max 1 (min 64 (v.toNat % 128))))

/-- R103: a write of ROOM_EXC_CTL sets the conditions to record and to trap; with bit 6 it empties the record and its count. -/
def Sys2Proof.Says.ExceptionRecordIsCleared : Prop :=
  ∀ (s : State) (c : Ctx) (r : RoomId) (v : Word), Serves s c (rreg r Reg.roomExcCtl) true →
    ∃ t, exec (.roomExcClear c r v) s = .next t ∧ t.resp = ⟨0, false⟩ ∧ t.rooms = s.rooms ∧ t.dram = s.dram ∧
      t.reg (rreg r Reg.roomExcCtl) = (s.reg (rreg r Reg.roomExcCtl) &&& ~~~ 0x3F) ||| (v &&& 0x3F) ∧
      (v.getLsbD 6 = true → ∀ x ∈ [Reg.roomExcInfo, Reg.roomExcRow, Reg.roomExcK, Reg.roomExcPc, Reg.roomExcCount], t.reg (rreg r x) = 0) ∧
      (v.getLsbD 6 = false → ∀ k, k ≠ rreg r Reg.roomExcCtl → t.reg k = s.reg k)

/-- R16: an access of a room in RETAIN is served as any other, and the room stays in RETAIN with all that it holds. -/
def Sys2Proof.Says.RetainedRoomIsServed : Prop :=
  ∀ (s : State) (c : Ctx) (r : RoomId) (off : BitVec 18), s.up = true →
    (∀ x, (s.room r).power ≠ .retain → exec (.roomRetainAccess c r off x) s = .next s) ∧
    ((s.room r).power = .retain → Serves s c (rreg r off.toNat) false → (∀ h ∈ s.hold, h.1 ≠ holdKey c (rreg r off.toNat)) →
      ∃ t, exec (.roomRetainAccess c r off none) s = .next t ∧ t.resp = ⟨BitVec.ofNat 32 (view s c (rreg r off.toNat)), false⟩ ∧
        t.rooms = s.rooms ∧ ∀ k, k ≠ rreg r off.toNat → t.reg k = s.reg k) ∧
    ∀ v, (s.room r).power = .retain → Serves s c (rreg r off.toNat) true → off.toNat ∈ Says.plainRoomRegs →
      ∃ t, exec (.roomRetainAccess c r off (some v)) s = .next t ∧ t.resp = ⟨0, false⟩ ∧ t.rooms = s.rooms ∧
        exec (.registerWrite (.control c) (BitVec.ofNat 24 (rreg r off.toNat)) 0xF v) s = .next t

/-! ## The memory ports -/

/-- No start-up waits. -/
def Sys2Proof.Says.Steady (s : State) : Prop := s.up = true ∧ s.pins.startup = none

/-- R193, R368: the measures of a port after a round trip of `n` Hall cycles: its largest, and of a job's transaction the count of
those above the bound (that only a job's count there is the model's reading: log entry 123). No other register has changed but those in `but`. -/
structure Sys2Proof.Says.Measured (s t : State) (port : Fin 4) (job : Bool) (n : Nat) (but : List Nat) : Prop where
  most : t.fld (Reg.hallPortkRttMax + 8 * port.val) 0 24 = max (s.fld (Reg.hallPortkRttMax + 8 * port.val) 0 24) (min n (2 ^ 24 - 1))
  above : t.fld (Reg.hallPortkLatOver + 8 * port.val) 0 32 =
    min (2 ^ 32 - 1) (s.fld (Reg.hallPortkLatOver + 8 * port.val) 0 32 + if job && decide (s.fld Reg.hallLatBound 0 16 < n) then 1 else 0)
  others : ∀ k, k ≠ Reg.hallPortkRttMax + 8 * port.val → k ≠ Reg.hallPortkLatOver + 8 * port.val → k ∉ but → t.reg k = s.reg k

/-- R193, R366, R367: a read's beats collect in order; the fourth frees its tag and lands its line with the channel that asked, which then goes
on; a nonzero result in any of them is PORT_ERROR in its room instead. Every round trip is measured, those of a stopped job at its port
alone. A beat whose tag is not outstanding is only counted. -/
def Sys2Proof.Says.ReadBeatsLand : Prop :=
  ∀ (s : State) (port : Fin 4) (tag : BitVec 8) (beat : BitVec 2) (data : BitVec 256) (resp : BitVec 2) (rtt : Nat), Says.Steady s →
    let cmd : Instr := .readDataBeat port tag beat data resp rtt
    ((∀ u ∈ (s.ports.get port).reads, u.tag ≠ tag.toNat) →
      exec cmd s = .next (s.sealing (settleAll (s.satFld (Reg.hallPortkProto + 4 * port.val) 0 16 1)))) ∧
    (∀ (u : TagUse) (r : RoomId), (s.ports.get port).reads.find? (fun x => x.tag == tag.toNat) = some u → u.room = some r →
      u.beats.length = beat.toNat →
      let bs := u.beats ++ [bytesOfNat 32 data.toNat]
      let bad := if u.bad = 0 then resp.toNat else u.bad
      (beat.toNat < 3 → ∃ t, exec cmd s = .next (s.sealing (settleAll t)) ∧ t.rooms = s.rooms ∧ t.regs = s.regs ∧ t.dram = s.dram ∧
        (t.ports.get port).reads = (s.ports.get port).reads.map (fun x => if x.tag = tag.toNat then { x with beats := bs, bad := bad } else x)) ∧
      (beat.toNat = 3 → u.drain = false → bad = 0 → ∀ l, (s.room r).chan u.ch = some l → l.id = u.launch →
        ∃ t, exec cmd s = .next (s.sealing (settleAll (dwRun r u.ch t))) ∧ t.dram = s.dram ∧
          (t.ports.get port).reads = (s.ports.get port).reads.filter (fun x => x.tag != tag.toNat) ∧
          (t.room r).chan u.ch = some { l with flight := l.flight.erase u.line, lines := l.lines ++ [(u.line, bs.flatten)] } ∧
          (∀ q, q ≠ r → t.room q = s.room q) ∧
          t.reg64 (rreg r Reg.dwReadBytes) = (s.reg64 (rreg r Reg.dwReadBytes) + 128) % 2 ^ 64 ∧
          t.fld (rreg r Reg.dwRttMax) 0 24 = max (s.fld (rreg r Reg.dwRttMax) 0 24) (min rtt (2 ^ 24 - 1)) ∧
          Says.Measured s t port true rtt [rreg r Reg.dwReadBytes, rreg r Reg.dwReadBytes + 4, rreg r Reg.dwRttMax]) ∧
      (beat.toNat = 3 → u.drain = false → bad ≠ 0 →
        ∃ t, exec cmd s = .next (s.sealing (settleAll t)) ∧ (t.room r).stew.running = false ∧ t.faults.length = s.faults.length + 1 ∧
          (t.faults.getLast?.map (fun f => (f.code, f.room, f.capture))) =
            some (.portError, some r, [port.val, 1, u.ch.val, 128 * u.line, bad]) ∧ t.dram = s.dram ∧
          Says.Measured s t port true rtt [rreg r Reg.dwRttMax]) ∧
      (beat.toNat = 3 → u.drain = true → ∃ t, exec cmd s = .next (s.sealing (settleAll t)) ∧ t.rooms = s.rooms ∧
        Says.Measured s t port true rtt [] ∧
        (t.ports.get port).reads = (s.ports.get port).reads.filter (fun x => x.tag != tag.toNat)))

/-- R188, R193, R366, R367: a write's answer frees its tag; OK, its bytes and no others of its context are in DRAM; a nonzero result writes
nothing and is PORT_ERROR in its room, but not for one of a stopped job. Every round trip is measured. One whose
tag is not outstanding is only counted. That the bytes become visible with the answer, and that an error of one of the hub's own
writes stops no job, are the model's choices (log entries 23, 110). -/
def Sys2Proof.Says.WriteAnswersLand : Prop :=
  ∀ (s : State) (port : Fin 4) (tag : BitVec 7) (resp : BitVec 2) (rtt : Nat), Says.Steady s →
    let cmd : Instr := .writeResponse port tag resp rtt
    ((∀ u ∈ (s.ports.get port).writes, u.tag ≠ tag.toNat) →
      exec cmd s = .next (s.sealing (settleAll (s.satFld (Reg.hallPortkProto + 4 * port.val) 0 16 1)))) ∧
    ∀ u, (s.ports.get port).writes.find? (fun x => x.tag == tag.toNat) = some u →
      let base := ctxBase u.ctx + 128 * u.line
      ∃ t, exec cmd s = .next (s.sealing (settleAll t)) ∧
        (t.ports.get port).writes = (s.ports.get port).writes.filter (fun x => x.tag != tag.toNat) ∧
        Says.Measured s t port u.room.isSome rtt (match u.room with | some r => if u.drain then [] else [rreg r Reg.dwRttMax] | none => []) ∧
        (resp = 0 → t.rooms = s.rooms ∧ t.faults = s.faults ∧
          (∀ (i : Nat) (b : Byte), u.bytes[i]? = some (some b) → t.dram.get (base + i) = b) ∧
          ∀ a, (a < base ∨ base + u.bytes.length ≤ a ∨ u.bytes[a - base]? = some none) → t.dram.get a = s.dram.get a) ∧
        (resp ≠ 0 → t.dram = s.dram ∧
          (u.drain = true ∨ u.room = none → t.rooms = s.rooms ∧ t.faults = s.faults) ∧
          (u.drain = false → ∀ r, u.room = some r → (t.room r).stew.running = false ∧ t.faults.length = s.faults.length + 1 ∧
            (t.faults.getLast?.map (fun f => (f.code, f.room, f.capture))) =
              some (.portError, some r, [port.val, 4, u.ch.val, 128 * u.line, resp.toNat])))

/-- R364: a credit comes back to its channel, which a write data channel spends at once on beats that wait; one beyond 32 is ignored
and flagged. A block that is not up takes none. Work of the Cellar that waits to read DRAM then goes on (the model's choice of when:
log entry 119). -/
def Sys2Proof.Says.CreditsComeBack : Prop :=
  ∀ (s : State) (port : Fin 4),
    let p := s.ports.get port
    let flagged : State := s.orReg (Reg.hallPortkProto + 4 * port.val) (2 ^ 17)
    let goes (q : Port) : State :=
      let t : State := { s with ports := s.ports.set port q }
      if s.cel.waiting = [] then t else s.sealing (celGo t)
    (s.up = false → ∀ ch, exec (.creditReturn port ch) s = .next s) ∧
    (s.up = true → 32 ≤ p.creditRq → exec (.creditReturn port 0) s = .next flagged) ∧
    (s.up = true → 32 ≤ p.creditWq → exec (.creditReturn port 1) s = .next flagged) ∧
    (s.up = true → 32 ≤ p.creditWd → exec (.creditReturn port 2) s = .next flagged) ∧
    (s.up = true → p.creditRq < 32 → exec (.creditReturn port 0) s = .next (goes { p with creditRq := p.creditRq + 1 })) ∧
    (s.up = true → p.creditWq < 32 → exec (.creditReturn port 1) s = .next (goes { p with creditWq := p.creditWq + 1 })) ∧
    (s.up = true → p.creditWd < 32 → ∃ q : Port, exec (.creditReturn port 2) s = .next (goes q) ∧
      q = { p with creditWd := q.creditWd, beatsDue := q.beatsDue } ∧ (p.beatsDue = 0 → q.beatsDue = 0 ∧ q.creditWd = p.creditWd + 1) ∧
      (0 < p.beatsDue → q.beatsDue + (p.creditWd + 1) = p.beatsDue + q.creditWd ∧ (q.beatsDue = 0 ∨ q.creditWd = 0)))

/-- A port after the request of a write has transferred: it holds the tag, a credit is spent, and its four beats leave as credits
allow (R364, R366). -/
def Sys2Proof.Says.Requested (p q : Port) (u : TagUse) : Prop :=
  q.creditWq = p.creditWq - 1 ∧ q.writes = p.writes ++ [u] ∧ q.beatsDue = p.beatsDue + 4 - min (p.beatsDue + 4) p.creditWd

/-- R189, R363, R364, R366, R368: a free write tag goes to the room and channel whose turn it is: its request has the job's context and QoS
class and spends a credit, its four data beats leave as credits allow, and its bytes are counted. With none of them waiting it goes
to the hub's own next write of the port, in the bulk class; that either may have it when both wait is the model's choice (log entry
110). -/
def Sys2Proof.Says.WriteTagIsGranted : Prop :=
  ∀ (s : State) (port : Fin 4) (tag : BitVec 8), s.up = true →
    0 < (s.ports.get port).creditWq → tag.toNat < 128 → (∀ u ∈ (s.ports.get port).writes, u.tag ≠ tag.toNat) →
    (∀ (r : RoomId) (ch : Fin 4) (l : Launch) (w : LineWrite), tagTarget s true port = some (r, ch) → hubWanted s port = none →
      (s.room r).chan ch = some l → writeWanted s r ch port = some w →
      ∃ t, exec (.tagGrant port true tag) s = .next t ∧ (t.ports.get port).lastWrite = some r ∧
        Says.Requested (s.ports.get port) (t.ports.get port)
          { tag := tag.toNat, room := some r, ch := ch, launch := l.id, line := w.line, ctx := roomCtx s r,
            qos := s.fld Reg.hallQos 0 4, bytes := w.bytes } ∧
        (t.room r).chan ch = some { l with writes := l.writes.erase w } ∧ (t.room r).lastWriteCh = ch ∧ t.dram = s.dram ∧
        t.reg64 (rreg r Reg.dwWriteBytes) = (s.reg64 (rreg r Reg.dwWriteBytes) + (w.bytes.filter Option.isSome).length) % 2 ^ 64 ∧
        ∀ q, q ≠ r → t.room q = s.room q) ∧
    ∀ h, hubWanted s port = some h → tagTarget s true port = none →
      ∃ t, exec (.tagGrant port true tag) s = .next t ∧ t.hubWrites = s.hubWrites.erase h ∧ t.rooms = s.rooms ∧ t.dram = s.dram ∧
        t.regs = s.regs ∧ Says.Requested (s.ports.get port) (t.ports.get port)
          { tag := tag.toNat, room := none, line := h.w.line, ctx := h.ctx, qos := s.fld Reg.hallQos 4 4, bytes := h.w.bytes }

/-! ## Resets -/

/-- R304, R305, R309, R378: released from cold reset with its rails up and no clamp, the block starts: a part that is not usable stops it at
stage 2, no boot slot that passes at 3, a hub store that fails at 5, each with boot_fail; else it is ready, with the rooms that failed their
self-test fenced. Every room has power, the part's reset is high, and the bus runs in eight lines when the part is usable. Clamped or
unpowered it stays in reset. What start-up meets in the part, and that a part it cannot use stops stage 2, are the command's operands and
the model's reading (log entry 92), and that the rooms have power from stage 1 on is its choice (log entry 130). -/
def Sys2Proof.Says.ColdResetReleases : Prop :=
  ∀ (s : State) (facts : BootFacts),
    (s.pins.cold = false ∨ s.pins.iso = true ∨ s.pins.rails = false → exec (.coldResetRelease facts) s = .next s) ∧
    (s.pins.cold = true → s.pins.iso = false → s.pins.rails = true → s.empty →
      ∃ t, exec (.coldResetRelease facts) s = .next t ∧ t.up = true ∧ t.dram = s.dram ∧ t.cel.flash = s.cel.flash ∧
        (∀ r, t.room r = { s.room r with power := .on }) ∧
        let usable := facts.partOk = true ∧ 8192 ≤ facts.sectors
        let slot := slotOk s.cel.flash 0 = true ∨ slotOk s.cel.flash 1 = true
        t.xspi.rstN = true ∧ (t.xspi.octal = true ↔ usable) ∧
        (¬ usable → t.fld Reg.porchStatus 0 5 = 16 + 2 * 2) ∧
        (usable → ¬ slot → t.fld Reg.porchStatus 0 5 = 16 + 2 * 3) ∧
        (usable → slot → facts.hubPass = false → t.fld Reg.porchStatus 0 5 = 16 + 2 * 5) ∧
        (usable → slot → t.reg Reg.porchRoomsOk = facts.roomsPass ∧ t.fenced = ~~~ facts.roomsPass) ∧
        (usable → slot → facts.hubPass = true → t.fld Reg.porchStatus 0 5 = 1))

/-- R306, R364, R373, R374, R375: a warm reset leaves the block as reset does but for the ports' credits, the wall clock, the margins and the
part, which finishes what it has accepted; it is ignored while the block is not up, and the key 0xD00D in PORCH_WARM_RESET is one. While
tags of the ports are outstanding, the block is not ready. That write beats not yet sent and the hub's own waiting writes are forgotten,
that what start-up meets is an operand, and that the wall clock's value stays while clock_set does not, are the model's readings (log
entries 90, 91). -/
def Sys2Proof.Says.WarmResetClearsTheBlock : Prop :=
  ∀ (s : State) (facts : BootFacts),
    (s.up = false → exec (.warmReset facts) s = .next s) ∧
    (∀ (c : Ctx) (v : Word), Serves s c Reg.porchWarmReset true →
      (v.toNat % 2 ^ 16 ≠ 0xD00D → exec (.porchWarmReset c v facts) s = .next (respond 0 s)) ∧
      (v.toNat % 2 ^ 16 = 0xD00D → exec (.porchWarmReset c v facts) s = exec (.warmReset facts) (respond 0 s))) ∧
    (s.up = true → ∃ t, exec (.warmReset facts) s = .next t ∧ t.up = true ∧ t.jobs = State.reset.jobs ∧
      t.hall = [] ∧ t.mcasts = [] ∧ t.faults = [] ∧ t.land.watches = [] ∧ t.pantry = [] ∧ t.hubWrites = [] ∧ t.dram = s.dram ∧
      t.cel.flash = (cellarReset s).cel.flash ∧
      t.reg64 Reg.celWallclock = s.reg64 Reg.celWallclock ∧ t.fld Reg.celStatus 6 1 = 0 ∧
      (∀ p, (t.ports.get p).creditRq = (s.ports.get p).creditRq ∧ (t.ports.get p).creditWq = (s.ports.get p).creditWq ∧
        (t.ports.get p).creditWd = (s.ports.get p).creditWd ∧ (t.ports.get p).beatsDue = 0) ∧
      ((∃ p, (s.ports.get p).reads ≠ [] ∨ (s.ports.get p).writes ≠ []) → t.pins.startup = some facts ∧ t.ready = false ∧
        t.rooms = State.reset.rooms ∧ t.fld Reg.porchStatus 1 3 = 1 ∧
        (∀ p, ((t.ports.get p).reads.map TagUse.tag, (t.ports.get p).writes.map TagUse.tag) =
          ((s.ports.get p).reads.map TagUse.tag, (s.ports.get p).writes.map TagUse.tag))) ∧
      ((∀ p, (s.ports.get p).reads = [] ∧ (s.ports.get p).writes = []) → t.pins.startup = none ∧
        (∀ r, t.room r = { State.reset.room r with power := .on }) ∧
        (t.ready = true ↔ (facts.partOk = true ∧ 8192 ≤ facts.sectors ∧ (slotOk t.cel.flash 0 = true ∨ slotOk t.cel.flash 1 = true) ∧
          facts.hubPass = true))))

/-- R374: 100 µs after a warm reset the tags still outstanding on a port are freed and drain_timeout is set; when no other port waits for
one, start-up goes on. Outside a drain nothing happens. -/
def Sys2Proof.Says.DrainTimesOut : Prop :=
  ∀ (s : State) (port : Fin 4),
    (s.pins.startup = none ∨ ((s.ports.get port).reads = [] ∧ (s.ports.get port).writes = []) → exec (.drainTimeout port) s = .next s) ∧
    (∀ facts, s.pins.startup = some facts → ((s.ports.get port).reads ≠ [] ∨ (s.ports.get port).writes ≠ []) →
      ∃ t, exec (.drainTimeout port) s = .next t ∧ (t.ports.get port).reads = [] ∧ (t.ports.get port).writes = [] ∧
        t.fld (Reg.hallPortkProto + 4 * port.val) 16 1 = 1 ∧ (∀ p, p ≠ port → t.ports.get p = s.ports.get p) ∧
        ((∃ p, p ≠ port ∧ ((s.ports.get p).reads ≠ [] ∨ (s.ports.get p).writes ≠ [])) → t.pins = s.pins ∧ t.rooms = s.rooms ∧ t.dram = s.dram) ∧
        ((∀ p, p ≠ port → (s.ports.get p).reads = [] ∧ (s.ports.get p).writes = []) → t.pins = { s.pins with startup := none }))

/-! ## The statements of several parts -/

/-- Every command has a next state and leaves the queue. Exec of any command in any state answers a next state, and that state's queue of waiting commands is the one it was given. That no command stops the model is the model's reading: a fault of the block is part of its state (R290). -/
def Obligations.CommandsGoOnAndKeepTheQueue : Prop :=
  Says.EveryCommandGoesOn ∧ Says.CommandsKeepTheQueue

/-- The pins put the block in reset and start it. Iso_en, a rail loss and cold_rst_n leave the block empty with DRAM as it was; iso_en falling and aon_rst_n change their pins and the stub's words; cold reset released runs start-up, which stops at stage 2, 3 or 5 with boot_fail or ends ready. What aon_rst_n clears, what start-up meets in the part, and when the rooms get power are the model's readings and choice (log entries 89, 92, 130). -/
def Obligations.PinsResetTheBlock : Prop :=
  Says.ClampAndRailLossReset ∧ Says.ColdResetReleases

/-- A warm reset clears the block and waits for its tags. WARM_RESET, its register's key and DRAIN_TIMEOUT: what a warm reset leaves, what it keeps, when start-up runs, and what the timeout frees. What it forgets of the ports' writes, its start-up facts and the wall clock rest on the model's readings (log entries 90, 91). -/
def Obligations.WarmResetsDrain : Prop :=
  Says.WarmResetClearsTheBlock ∧ Says.DrainTimesOut

/-- Scalar arithmetic. Add, sub, and, or, xor, shl, shr, mul in both formats and li write their result and go on, nothing else changed; a reserved register in any position of formats R, I and M is ILLEGAL_INSTRUCTION. Its clauses that are the model's choice or reading, and no rule of the spec: log entry 19. -/
def Obligations.ScalarArithmetic : Prop :=
  Says.ArithmeticOnRegisters ∧ Says.ArithmeticOnImmediates ∧ Says.LoadImmediate ∧ Says.ReservedRegisterIsIllegal

/-- Loads and stores. Ld reads, and st writes, the bytes of its own room's store at its address and no others; a load from another room asks it and waits, one from the sync space takes its word, and a store elsewhere is sent. -/
def Obligations.LoadsAndStores : Prop :=
  Says.LoadFromOwnRoom ∧ Says.LoadFromElsewhere ∧ Says.StoreToOwnRoom ∧ Says.StoredBytesAndNoOthers ∧ Says.StoreElsewhereIsSent

/-- Branches, calls, returns and loops. Br, call, ret, bz, bnz and loop go to their targets in the code or fall through, with their registers and the stack as R262 says. -/
def Obligations.BranchesGoToTheirTargets : Prop :=
  Says.BranchAndCall ∧ Says.Return ∧ Says.ConditionalBranches ∧ Says.LoopCounts

/-- Format U: fields, nop, trace and fault. A field that a row does not allow is ILLEGAL_INSTRUCTION; nop goes on, trace emits its record, fault raises ILLEGAL_INSTRUCTION with its code. Its clauses that are the model's choice or reading, and no rule of the spec: log entry 19. -/
def Obligations.FormatUInstructions : Prop :=
  Says.WrongShapeIsIllegal ∧ Says.NopTraceAndFault

/-- Units begin, queue and complete instructions. An instruction of a unit begins at once when the unit is idle, waits when it is busy, stalls on a full queue, and its completion posts to the tally; one whose effect meets a fault stops its job, and a status word that carries a trapped flag is NUMERIC_TRAP. -/
def Obligations.UnitsTakeTheirInstructions : Prop :=
  Says.UnitInstructionBegins ∧ Says.UnitInstructionQueues ∧ Says.FullQueueStalls ∧ Says.UnitInstructionCompletes ∧ Says.UnitInstructionFaults ∧ Says.StatusWordsTrap

/-- The Floor's mode, credits and control. Fl.mode sets FL_MODE; an idle Floor's credits are at the limit; FL_CTL and FL_CREDIT take a write as R85 and R65 say. -/
def Obligations.FloorModeAndCredits : Prop :=
  Says.FloorModeIsSet ∧ Says.FloorIdleRestoresCredits ∧ Says.FloorRegistersAreWritten

/-- Loads and direct passes of the Floor. Fl.load fills the shadow registers; a direct fl.run writes, for each row it feeds, the sums of the row against the tile's posts, converted once. Its clauses that are the model's choice or reading, and no rule of the spec: log entries 72 and 75. -/
def Obligations.FloorPassesAreSums : Prop :=
  Says.FloorLoadFillsTheShadow ∧ Says.FloorRowsAreSums ∧ Says.FloorRunWritesItsResults

/-- Accumulation slots open and drain. An fl.run of one row and an fl.thin of one group open a slot with their partials; fl.drain combines the spans of every row, converts once and closes the slot. Its clauses that are the model's choice or reading, and no rule of the spec: log entries 71, 72 and 126. -/
def Obligations.FloorSlotsGatherPartials : Prop :=
  Says.FloorRunOpensASlot ∧ Says.FloorThinOpensASlot ∧ Says.FloorDrainClosesTheSlot

/-- Rows of the Stair. Sc.step, sc.modal, sc.fir and sc.ema update the rows of their state in order, under reset and hold masks. -/
def Obligations.StairUpdatesItsRows : Prop :=
  Says.StairRowsAreUpdated ∧ Says.StepUpdatesItsRows ∧ Says.FiltersUpdateTheirRows

/-- The chunk phases. Sc.chunk's prep, carry and state phases, from their operands to what they write. -/
def Obligations.StairChunksRun : Prop :=
  Says.ChunkPhases ∧ Says.ChunkCarryForms

/-- Folds, exports and imports. Sc.fold makes pairs canonical when it is due; sc.export writes an image with its CRC; sc.import checks one in order and stores or refuses it. -/
def Obligations.StairFoldsAndImages : Prop :=
  Says.FoldMakesPairsCanonical ∧ Says.ExportWritesAnImage ∧ Says.ImportChecksTheImage

/-- Elementwise functions of the Lamp. Lm.eval applies its function between its pre- and post-stage to every element, lm.sincos writes both of its outputs; each element is converted once and its flags recorded. -/
def Obligations.LampEvaluates : Prop :=
  Says.EvalAppliesItsFunction ∧ Says.LampRowsAreWritten ∧ Says.SincosWritesBoth

/-- Statistics, reductions and banks of the Lamp. Lm.stat, lm.red in its three forms, and lm.swap on a sound table. Its clauses that are the model's choice or reading, and no rule of the spec: log entry 36. -/
def Obligations.LampReducesAndSwaps : Prop :=
  Says.StatisticsOfRows ∧ Says.ReductionOfParts ∧ Says.LampSwapMakesTheOtherBankActive

/-- Attention over a page list. Pa.attend takes its rows through its pages in order and writes outputs and lse; a page with no live key is skipped and reads no token. -/
def Obligations.ParlourAttends : Prop :=
  Says.AttendMeetsItsPages ∧ Says.AttendSkipsDeadPages

/-- Page lists advance and narrow. Pa.pageset advance inside a page counts a token; narrow builds the narrower page and frees the old one at the step's release. Its clauses that are the model's choice or reading, and no rule of the spec: log entry 66. -/
def Obligations.ParlourTurnsPages : Prop :=
  Says.PagesetAdvances ∧ Says.PagesetNarrows

/-- Launches of the Dumbwaiter. Dw.launch queues, a late one breaches, the queue's head starts on its channel and completes with its status; a deadline that passes breaches a launch under way or queued; dw.wait stalls while a launch on its channels is incomplete; dw.swap exchanges the roles of a pair. Its clauses that are the model's choice or reading, and no rule of the spec: log entry 123. -/
def Obligations.LaunchesRun : Prop :=
  Says.LaunchIsQueued ∧ Says.LateLaunchBreaches ∧ Says.LaunchStarts ∧ Says.LaunchCompletes ∧ Says.DeadlineBreaches ∧ Says.DwWaitWaitsForItsChannels ∧ Says.DwSwapExchangesThePanes

/-- Puts, adds and multicasts start. Dw.put, dw.add and dw.mcast read their bytes and send them as the Hall carries them. -/
def Obligations.RemoteOperationsAreSent : Prop :=
  Says.PutIsSent ∧ Says.AddIsSent ∧ Says.MulticastStarts

/-- Tags and credits of the memory ports. A free tag goes to the room and channel whose turn it is and spends a credit; a credit that returns is added, one beyond 32 flagged. Its clauses that are the model's choice or reading, and no rule of the spec: log entries 110 and 119. -/
def Obligations.PortsGrantTags : Prop :=
  Says.ReadTagIsGranted ∧ Says.WriteTagIsGranted ∧ Says.CreditsComeBack

/-- Read beats and write responses. The fourth beat lands its line, an answered write is in DRAM (when it becomes visible is the model's choice, log entry 23), a nonzero result is PORT_ERROR, and a stray one is counted. Its clauses that are the model's choice or reading, and no rule of the spec: log entries 110 and 123. -/
def Obligations.PortAnswersLand : Prop :=
  Says.ReadBeatsLand ∧ Says.WriteAnswersLand

/-- Remote operations are applied. Remote writes, adds and reads are applied at their target, no other byte changed, and an acknowledgement completes its instruction. -/
def Obligations.RemoteOperationsLand : Prop :=
  Says.RemoteWriteLands ∧ Says.RemoteAddAdds ∧ Says.ReadReturnReads ∧ Says.AcknowledgementCompletes

/-- Multicasts run. The hub sends the next packet within the window, a slow receiver is detached, and a finished multicast releases its region. -/
def Obligations.MulticastsRun : Prop :=
  Says.MulticastPacketIsSent ∧ Says.SlowReceiverIsDetached ∧ Says.PantryRegionIsReleased

/-- Corrected words and patrol. A corrected word is rewritten, and patrol reads the next word of its stores. Its clauses that are the model's choice or reading, and no rule of the spec: log entry 108. -/
def Obligations.ErrorsAreScrubbed : Prop :=
  Says.CorrectedWordIsRewritten ∧ Says.PatrolReadsTheNextWord

/-- Arrivals at a barrier. Halt and sy.arrive toggle the room's sense on their channel, and the Porch its own. -/
def Obligations.BarriersTakeArrivals : Prop :=
  Says.HaltArrives ∧ Says.ArrivalTogglesTheSense ∧ Says.PorchArrives

/-- Barriers release, end steps and expire. A barrier with every member's arrival releases them; a step barrier ends its job's step; a watchdog expires; a checkpoint commits. Its clauses that are the model's choice or reading, and no rule of the spec: log entries 87 and 127. -/
def Obligations.BarriersRelease : Prop :=
  Says.BarrierReleases ∧ Says.StepBarrierEndsTheStep ∧ Says.WatchdogExpires ∧ Says.CheckpointCommits

/-- Sync operations leave their room. Sy.signal, sy.add and sy.set send their operation to its word; sy.watch arms its slot, and its cancel answers. Its clauses that are the model's choice or reading, and no rule of the spec: log entry 27. -/
def Obligations.SyncOperationsLeave : Prop :=
  Says.SyncOperationsAreSent ∧ Says.WatchIsSentAndArmsItsSlot ∧ Says.WatchCancelAnswers

/-- Sync words take their operations. An operation that reaches its word adds or sets with saturation, each watch that is then met is removed and its wake sent, and a claim is given to as many watches as it has units. -/
def Obligations.SyncWordsAreUpdated : Prop :=
  Says.SyncWordArithmetic ∧ Says.SyncOperationIsApplied ∧ Says.WatchReachesItsWord

/-- Waits, wakes and fences. Sy.wait takes a wake or stalls, a wake reaches its slot, and sy.fence stalls while an operation of its classes is outstanding. -/
def Obligations.WakesAndFences : Prop :=
  Says.WaitTakesTheWake ∧ Says.FenceWaitsForItsClasses ∧ Says.WakeReachesItsSlot

/-- The host's part of the Landing. The LAND_H registers: signal, add and set, bind and unbind, and the host's watch slots. Its clauses that are the model's choice or reading, and no rule of the spec: log entries 95 and 96. -/
def Obligations.HostUsesTheLanding : Prop :=
  Says.HostOperationsAnswer ∧ Says.HostBindsAndUnbinds ∧ Says.HostSlotsArmAndCancel

/-- Commands of Threshold. OPEN, CLOSE and PARK take effect or answer with their result code. Its clauses that are the model's choice or reading, and no rule of the spec: log entries 78, 97, 106 and 128. -/
def Obligations.ThresholdTakesCommands : Prop :=
  Says.OpenTakesAFreeEntry ∧ Says.RefusedCommandsAnswer ∧ Says.CloseFreesTheEntry ∧ Says.ParkGoesToTheCellar

/-- Feeds and the Ledger's view. THR_FEED appends records or counts them, and THR_LEDGER_SEL captures an entry. Its clauses that are the model's choice or reading, and no rule of the spec: log entry 79. -/
def Obligations.StreamsAreFed : Prop :=
  Says.FeedAppendsOrCounts ∧ Says.LedgerEntryIsCaptured

/-- Rooms are fenced and come back. THR_FENCE and THR_UNFENCE, the self-test's verdict, and a room that joins once loaded. Its clauses that are the model's choice or reading, and no rule of the spec: log entries 85 and 104. -/
def Obligations.RoomsAreFenced : Prop :=
  Says.FenceAndUnfence ∧ Says.SelfTestDecides ∧ Says.LoadedRoomJoins

/-- Ticks, windows, copies and pages. The 1 ms tick, a window that becomes due, states copied between steps, and a spilled page that returns. Its clauses that are the model's choice or reading, and no rule of the spec: log entries 76, 80, 85 and 107. -/
def Obligations.ThresholdKeepsTime : Prop :=
  Says.ThresholdTicks ∧ Says.WindowBecomesDue ∧ Says.StatesAreCopied ∧ Says.SpilledPageReturns

/-- The queues' doorbells and bad entries. A doorbell moves its queue's tail or is flagged, and an entry that cannot be taken is answered. Its clauses that are the model's choice or reading, and no rule of the spec: log entries 83 and 119. -/
def Obligations.QueuesTakeEntries : Prop :=
  Says.DoorbellMovesTheTail ∧ Says.BadEntriesAreAnswered

/-- Job commands. SUBMIT, END, PREEMPT, ABORT and RESUME entries take effect on their slot. Its clauses that are the model's choice or reading, and no rule of the spec: log entry 83. -/
def Obligations.JobsAreTaken : Prop :=
  Says.SubmitAdmitsAJob ∧ Says.EndAndPreemptAreNoted ∧ Says.AbortFreesTheSlot ∧ Says.ResumeLoadsAgain

/-- Jobs run and restart. A loaded job runs, a fault restarts its job, and a restart that is held takes a room when one comes free. -/
def Obligations.JobsRunAndRestart : Prop :=
  Says.LoadedJobRuns ∧ Says.FaultRestartsTheJob ∧ Says.HeldRestartTakesARoom

/-- Registers of the Porch. Queue configuration, context reset and interrupt causes. Its clauses that are the model's choice or reading, and no rule of the spec: log entries 13 and 88. -/
def Obligations.PorchRegistersAreWritten : Prop :=
  Says.QueueRegistersAreWritten ∧ Says.ContextIsReset ∧ Says.InterruptCausesAreCleared

/-- Commands of the Cellar. A busy Cellar takes no command, a command that cannot run answers at once, and the slot commands begin. Its clauses that are the model's choice or reading, and no rule of the spec: log entries 100 and 119. -/
def Obligations.CellarTakesCommands : Prop :=
  Says.BusyCellarTakesNoCommand ∧ Says.CellarRefusesAtOnce ∧ Says.SlotCommandsBegin

/-- The Keepsake's journal, its upkeep and the health records. The journal's commands run, and each completion of the part moves the Cellar to its next step; scrubs, patrol and the wall clock's tick act as the Keepsake's upkeep, and CEL_HEALTH_SEL captures a sector's record. Its clauses that are the model's choice or reading, and no rule of the spec: log entries 100, 101 and 102. -/
def Obligations.CellarKeepsItsJournal : Prop :=
  Says.JournalCommandsRun ∧ Says.PartCompletes ∧ Says.KeepsakeIsKept ∧ Says.HealthRecordIsCaptured

/-- The Chimney's room loops. Droops are counted, each room's loop steps its frequency, and a rail settles. Its clauses that are the model's choice or reading, and no rule of the spec: log entry 131. -/
def Obligations.ChimneyLoopsStep : Prop :=
  Says.DroopsAreCounted ∧ Says.RoomLoopsStep ∧ Says.RailSettles

/-- Energy, skin temperature, bias and pacing. Energy is counted against the budget, the skin loop holds its ceiling, and bias and pacing act. -/
def Obligations.ChimneyHoldsItsBudget : Prop :=
  Says.BudgetCountsEnergy ∧ Says.SkinLoopHoldsItsCeiling ∧ Says.BiasAndPacing

/-- Heat fences a room and cooling releases it. Sensor readings, thermal fences, the floor fence and the release of a cooled room. Its clauses that are the model's choice or reading, and no rule of the spec: log entry 104. -/
def Obligations.ChimneyFencesHotRooms : Prop :=
  Says.SensorIsRead ∧ Says.HeatFencesARoom ∧ Says.CoolRoomIsReleased

/-- Counters, meters, snapshots and trace. WIN_CTL and WIN_SAMP_CTL, the end of a meter window, snapshots and their dump, a trace that overflows, and the records that leave by the trace pins. Its clauses that are the model's choice or reading, and no rule of the spec: log entries 1, 99 and 110. -/
def Obligations.WindowMeasures : Prop :=
  Says.CountersAndSamplerAreSet ∧ Says.MeterWindowEnds ∧ Says.SnapshotsAreDumped ∧ Says.OverflowIsTraced ∧ Says.TraceLeavesByItsPins

/-- The Study. Rooms halt, step and run on; their registers are read and written; a sync word is set. Its clauses that are the model's choice or reading, and no rule of the spec: log entries 98 and 111. -/
def Obligations.StudyControlsRooms : Prop :=
  Says.StudyHaltsAndSteps ∧ Says.StudyReadsRegisters ∧ Says.StudySetsAWord

/-- Wide reads, retained rooms and the debug port. A low word captures what R8 and R103 say and a captured word is returned once; a room in RETAIN is served and stays in RETAIN; the debug port acts as context 0 and has its own response. Its clauses that are the model's choice or reading, and no rule of the spec: log entry 93. -/
def Obligations.WideReadsAreServed : Prop :=
  Says.WideReadsAreHeld ∧ Says.RetainedRoomIsServed ∧ Says.DebugPortActsAsContextZero

/-- Writes reach their registers. Plain registers take a write by their access codes, registers with an effect of their own have it, and ROOM_EXC_CTL empties the exception record. -/
def Obligations.WritesReachTheirRegisters : Prop :=
  Says.PlainWritesSetTheirFields ∧ Says.WritesReachTheirRegister ∧ Says.ExceptionRecordIsCleared
end

