-- ==== Sys2Proof/Laws/Cellar.lean ====
section
/-! SUPPORT. The Cellar's reads of a part whose words are clean: nothing but the words is answered. -/

namespace Sys2Proof.Machine

/-- A word that reads erased, or good with no bit corrected. -/
def WordRead.clean : WordRead → Bool
  | .erased => true
  | .good _ n => n == 0
  | .torn | .failed => false

/-- A data word as a word of its sector. -/
theorem placeRead_data (m : Memory) (sec w : Nat) (h : w < sectorWords) : placeRead m sec w = dataRead m sec w := by
  simp only [placeRead, wordParts, dataRead, if_pos h]

/-- A header word as a word of its sector. -/
theorem placeRead_head (m : Memory) (sec h : Nat) : placeRead m sec (sectorWords + h) = headRead m sec h := by
  simp only [placeRead, wordParts, headRead, if_neg (show ¬ sectorWords + h < sectorWords by omega), Nat.add_sub_cancel_left]

theorem noteRead_quiet {s : State} (h : s.erasing = none) (sec : Nat) : noteRead sec s = s := by simp only [noteRead, h]

theorem visibleFlash_quiet {s : State} (h : s.erasing = none) : s.visibleFlash = s.cel.flash := by simp only [State.visibleFlash, h]

theorem noteWorst_zero (sec : Nat) (s : State) : noteWorst sec 0 s = s := by simp [noteWorst]

/-- A clean word answers as it stands, and nothing is noted. -/
theorem readWord_clean {s : State} (h : s.erasing = none) {sec w : Nat} (c : (placeRead s.cel.flash sec w).clean = true) :
    readWord sec w s = (placeRead s.cel.flash sec w, s) := by
  simp only [readWord, noteRead_quiet h, visibleFlash_quiet h]
  generalize placeRead s.cel.flash sec w = x at c ⊢
  cases x with
  | erased => rfl
  | good d n => simp only [WordRead.clean, beq_iff_eq] at c; subst c; simp only [noteWorst_zero]
  | torn => cases c
  | failed => cases c

/-- Clean words answer as they stand, and nothing is noted. -/
theorem readPlaces_clean {s : State} (h : s.erasing = none) : ∀ {l : List (Nat × Nat)},
    (∀ p ∈ l, (placeRead s.cel.flash p.1 p.2).clean = true) → readPlaces l s = (l.map (fun p => placeRead s.cel.flash p.1 p.2), s)
  | [], _ => rfl
  | p :: t, c => by
    have a := readWord_clean h (c p (by simp))
    have b := readPlaces_clean h (l := t) (fun q hq => c q (by simp [hq]))
    simp only [readPlaces, a, b, List.map_cons]

theorem pointerPlaces_data {p : Nat × Nat} (h : p ∈ pointerPlaces) : p.1 < 2 ∧ p.2 < sectorWords := by
  simp only [pointerPlaces, List.mem_flatMap, List.mem_map, List.mem_range] at h
  obtain ⟨sec, hs, w, hw, rfl⟩ := h
  simp at hs
  exact ⟨by rcases hs with rfl | rfl <;> simp, hw⟩

/-- The boot pointer of clean pointer sectors is that of the flash, and reading it notes nothing. -/
theorem readPointer_clean {s : State} (h : s.erasing = none)
    (c : ∀ sec w, sec < 2 → w < sectorWords → (dataRead s.cel.flash sec w).clean = true) :
    readPointer s = (bootPointer s.cel.flash, s) := by
  have e : ∀ p ∈ pointerPlaces, placeRead s.cel.flash p.1 p.2 = dataRead s.cel.flash p.1 p.2 := fun p hp =>
    placeRead_data _ _ _ (pointerPlaces_data hp).2
  have r := readPlaces_clean h (l := pointerPlaces) (fun p hp => by
    rw [e p hp]; exact c _ _ (pointerPlaces_data hp).1 (pointerPlaces_data hp).2)
  have z : pointerPlaces.zip (pointerPlaces.map (fun p => placeRead s.cel.flash p.1 p.2)) =
      pointerPlaces.map (fun p => (p, dataRead s.cel.flash p.1 p.2)) := by
    rw [List.zip_map_right, ← List.map_congr_left (f := fun p => (p, placeRead s.cel.flash p.1 p.2)) (fun p hp => by rw [e p hp]), ← List.map_id pointerPlaces]
    simp only [List.map_id, List.zip_eq_zipWith, List.zipWith_self, List.map_map, Function.comp_def, Prod.map]
    rfl
  simp only [readPointer, r, z, bootPointer]

/-- With clean pointer sectors, a slot is in use that booted or that the flash's boot pointer names. -/
theorem slotInUse_clean {s : State} (h : s.erasing = none)
    (c : ∀ sec w, sec < 2 → w < sectorWords → (dataRead s.cel.flash sec w).clean = true) (slot : Nat) :
    slotInUse s slot = (s.cel.slot == some slot || namedSlot s.cel.flash == slot) := by
  simp only [slotInUse, readPointer_clean h c, namedSlot]

/-- Words none of which is a pointer record name none. -/
theorem bestPointer_none {l : List ((Nat × Nat) × WordRead)} (h : ∀ x ∈ l, x.2 = .erased) : bestPointer l = none := by
  have e : l.filterMap (fun x => x.2.data?.bind (fun d => (pointerOf d).map (fun p => (x.1.1, p.1, p.2)))) = [] :=
    List.filterMap_eq_nil_iff.mpr (fun x hx => by simp only [h x hx, WordRead.data?, Option.bind_none])
  simp only [bestPointer, e, List.foldl_nil]

/-- One pointer record ahead of words that are erased is the one that counts. -/
theorem bestPointer_one {l : List ((Nat × Nat) × WordRead)} {sec w n : Nat} {d : List Byte} {p : Nat × Nat} (hp : pointerOf d = some p)
    (h : ∀ x ∈ l, x.2 = .erased) : bestPointer (((sec, w), .good d n) :: l) = some (sec, p.1, p.2) := by
  have e : l.filterMap (fun x => x.2.data?.bind (fun d => (pointerOf d).map (fun p => (x.1.1, p.1, p.2)))) = [] :=
    List.filterMap_eq_nil_iff.mpr (fun x hx => by simp only [h x hx, WordRead.data?, Option.bind_none])
  have g : (WordRead.good d n).data? = some d := rfl
  simp only [bestPointer, List.filterMap_cons, g, Option.bind_some, hp, Option.map_some, e, List.foldl_cons, List.foldl_nil]

/-- Header words pair by pair. -/
theorem headersGood_pairs (role index : Nat) (h u : Nat → WordRead) (l : List Nat) :
    headersGood role index (l.flatMap (fun i => [h i, u i])) = l.all (fun i => (h i).health.isSome && (u i).use == some (role, index)) := by
  induction l with
  | nil => rfl
  | cons i t ih => simp only [List.flatMap_cons, List.cons_append, List.nil_append, headersGood, ih, List.all_cons]

/-- The check of an image whose first word is good and whose sectors' header words are clean and are its own, with no payload. -/
theorem checkImage_empty {s : State} (h : s.erasing = none) {base sectors role index magic : Nat} {d : List Byte}
    (x : dataRead s.cel.flash base 0 = .good d 0) (len : imageLen sectors magic d = some 0)
    (hs : ∀ i, i < sectors → (headRead s.cel.flash (base + i) 0).clean = true ∧ (headRead s.cel.flash (base + i) 1).clean = true)
    (own : ∀ i, i < sectors → (headRead s.cel.flash (base + i) 0).health.isSome = true ∧ (headRead s.cel.flash (base + i) 1).use = some (role, index))
    (crc : crc32c [] = fieldOf d 0xC 4) : checkImage base sectors role index magic s = (true, s) := by
  have p0 : placeRead s.cel.flash base 0 = .good d 0 := by rw [placeRead_data _ _ _ (by decide), x]
  have r0 := readWord_clean h (sec := base) (w := 0) (by rw [p0]; rfl)
  have r1 := readPlaces_clean h (l := headerPlaces base sectors) (fun p hp => by
    simp only [headerPlaces, List.mem_flatMap, List.mem_range, List.mem_cons, List.not_mem_nil, or_false] at hp
    obtain ⟨i, hi, rfl | rfl⟩ := hp
    · exact (placeRead_head s.cel.flash (base + i) 0) ▸ (hs i hi).1
    · exact (placeRead_head s.cel.flash (base + i) 1) ▸ (hs i hi).2)
  have e : (headerPlaces base sectors).map (fun p => placeRead s.cel.flash p.1 p.2) =
      (List.range sectors).flatMap (fun i => [headRead s.cel.flash (base + i) 0, headRead s.cel.flash (base + i) 1]) := by
    simp only [headerPlaces, List.map_flatMap, List.map_cons, List.map_nil, ← placeRead_head, Nat.add_zero]
  have g : headersGood role index ((List.range sectors).flatMap (fun i => [headRead s.cel.flash (base + i) 0, headRead s.cel.flash (base + i) 1])) = true := by
    rw [headersGood_pairs, List.all_eq_true]
    intro i hi
    have o := own i (List.mem_range.mp hi)
    simp only [o.1, o.2, Bool.true_and, beq_self_eq_true]
  simp only [checkImage, r0, p0, WordRead.data?, Option.bind_some, len, Option.map_some, r1, e, g, if_true, ceilDiv, Nat.zero_add]
  simp [readPlaces, allGood, crc]

end Sys2Proof.Machine
end

