-- ==== Sys2Proof/Laws/Memory.lean ====
section
/-! SUPPORT. The laws of sparse tables and byte memories: every operation keeps the canonical form, a read after a write gives the
value written, and a write leaves every other place alone. -/

namespace Sys2Proof.Machine

variable {α : Type} [DecidableEq α] {d : α}

/-! ## Sparse tables -/

theorem swfFrom_mono {m : List (Nat × α)} {lo hi : Nat} (h : swfFrom d hi m = true) (l : lo ≤ hi) : swfFrom d lo m = true := by
  cases m with
  | nil => rfl
  | cons x t =>
    obtain ⟨k, v⟩ := x
    simp only [swfFrom, Bool.and_eq_true, decide_eq_true_eq] at h ⊢
    exact ⟨⟨by omega, h.1.2⟩, h.2⟩

theorem sget_below {m : List (Nat × α)} {lo a : Nat} (h : swfFrom d lo m = true) (l : a < lo) : sget d m a = d := by
  cases m with
  | nil => rfl
  | cons x t =>
    obtain ⟨k, v⟩ := x
    simp only [swfFrom, Bool.and_eq_true, decide_eq_true_eq] at h
    have : a ≠ k := by omega
    have : a < k := by omega
    simp [sget, *]

theorem swfFrom_dropWhile {m : List (Nat × α)} {lo : Nat} (p : Nat × α → Bool) (h : swfFrom d lo m = true) :
    swfFrom d lo (m.dropWhile p) = true := by
  induction m generalizing lo with
  | nil => rfl
  | cons x t ih =>
    obtain ⟨k, w⟩ := x
    simp only [List.dropWhile]
    split
    · simp only [swfFrom, Bool.and_eq_true, decide_eq_true_eq] at h
      exact swfFrom_mono (ih h.2) (by omega)
    · exact h

/-- What a table without its first keys reads: nothing up to the last of them, and the rest as before. -/
theorem sget_dropWhile {β : Type} {e : β} (m : List (Nat × β)) (a b : Nat) :
    sget e (m.dropWhile (fun x => decide (x.1 ≤ a))) b = if b ≤ a then e else sget e m b := by
  induction m with
  | nil => simp [sget]
  | cons x t ih =>
    obtain ⟨k, w⟩ := x
    simp only [List.dropWhile]
    split
    · next h =>
      have h : k ≤ a := by simpa using h
      rw [ih]
      split
      · rfl
      · have : b ≠ k := by omega
        have : ¬ b < k := by omega
        simp [sget, *]
    · next h =>
      have h : a < k := by simpa using h
      split
      · have : b ≠ k := by omega
        have : b < k := by omega
        simp [sget, *]
      · rfl

theorem swfFrom_sset {m : List (Nat × α)} {lo : Nat} (a : Nat) (v : α) (h : swfFrom d lo m = true) (l : lo ≤ a) :
    swfFrom d lo (sset d m a v) = true := by
  induction m generalizing lo with
  | nil => simp only [sset]; split <;> simp_all [swfFrom]
  | cons x t ih =>
    obtain ⟨k, w⟩ := x
    simp only [swfFrom, Bool.and_eq_true, decide_eq_true_eq] at h
    obtain ⟨⟨hk, hw⟩, ht⟩ := h
    simp only [sset]
    split
    · next e =>
      subst e
      split
      · exact swfFrom_dropWhile _ (swfFrom_mono ht (by omega))
      · simp_all [swfFrom]
    · split
      · split
        · simp_all [swfFrom]
        · simp_all [swfFrom, Nat.succ_le_iff]
      · have := ih ht (by omega)
        simp_all [swfFrom]

/-- A read after a write to the same key gives the value written. -/
@[simp] theorem sget_sset_same (m : List (Nat × α)) (a : Nat) (v : α) : sget d (sset d m a v) a = v := by
  induction m with
  | nil => simp only [sset]; split <;> simp_all [sget]
  | cons x t ih =>
    obtain ⟨k, w⟩ := x
    simp only [sset]
    split
    · split
      · next hv => rw [sget_dropWhile, hv]; simp
      · simp_all [sget]
    · split
      · split
        · next h hv => simp [sget, *]
        · simp [sget]
      · simp [sget, *]

/-- A write leaves every other key alone, whatever its table reads at unlisted keys. -/
theorem sget_sset_ne {e : α} (m : List (Nat × α)) {a b : Nat} (v : α) (n : b ≠ a) : sget e (sset d m a v) b = sget e m b := by
  induction m with
  | nil => simp only [sset]; split <;> simp [sget, n]
  | cons x t ih =>
    obtain ⟨k, w⟩ := x
    simp only [sset]
    split
    · next h =>
      subst h
      split
      · rw [sget_dropWhile]
        simp only [sget, n, if_false]
        by_cases hb : b < a
        · simp [hb, Nat.le_of_lt hb]
        · simp [hb, show ¬ b ≤ a by omega]
      · simp [sget, n]
    · split
      · split
        · rfl
        · simp only [sget, n, if_false]
          split
          · have : b < k := by omega
            simp [this, show b ≠ k by omega]
          · rfl
      · simp only [sget, ih]

/-- A table that a filter has thinned keeps the canonical form. -/
theorem swfFrom_filter {m : List (Nat × α)} {lo : Nat} (p : Nat × α → Bool) (h : swfFrom d lo m = true) :
    swfFrom d lo (m.filter p) = true := by
  induction m generalizing lo with
  | nil => rfl
  | cons x t ih =>
    obtain ⟨k, w⟩ := x
    simp only [swfFrom, Bool.and_eq_true, decide_eq_true_eq] at h
    obtain ⟨⟨hk, hw⟩, ht⟩ := h
    simp only [List.filter]
    split
    · simp only [swfFrom, Bool.and_eq_true, decide_eq_true_eq]
      exact ⟨⟨hk, hw⟩, ih ht⟩
    · exact swfFrom_mono (ih ht) (by omega)

theorem swf_sset {m : List (Nat × α)} (a : Nat) (v : α) (h : swf d m = true) : swf d (sset d m a v) = true :=
  swfFrom_sset a v h (Nat.zero_le a)

/-! ## SRAM and DRAM -/

theorem Memory.wf_set {m : Memory} (a : Nat) (v : Byte) (h : m.wf = true) : (m.set a v).wf = true := swf_sset a v h

@[simp] theorem Memory.get_set_same {m : Memory} (a : Nat) (v : Byte) : (m.set a v).get a = v := sget_sset_same m a v

theorem Memory.get_set_ne {m : Memory} {a b : Nat} (v : Byte) (n : b ≠ a) : (m.set a v).get b = m.get b := sget_sset_ne m v n

theorem Memory.wf_putBytes {m : Memory} (a : Nat) (bs : List Byte) (h : m.wf = true) : (m.putBytes a bs).wf = true := by
  induction bs generalizing m a with
  | nil => exact h
  | cons b t ih => exact ih (a + 1) (wf_set a b h)

/-- Writing bytes leaves every address outside them alone. -/
theorem Memory.get_putBytes_out {m : Memory} {a b : Nat} (bs : List Byte) (o : b < a ∨ a + bs.length ≤ b) :
    (m.putBytes a bs).get b = m.get b := by
  induction bs generalizing m a with
  | nil => rfl
  | cons x t ih =>
    simp only [List.length_cons] at o
    simp only [Memory.putBytes]
    rw [ih (by omega), get_set_ne x (by omega)]

/-- A byte that has been written reads back. -/
theorem Memory.get_putBytes_in {m : Memory} {a i : Nat} {bs : List Byte} (l : i < bs.length) :
    (m.putBytes a bs).get (a + i) = bs[i] := by
  induction bs generalizing m a i with
  | nil => simp at l
  | cons x t ih =>
    simp only [Memory.putBytes]
    cases i with
    | zero => rw [get_putBytes_out t (by omega)]; simp
    | succ i =>
      have := ih (m := m.set a x) (a := a + 1) (i := i) (by simpa using l)
      rw [show a + (i + 1) = a + 1 + i by omega, this]; rfl

theorem Memory.wf_putN {m : Memory} (a n v : Nat) (h : m.wf = true) : (m.putN a n v).wf = true := wf_putBytes a _ h

theorem Memory.wf_putCells {m : Memory} (l : List (Nat × Byte)) (h : m.wf = true) : (m.putCells l).wf = true := by
  induction l generalizing m with
  | nil => exact h
  | cons x t ih => exact ih (wf_set x.1 x.2 h)

/-! ## The serial NOR -/

theorem wf_flashProgram {m : Memory} (a : Nat) (bs : List Byte) (h : swf flashEmpty m = true) :
    swf flashEmpty (flashProgram m a bs) = true := by
  induction bs generalizing m a with
  | nil => exact h
  | cons b t ih => exact ih (a + 1) (swf_sset a _ h)

theorem wf_flashErase {m : Memory} (sec : Nat) (h : swf flashEmpty m = true) : swf flashEmpty (flashErase m sec) = true :=
  swfFrom_filter _ h

theorem wf_flashTorn {m : Memory} (mask a : Nat) (bs : List Byte) (h : swf flashEmpty m = true) :
    swf flashEmpty (flashTorn m mask a bs) = true := wf_flashProgram a _ h

theorem wf_flashHalfErase {m : Memory} (mask sec : Nat) (h : swf flashEmpty m = true) :
    swf flashEmpty (flashHalfErase m mask sec) = true := by
  have keep (l : List Nat) (m : Memory) (h : swf flashEmpty m = true) : swf flashEmpty (l.foldl (fun m i =>
      sset flashEmpty m (sectorBytes * sec + i) (flashByte m (sectorBytes * sec + i) ||| ~~~(BitVec.ofNat 8 (bitsOf mask (8 * i) 8)))) m)
      = true := by
    induction l generalizing m with
    | nil => exact h
    | cons x t ih => exact ih _ (swf_sset _ _ h)
  exact keep _ m h

end Sys2Proof.Machine
end

