-- ==== Sys2Proof/Laws/State.lean ====
section
/-! SUPPORT. What each update of the state leaves and what it changes, field by field. -/

namespace Sys2Proof.Machine

variable (s : State)

@[simp] theorem State.modRoom_pending (r : RoomId) (f : Room → Room) : (s.modRoom r f).pending = s.pending := rfl
@[simp] theorem State.modRoom_free (r : RoomId) (f : Room → Room) : (s.modRoom r f).free = s.free := rfl
@[simp] theorem State.modRoom_resp (r : RoomId) (f : Room → Room) : (s.modRoom r f).resp = s.resp := rfl
@[simp] theorem State.modRoom_debugResp (r : RoomId) (f : Room → Room) : (s.modRoom r f).debugResp = s.debugResp := rfl
@[simp] theorem State.modRoom_regs (r : RoomId) (f : Room → Room) : (s.modRoom r f).regs = s.regs := rfl
@[simp] theorem State.modRoom_hold (r : RoomId) (f : Room → Room) : (s.modRoom r f).hold = s.hold := rfl
@[simp] theorem State.modRoom_pantry (r : RoomId) (f : Room → Room) : (s.modRoom r f).pantry = s.pantry := rfl
@[simp] theorem State.modRoom_pantryEcc (r : RoomId) (f : Room → Room) : (s.modRoom r f).pantryEcc = s.pantryEcc := rfl
@[simp] theorem State.modRoom_pantryRewrites (r : RoomId) (f : Room → Room) : (s.modRoom r f).pantryRewrites = s.pantryRewrites := rfl
@[simp] theorem State.modRoom_pantryPatrol (r : RoomId) (f : Room → Room) : (s.modRoom r f).pantryPatrol = s.pantryPatrol := rfl
@[simp] theorem State.modRoom_dram (r : RoomId) (f : Room → Room) : (s.modRoom r f).dram = s.dram := rfl
@[simp] theorem State.modRoom_hubWrites (r : RoomId) (f : Room → Room) : (s.modRoom r f).hubWrites = s.hubWrites := rfl
@[simp] theorem State.modRoom_hall (r : RoomId) (f : Room → Room) : (s.modRoom r f).hall = s.hall := rfl
@[simp] theorem State.modRoom_mcasts (r : RoomId) (f : Room → Room) : (s.modRoom r f).mcasts = s.mcasts := rfl
@[simp] theorem State.modRoom_nextMcast (r : RoomId) (f : Room → Room) : (s.modRoom r f).nextMcast = s.nextMcast := rfl
@[simp] theorem State.modRoom_ports (r : RoomId) (f : Room → Room) : (s.modRoom r f).ports = s.ports := rfl
@[simp] theorem State.modRoom_land (r : RoomId) (f : Room → Room) : (s.modRoom r f).land = s.land := rfl
@[simp] theorem State.modRoom_fenced (r : RoomId) (f : Room → Room) : (s.modRoom r f).fenced = s.fenced := rfl
@[simp] theorem State.modRoom_jobs (r : RoomId) (f : Room → Room) : (s.modRoom r f).jobs = s.jobs := rfl
@[simp] theorem State.modRoom_trace (r : RoomId) (f : Room → Room) : (s.modRoom r f).trace = s.trace := rfl
@[simp] theorem State.modRoom_faults (r : RoomId) (f : Room → Room) : (s.modRoom r f).faults = s.faults := rfl
@[simp] theorem State.modRoom_thr (r : RoomId) (f : Room → Room) : (s.modRoom r f).thr = s.thr := rfl
@[simp] theorem State.modRoom_porch (r : RoomId) (f : Room → Room) : (s.modRoom r f).porch = s.porch := rfl
@[simp] theorem State.modRoom_cel (r : RoomId) (f : Room → Room) : (s.modRoom r f).cel = s.cel := rfl
@[simp] theorem State.modRoom_chim (r : RoomId) (f : Room → Room) : (s.modRoom r f).chim = s.chim := rfl
@[simp] theorem State.modRoom_win (r : RoomId) (f : Room → Room) : (s.modRoom r f).win = s.win := rfl
@[simp] theorem State.modRoom_xspi (r : RoomId) (f : Room → Room) : (s.modRoom r f).xspi = s.xspi := rfl
@[simp] theorem State.modRoom_trc (r : RoomId) (f : Room → Room) : (s.modRoom r f).trc = s.trc := rfl
@[simp] theorem State.modRoom_pins (r : RoomId) (f : Room → Room) : (s.modRoom r f).pins = s.pins := rfl

@[simp] theorem State.modStew_pending (r : RoomId) (f : Stew → Stew) : (s.modStew r f).pending = s.pending := rfl
@[simp] theorem State.modStew_free (r : RoomId) (f : Stew → Stew) : (s.modStew r f).free = s.free := rfl
@[simp] theorem State.modStew_resp (r : RoomId) (f : Stew → Stew) : (s.modStew r f).resp = s.resp := rfl
@[simp] theorem State.modStew_debugResp (r : RoomId) (f : Stew → Stew) : (s.modStew r f).debugResp = s.debugResp := rfl
@[simp] theorem State.modStew_regs (r : RoomId) (f : Stew → Stew) : (s.modStew r f).regs = s.regs := rfl
@[simp] theorem State.modStew_hold (r : RoomId) (f : Stew → Stew) : (s.modStew r f).hold = s.hold := rfl
@[simp] theorem State.modStew_pantry (r : RoomId) (f : Stew → Stew) : (s.modStew r f).pantry = s.pantry := rfl
@[simp] theorem State.modStew_pantryEcc (r : RoomId) (f : Stew → Stew) : (s.modStew r f).pantryEcc = s.pantryEcc := rfl
@[simp] theorem State.modStew_pantryRewrites (r : RoomId) (f : Stew → Stew) : (s.modStew r f).pantryRewrites = s.pantryRewrites := rfl
@[simp] theorem State.modStew_pantryPatrol (r : RoomId) (f : Stew → Stew) : (s.modStew r f).pantryPatrol = s.pantryPatrol := rfl
@[simp] theorem State.modStew_dram (r : RoomId) (f : Stew → Stew) : (s.modStew r f).dram = s.dram := rfl
@[simp] theorem State.modStew_hubWrites (r : RoomId) (f : Stew → Stew) : (s.modStew r f).hubWrites = s.hubWrites := rfl
@[simp] theorem State.modStew_hall (r : RoomId) (f : Stew → Stew) : (s.modStew r f).hall = s.hall := rfl
@[simp] theorem State.modStew_mcasts (r : RoomId) (f : Stew → Stew) : (s.modStew r f).mcasts = s.mcasts := rfl
@[simp] theorem State.modStew_nextMcast (r : RoomId) (f : Stew → Stew) : (s.modStew r f).nextMcast = s.nextMcast := rfl
@[simp] theorem State.modStew_ports (r : RoomId) (f : Stew → Stew) : (s.modStew r f).ports = s.ports := rfl
@[simp] theorem State.modStew_land (r : RoomId) (f : Stew → Stew) : (s.modStew r f).land = s.land := rfl
@[simp] theorem State.modStew_fenced (r : RoomId) (f : Stew → Stew) : (s.modStew r f).fenced = s.fenced := rfl
@[simp] theorem State.modStew_jobs (r : RoomId) (f : Stew → Stew) : (s.modStew r f).jobs = s.jobs := rfl
@[simp] theorem State.modStew_trace (r : RoomId) (f : Stew → Stew) : (s.modStew r f).trace = s.trace := rfl
@[simp] theorem State.modStew_faults (r : RoomId) (f : Stew → Stew) : (s.modStew r f).faults = s.faults := rfl
@[simp] theorem State.modStew_thr (r : RoomId) (f : Stew → Stew) : (s.modStew r f).thr = s.thr := rfl
@[simp] theorem State.modStew_porch (r : RoomId) (f : Stew → Stew) : (s.modStew r f).porch = s.porch := rfl
@[simp] theorem State.modStew_cel (r : RoomId) (f : Stew → Stew) : (s.modStew r f).cel = s.cel := rfl
@[simp] theorem State.modStew_chim (r : RoomId) (f : Stew → Stew) : (s.modStew r f).chim = s.chim := rfl
@[simp] theorem State.modStew_win (r : RoomId) (f : Stew → Stew) : (s.modStew r f).win = s.win := rfl
@[simp] theorem State.modStew_xspi (r : RoomId) (f : Stew → Stew) : (s.modStew r f).xspi = s.xspi := rfl
@[simp] theorem State.modStew_trc (r : RoomId) (f : Stew → Stew) : (s.modStew r f).trc = s.trc := rfl
@[simp] theorem State.modStew_pins (r : RoomId) (f : Stew → Stew) : (s.modStew r f).pins = s.pins := rfl

@[simp] theorem State.modQueue_pending (r : RoomId) (q : Fin 5) (f : UQueue → UQueue) : (s.modQueue r q f).pending = s.pending := rfl
@[simp] theorem State.modQueue_free (r : RoomId) (q : Fin 5) (f : UQueue → UQueue) : (s.modQueue r q f).free = s.free := rfl
@[simp] theorem State.modQueue_resp (r : RoomId) (q : Fin 5) (f : UQueue → UQueue) : (s.modQueue r q f).resp = s.resp := rfl
@[simp] theorem State.modQueue_debugResp (r : RoomId) (q : Fin 5) (f : UQueue → UQueue) : (s.modQueue r q f).debugResp = s.debugResp := rfl
@[simp] theorem State.modQueue_regs (r : RoomId) (q : Fin 5) (f : UQueue → UQueue) : (s.modQueue r q f).regs = s.regs := rfl
@[simp] theorem State.modQueue_hold (r : RoomId) (q : Fin 5) (f : UQueue → UQueue) : (s.modQueue r q f).hold = s.hold := rfl
@[simp] theorem State.modQueue_pantry (r : RoomId) (q : Fin 5) (f : UQueue → UQueue) : (s.modQueue r q f).pantry = s.pantry := rfl
@[simp] theorem State.modQueue_pantryEcc (r : RoomId) (q : Fin 5) (f : UQueue → UQueue) : (s.modQueue r q f).pantryEcc = s.pantryEcc := rfl
@[simp] theorem State.modQueue_pantryRewrites (r : RoomId) (q : Fin 5) (f : UQueue → UQueue) : (s.modQueue r q f).pantryRewrites = s.pantryRewrites := rfl
@[simp] theorem State.modQueue_pantryPatrol (r : RoomId) (q : Fin 5) (f : UQueue → UQueue) : (s.modQueue r q f).pantryPatrol = s.pantryPatrol := rfl
@[simp] theorem State.modQueue_dram (r : RoomId) (q : Fin 5) (f : UQueue → UQueue) : (s.modQueue r q f).dram = s.dram := rfl
@[simp] theorem State.modQueue_hubWrites (r : RoomId) (q : Fin 5) (f : UQueue → UQueue) : (s.modQueue r q f).hubWrites = s.hubWrites := rfl
@[simp] theorem State.modQueue_hall (r : RoomId) (q : Fin 5) (f : UQueue → UQueue) : (s.modQueue r q f).hall = s.hall := rfl
@[simp] theorem State.modQueue_mcasts (r : RoomId) (q : Fin 5) (f : UQueue → UQueue) : (s.modQueue r q f).mcasts = s.mcasts := rfl
@[simp] theorem State.modQueue_nextMcast (r : RoomId) (q : Fin 5) (f : UQueue → UQueue) : (s.modQueue r q f).nextMcast = s.nextMcast := rfl
@[simp] theorem State.modQueue_ports (r : RoomId) (q : Fin 5) (f : UQueue → UQueue) : (s.modQueue r q f).ports = s.ports := rfl
@[simp] theorem State.modQueue_land (r : RoomId) (q : Fin 5) (f : UQueue → UQueue) : (s.modQueue r q f).land = s.land := rfl
@[simp] theorem State.modQueue_fenced (r : RoomId) (q : Fin 5) (f : UQueue → UQueue) : (s.modQueue r q f).fenced = s.fenced := rfl
@[simp] theorem State.modQueue_jobs (r : RoomId) (q : Fin 5) (f : UQueue → UQueue) : (s.modQueue r q f).jobs = s.jobs := rfl
@[simp] theorem State.modQueue_trace (r : RoomId) (q : Fin 5) (f : UQueue → UQueue) : (s.modQueue r q f).trace = s.trace := rfl
@[simp] theorem State.modQueue_faults (r : RoomId) (q : Fin 5) (f : UQueue → UQueue) : (s.modQueue r q f).faults = s.faults := rfl
@[simp] theorem State.modQueue_thr (r : RoomId) (q : Fin 5) (f : UQueue → UQueue) : (s.modQueue r q f).thr = s.thr := rfl
@[simp] theorem State.modQueue_porch (r : RoomId) (q : Fin 5) (f : UQueue → UQueue) : (s.modQueue r q f).porch = s.porch := rfl
@[simp] theorem State.modQueue_cel (r : RoomId) (q : Fin 5) (f : UQueue → UQueue) : (s.modQueue r q f).cel = s.cel := rfl
@[simp] theorem State.modQueue_chim (r : RoomId) (q : Fin 5) (f : UQueue → UQueue) : (s.modQueue r q f).chim = s.chim := rfl
@[simp] theorem State.modQueue_win (r : RoomId) (q : Fin 5) (f : UQueue → UQueue) : (s.modQueue r q f).win = s.win := rfl
@[simp] theorem State.modQueue_xspi (r : RoomId) (q : Fin 5) (f : UQueue → UQueue) : (s.modQueue r q f).xspi = s.xspi := rfl
@[simp] theorem State.modQueue_trc (r : RoomId) (q : Fin 5) (f : UQueue → UQueue) : (s.modQueue r q f).trc = s.trc := rfl
@[simp] theorem State.modQueue_pins (r : RoomId) (q : Fin 5) (f : UQueue → UQueue) : (s.modQueue r q f).pins = s.pins := rfl

@[simp] theorem State.modChan_pending (r : RoomId) (ch : Fin 4) (f : Launch → Launch) : (s.modChan r ch f).pending = s.pending := rfl
@[simp] theorem State.modChan_free (r : RoomId) (ch : Fin 4) (f : Launch → Launch) : (s.modChan r ch f).free = s.free := rfl
@[simp] theorem State.modChan_resp (r : RoomId) (ch : Fin 4) (f : Launch → Launch) : (s.modChan r ch f).resp = s.resp := rfl
@[simp] theorem State.modChan_debugResp (r : RoomId) (ch : Fin 4) (f : Launch → Launch) : (s.modChan r ch f).debugResp = s.debugResp := rfl
@[simp] theorem State.modChan_regs (r : RoomId) (ch : Fin 4) (f : Launch → Launch) : (s.modChan r ch f).regs = s.regs := rfl
@[simp] theorem State.modChan_hold (r : RoomId) (ch : Fin 4) (f : Launch → Launch) : (s.modChan r ch f).hold = s.hold := rfl
@[simp] theorem State.modChan_pantry (r : RoomId) (ch : Fin 4) (f : Launch → Launch) : (s.modChan r ch f).pantry = s.pantry := rfl
@[simp] theorem State.modChan_pantryEcc (r : RoomId) (ch : Fin 4) (f : Launch → Launch) : (s.modChan r ch f).pantryEcc = s.pantryEcc := rfl
@[simp] theorem State.modChan_pantryRewrites (r : RoomId) (ch : Fin 4) (f : Launch → Launch) : (s.modChan r ch f).pantryRewrites = s.pantryRewrites := rfl
@[simp] theorem State.modChan_pantryPatrol (r : RoomId) (ch : Fin 4) (f : Launch → Launch) : (s.modChan r ch f).pantryPatrol = s.pantryPatrol := rfl
@[simp] theorem State.modChan_dram (r : RoomId) (ch : Fin 4) (f : Launch → Launch) : (s.modChan r ch f).dram = s.dram := rfl
@[simp] theorem State.modChan_hubWrites (r : RoomId) (ch : Fin 4) (f : Launch → Launch) : (s.modChan r ch f).hubWrites = s.hubWrites := rfl
@[simp] theorem State.modChan_hall (r : RoomId) (ch : Fin 4) (f : Launch → Launch) : (s.modChan r ch f).hall = s.hall := rfl
@[simp] theorem State.modChan_mcasts (r : RoomId) (ch : Fin 4) (f : Launch → Launch) : (s.modChan r ch f).mcasts = s.mcasts := rfl
@[simp] theorem State.modChan_nextMcast (r : RoomId) (ch : Fin 4) (f : Launch → Launch) : (s.modChan r ch f).nextMcast = s.nextMcast := rfl
@[simp] theorem State.modChan_ports (r : RoomId) (ch : Fin 4) (f : Launch → Launch) : (s.modChan r ch f).ports = s.ports := rfl
@[simp] theorem State.modChan_land (r : RoomId) (ch : Fin 4) (f : Launch → Launch) : (s.modChan r ch f).land = s.land := rfl
@[simp] theorem State.modChan_fenced (r : RoomId) (ch : Fin 4) (f : Launch → Launch) : (s.modChan r ch f).fenced = s.fenced := rfl
@[simp] theorem State.modChan_jobs (r : RoomId) (ch : Fin 4) (f : Launch → Launch) : (s.modChan r ch f).jobs = s.jobs := rfl
@[simp] theorem State.modChan_trace (r : RoomId) (ch : Fin 4) (f : Launch → Launch) : (s.modChan r ch f).trace = s.trace := rfl
@[simp] theorem State.modChan_faults (r : RoomId) (ch : Fin 4) (f : Launch → Launch) : (s.modChan r ch f).faults = s.faults := rfl
@[simp] theorem State.modChan_thr (r : RoomId) (ch : Fin 4) (f : Launch → Launch) : (s.modChan r ch f).thr = s.thr := rfl
@[simp] theorem State.modChan_porch (r : RoomId) (ch : Fin 4) (f : Launch → Launch) : (s.modChan r ch f).porch = s.porch := rfl
@[simp] theorem State.modChan_cel (r : RoomId) (ch : Fin 4) (f : Launch → Launch) : (s.modChan r ch f).cel = s.cel := rfl
@[simp] theorem State.modChan_chim (r : RoomId) (ch : Fin 4) (f : Launch → Launch) : (s.modChan r ch f).chim = s.chim := rfl
@[simp] theorem State.modChan_win (r : RoomId) (ch : Fin 4) (f : Launch → Launch) : (s.modChan r ch f).win = s.win := rfl
@[simp] theorem State.modChan_xspi (r : RoomId) (ch : Fin 4) (f : Launch → Launch) : (s.modChan r ch f).xspi = s.xspi := rfl
@[simp] theorem State.modChan_trc (r : RoomId) (ch : Fin 4) (f : Launch → Launch) : (s.modChan r ch f).trc = s.trc := rfl
@[simp] theorem State.modChan_pins (r : RoomId) (ch : Fin 4) (f : Launch → Launch) : (s.modChan r ch f).pins = s.pins := rfl

@[simp] theorem State.modFloor_pending (r : RoomId) (f : Floor → Floor) : (s.modFloor r f).pending = s.pending := rfl
@[simp] theorem State.modFloor_free (r : RoomId) (f : Floor → Floor) : (s.modFloor r f).free = s.free := rfl
@[simp] theorem State.modFloor_resp (r : RoomId) (f : Floor → Floor) : (s.modFloor r f).resp = s.resp := rfl
@[simp] theorem State.modFloor_debugResp (r : RoomId) (f : Floor → Floor) : (s.modFloor r f).debugResp = s.debugResp := rfl
@[simp] theorem State.modFloor_regs (r : RoomId) (f : Floor → Floor) : (s.modFloor r f).regs = s.regs := rfl
@[simp] theorem State.modFloor_hold (r : RoomId) (f : Floor → Floor) : (s.modFloor r f).hold = s.hold := rfl
@[simp] theorem State.modFloor_pantry (r : RoomId) (f : Floor → Floor) : (s.modFloor r f).pantry = s.pantry := rfl
@[simp] theorem State.modFloor_pantryEcc (r : RoomId) (f : Floor → Floor) : (s.modFloor r f).pantryEcc = s.pantryEcc := rfl
@[simp] theorem State.modFloor_pantryRewrites (r : RoomId) (f : Floor → Floor) : (s.modFloor r f).pantryRewrites = s.pantryRewrites := rfl
@[simp] theorem State.modFloor_pantryPatrol (r : RoomId) (f : Floor → Floor) : (s.modFloor r f).pantryPatrol = s.pantryPatrol := rfl
@[simp] theorem State.modFloor_dram (r : RoomId) (f : Floor → Floor) : (s.modFloor r f).dram = s.dram := rfl
@[simp] theorem State.modFloor_hubWrites (r : RoomId) (f : Floor → Floor) : (s.modFloor r f).hubWrites = s.hubWrites := rfl
@[simp] theorem State.modFloor_hall (r : RoomId) (f : Floor → Floor) : (s.modFloor r f).hall = s.hall := rfl
@[simp] theorem State.modFloor_mcasts (r : RoomId) (f : Floor → Floor) : (s.modFloor r f).mcasts = s.mcasts := rfl
@[simp] theorem State.modFloor_nextMcast (r : RoomId) (f : Floor → Floor) : (s.modFloor r f).nextMcast = s.nextMcast := rfl
@[simp] theorem State.modFloor_ports (r : RoomId) (f : Floor → Floor) : (s.modFloor r f).ports = s.ports := rfl
@[simp] theorem State.modFloor_land (r : RoomId) (f : Floor → Floor) : (s.modFloor r f).land = s.land := rfl
@[simp] theorem State.modFloor_fenced (r : RoomId) (f : Floor → Floor) : (s.modFloor r f).fenced = s.fenced := rfl
@[simp] theorem State.modFloor_jobs (r : RoomId) (f : Floor → Floor) : (s.modFloor r f).jobs = s.jobs := rfl
@[simp] theorem State.modFloor_trace (r : RoomId) (f : Floor → Floor) : (s.modFloor r f).trace = s.trace := rfl
@[simp] theorem State.modFloor_faults (r : RoomId) (f : Floor → Floor) : (s.modFloor r f).faults = s.faults := rfl
@[simp] theorem State.modFloor_thr (r : RoomId) (f : Floor → Floor) : (s.modFloor r f).thr = s.thr := rfl
@[simp] theorem State.modFloor_porch (r : RoomId) (f : Floor → Floor) : (s.modFloor r f).porch = s.porch := rfl
@[simp] theorem State.modFloor_cel (r : RoomId) (f : Floor → Floor) : (s.modFloor r f).cel = s.cel := rfl
@[simp] theorem State.modFloor_chim (r : RoomId) (f : Floor → Floor) : (s.modFloor r f).chim = s.chim := rfl
@[simp] theorem State.modFloor_win (r : RoomId) (f : Floor → Floor) : (s.modFloor r f).win = s.win := rfl
@[simp] theorem State.modFloor_xspi (r : RoomId) (f : Floor → Floor) : (s.modFloor r f).xspi = s.xspi := rfl
@[simp] theorem State.modFloor_trc (r : RoomId) (f : Floor → Floor) : (s.modFloor r f).trc = s.trc := rfl
@[simp] theorem State.modFloor_pins (r : RoomId) (f : Floor → Floor) : (s.modFloor r f).pins = s.pins := rfl

@[simp] theorem State.setSlot_pending (r : RoomId) (k : Fin 16) (x : WSlot) : (s.setSlot r k x).pending = s.pending := rfl
@[simp] theorem State.setSlot_free (r : RoomId) (k : Fin 16) (x : WSlot) : (s.setSlot r k x).free = s.free := rfl
@[simp] theorem State.setSlot_resp (r : RoomId) (k : Fin 16) (x : WSlot) : (s.setSlot r k x).resp = s.resp := rfl
@[simp] theorem State.setSlot_debugResp (r : RoomId) (k : Fin 16) (x : WSlot) : (s.setSlot r k x).debugResp = s.debugResp := rfl
@[simp] theorem State.setSlot_regs (r : RoomId) (k : Fin 16) (x : WSlot) : (s.setSlot r k x).regs = s.regs := rfl
@[simp] theorem State.setSlot_hold (r : RoomId) (k : Fin 16) (x : WSlot) : (s.setSlot r k x).hold = s.hold := rfl
@[simp] theorem State.setSlot_pantry (r : RoomId) (k : Fin 16) (x : WSlot) : (s.setSlot r k x).pantry = s.pantry := rfl
@[simp] theorem State.setSlot_pantryEcc (r : RoomId) (k : Fin 16) (x : WSlot) : (s.setSlot r k x).pantryEcc = s.pantryEcc := rfl
@[simp] theorem State.setSlot_pantryRewrites (r : RoomId) (k : Fin 16) (x : WSlot) : (s.setSlot r k x).pantryRewrites = s.pantryRewrites := rfl
@[simp] theorem State.setSlot_pantryPatrol (r : RoomId) (k : Fin 16) (x : WSlot) : (s.setSlot r k x).pantryPatrol = s.pantryPatrol := rfl
@[simp] theorem State.setSlot_dram (r : RoomId) (k : Fin 16) (x : WSlot) : (s.setSlot r k x).dram = s.dram := rfl
@[simp] theorem State.setSlot_hubWrites (r : RoomId) (k : Fin 16) (x : WSlot) : (s.setSlot r k x).hubWrites = s.hubWrites := rfl
@[simp] theorem State.setSlot_hall (r : RoomId) (k : Fin 16) (x : WSlot) : (s.setSlot r k x).hall = s.hall := rfl
@[simp] theorem State.setSlot_mcasts (r : RoomId) (k : Fin 16) (x : WSlot) : (s.setSlot r k x).mcasts = s.mcasts := rfl
@[simp] theorem State.setSlot_nextMcast (r : RoomId) (k : Fin 16) (x : WSlot) : (s.setSlot r k x).nextMcast = s.nextMcast := rfl
@[simp] theorem State.setSlot_ports (r : RoomId) (k : Fin 16) (x : WSlot) : (s.setSlot r k x).ports = s.ports := rfl
@[simp] theorem State.setSlot_land (r : RoomId) (k : Fin 16) (x : WSlot) : (s.setSlot r k x).land = s.land := rfl
@[simp] theorem State.setSlot_fenced (r : RoomId) (k : Fin 16) (x : WSlot) : (s.setSlot r k x).fenced = s.fenced := rfl
@[simp] theorem State.setSlot_jobs (r : RoomId) (k : Fin 16) (x : WSlot) : (s.setSlot r k x).jobs = s.jobs := rfl
@[simp] theorem State.setSlot_trace (r : RoomId) (k : Fin 16) (x : WSlot) : (s.setSlot r k x).trace = s.trace := rfl
@[simp] theorem State.setSlot_faults (r : RoomId) (k : Fin 16) (x : WSlot) : (s.setSlot r k x).faults = s.faults := rfl
@[simp] theorem State.setSlot_thr (r : RoomId) (k : Fin 16) (x : WSlot) : (s.setSlot r k x).thr = s.thr := rfl
@[simp] theorem State.setSlot_porch (r : RoomId) (k : Fin 16) (x : WSlot) : (s.setSlot r k x).porch = s.porch := rfl
@[simp] theorem State.setSlot_cel (r : RoomId) (k : Fin 16) (x : WSlot) : (s.setSlot r k x).cel = s.cel := rfl
@[simp] theorem State.setSlot_chim (r : RoomId) (k : Fin 16) (x : WSlot) : (s.setSlot r k x).chim = s.chim := rfl
@[simp] theorem State.setSlot_win (r : RoomId) (k : Fin 16) (x : WSlot) : (s.setSlot r k x).win = s.win := rfl
@[simp] theorem State.setSlot_xspi (r : RoomId) (k : Fin 16) (x : WSlot) : (s.setSlot r k x).xspi = s.xspi := rfl
@[simp] theorem State.setSlot_trc (r : RoomId) (k : Fin 16) (x : WSlot) : (s.setSlot r k x).trc = s.trc := rfl
@[simp] theorem State.setSlot_pins (r : RoomId) (k : Fin 16) (x : WSlot) : (s.setSlot r k x).pins = s.pins := rfl

@[simp] theorem State.setReg_pending (k : Nat) (v : Word) : (s.setReg k v).pending = s.pending := rfl
@[simp] theorem State.setReg_free (k : Nat) (v : Word) : (s.setReg k v).free = s.free := rfl
@[simp] theorem State.setReg_resp (k : Nat) (v : Word) : (s.setReg k v).resp = s.resp := rfl
@[simp] theorem State.setReg_debugResp (k : Nat) (v : Word) : (s.setReg k v).debugResp = s.debugResp := rfl
@[simp] theorem State.setReg_hold (k : Nat) (v : Word) : (s.setReg k v).hold = s.hold := rfl
@[simp] theorem State.setReg_rooms (k : Nat) (v : Word) : (s.setReg k v).rooms = s.rooms := rfl
@[simp] theorem State.setReg_pantry (k : Nat) (v : Word) : (s.setReg k v).pantry = s.pantry := rfl
@[simp] theorem State.setReg_pantryEcc (k : Nat) (v : Word) : (s.setReg k v).pantryEcc = s.pantryEcc := rfl
@[simp] theorem State.setReg_pantryRewrites (k : Nat) (v : Word) : (s.setReg k v).pantryRewrites = s.pantryRewrites := rfl
@[simp] theorem State.setReg_pantryPatrol (k : Nat) (v : Word) : (s.setReg k v).pantryPatrol = s.pantryPatrol := rfl
@[simp] theorem State.setReg_dram (k : Nat) (v : Word) : (s.setReg k v).dram = s.dram := rfl
@[simp] theorem State.setReg_hubWrites (k : Nat) (v : Word) : (s.setReg k v).hubWrites = s.hubWrites := rfl
@[simp] theorem State.setReg_hall (k : Nat) (v : Word) : (s.setReg k v).hall = s.hall := rfl
@[simp] theorem State.setReg_mcasts (k : Nat) (v : Word) : (s.setReg k v).mcasts = s.mcasts := rfl
@[simp] theorem State.setReg_nextMcast (k : Nat) (v : Word) : (s.setReg k v).nextMcast = s.nextMcast := rfl
@[simp] theorem State.setReg_ports (k : Nat) (v : Word) : (s.setReg k v).ports = s.ports := rfl
@[simp] theorem State.setReg_land (k : Nat) (v : Word) : (s.setReg k v).land = s.land := rfl
@[simp] theorem State.setReg_fenced (k : Nat) (v : Word) : (s.setReg k v).fenced = s.fenced := rfl
@[simp] theorem State.setReg_jobs (k : Nat) (v : Word) : (s.setReg k v).jobs = s.jobs := rfl
@[simp] theorem State.setReg_trace (k : Nat) (v : Word) : (s.setReg k v).trace = s.trace := rfl
@[simp] theorem State.setReg_faults (k : Nat) (v : Word) : (s.setReg k v).faults = s.faults := rfl
@[simp] theorem State.setReg_thr (k : Nat) (v : Word) : (s.setReg k v).thr = s.thr := rfl
@[simp] theorem State.setReg_porch (k : Nat) (v : Word) : (s.setReg k v).porch = s.porch := rfl
@[simp] theorem State.setReg_cel (k : Nat) (v : Word) : (s.setReg k v).cel = s.cel := rfl
@[simp] theorem State.setReg_chim (k : Nat) (v : Word) : (s.setReg k v).chim = s.chim := rfl
@[simp] theorem State.setReg_win (k : Nat) (v : Word) : (s.setReg k v).win = s.win := rfl
@[simp] theorem State.setReg_xspi (k : Nat) (v : Word) : (s.setReg k v).xspi = s.xspi := rfl
@[simp] theorem State.setReg_trc (k : Nat) (v : Word) : (s.setReg k v).trc = s.trc := rfl
@[simp] theorem State.setReg_pins (k : Nat) (v : Word) : (s.setReg k v).pins = s.pins := rfl

@[simp] theorem State.setFld_pending (k lo w v : Nat) : (s.setFld k lo w v).pending = s.pending := rfl
@[simp] theorem State.setFld_free (k lo w v : Nat) : (s.setFld k lo w v).free = s.free := rfl
@[simp] theorem State.setFld_resp (k lo w v : Nat) : (s.setFld k lo w v).resp = s.resp := rfl
@[simp] theorem State.setFld_debugResp (k lo w v : Nat) : (s.setFld k lo w v).debugResp = s.debugResp := rfl
@[simp] theorem State.setFld_hold (k lo w v : Nat) : (s.setFld k lo w v).hold = s.hold := rfl
@[simp] theorem State.setFld_rooms (k lo w v : Nat) : (s.setFld k lo w v).rooms = s.rooms := rfl
@[simp] theorem State.setFld_pantry (k lo w v : Nat) : (s.setFld k lo w v).pantry = s.pantry := rfl
@[simp] theorem State.setFld_pantryEcc (k lo w v : Nat) : (s.setFld k lo w v).pantryEcc = s.pantryEcc := rfl
@[simp] theorem State.setFld_pantryRewrites (k lo w v : Nat) : (s.setFld k lo w v).pantryRewrites = s.pantryRewrites := rfl
@[simp] theorem State.setFld_pantryPatrol (k lo w v : Nat) : (s.setFld k lo w v).pantryPatrol = s.pantryPatrol := rfl
@[simp] theorem State.setFld_dram (k lo w v : Nat) : (s.setFld k lo w v).dram = s.dram := rfl
@[simp] theorem State.setFld_hubWrites (k lo w v : Nat) : (s.setFld k lo w v).hubWrites = s.hubWrites := rfl
@[simp] theorem State.setFld_hall (k lo w v : Nat) : (s.setFld k lo w v).hall = s.hall := rfl
@[simp] theorem State.setFld_mcasts (k lo w v : Nat) : (s.setFld k lo w v).mcasts = s.mcasts := rfl
@[simp] theorem State.setFld_nextMcast (k lo w v : Nat) : (s.setFld k lo w v).nextMcast = s.nextMcast := rfl
@[simp] theorem State.setFld_ports (k lo w v : Nat) : (s.setFld k lo w v).ports = s.ports := rfl
@[simp] theorem State.setFld_land (k lo w v : Nat) : (s.setFld k lo w v).land = s.land := rfl
@[simp] theorem State.setFld_fenced (k lo w v : Nat) : (s.setFld k lo w v).fenced = s.fenced := rfl
@[simp] theorem State.setFld_jobs (k lo w v : Nat) : (s.setFld k lo w v).jobs = s.jobs := rfl
@[simp] theorem State.setFld_trace (k lo w v : Nat) : (s.setFld k lo w v).trace = s.trace := rfl
@[simp] theorem State.setFld_faults (k lo w v : Nat) : (s.setFld k lo w v).faults = s.faults := rfl
@[simp] theorem State.setFld_thr (k lo w v : Nat) : (s.setFld k lo w v).thr = s.thr := rfl
@[simp] theorem State.setFld_porch (k lo w v : Nat) : (s.setFld k lo w v).porch = s.porch := rfl
@[simp] theorem State.setFld_cel (k lo w v : Nat) : (s.setFld k lo w v).cel = s.cel := rfl
@[simp] theorem State.setFld_chim (k lo w v : Nat) : (s.setFld k lo w v).chim = s.chim := rfl
@[simp] theorem State.setFld_win (k lo w v : Nat) : (s.setFld k lo w v).win = s.win := rfl
@[simp] theorem State.setFld_xspi (k lo w v : Nat) : (s.setFld k lo w v).xspi = s.xspi := rfl
@[simp] theorem State.setFld_trc (k lo w v : Nat) : (s.setFld k lo w v).trc = s.trc := rfl
@[simp] theorem State.setFld_pins (k lo w v : Nat) : (s.setFld k lo w v).pins = s.pins := rfl

@[simp] theorem State.orReg_pending (k v : Nat) : (s.orReg k v).pending = s.pending := rfl
@[simp] theorem State.orReg_free (k v : Nat) : (s.orReg k v).free = s.free := rfl
@[simp] theorem State.orReg_resp (k v : Nat) : (s.orReg k v).resp = s.resp := rfl
@[simp] theorem State.orReg_debugResp (k v : Nat) : (s.orReg k v).debugResp = s.debugResp := rfl
@[simp] theorem State.orReg_hold (k v : Nat) : (s.orReg k v).hold = s.hold := rfl
@[simp] theorem State.orReg_rooms (k v : Nat) : (s.orReg k v).rooms = s.rooms := rfl
@[simp] theorem State.orReg_pantry (k v : Nat) : (s.orReg k v).pantry = s.pantry := rfl
@[simp] theorem State.orReg_pantryEcc (k v : Nat) : (s.orReg k v).pantryEcc = s.pantryEcc := rfl
@[simp] theorem State.orReg_pantryRewrites (k v : Nat) : (s.orReg k v).pantryRewrites = s.pantryRewrites := rfl
@[simp] theorem State.orReg_pantryPatrol (k v : Nat) : (s.orReg k v).pantryPatrol = s.pantryPatrol := rfl
@[simp] theorem State.orReg_dram (k v : Nat) : (s.orReg k v).dram = s.dram := rfl
@[simp] theorem State.orReg_hubWrites (k v : Nat) : (s.orReg k v).hubWrites = s.hubWrites := rfl
@[simp] theorem State.orReg_hall (k v : Nat) : (s.orReg k v).hall = s.hall := rfl
@[simp] theorem State.orReg_mcasts (k v : Nat) : (s.orReg k v).mcasts = s.mcasts := rfl
@[simp] theorem State.orReg_nextMcast (k v : Nat) : (s.orReg k v).nextMcast = s.nextMcast := rfl
@[simp] theorem State.orReg_ports (k v : Nat) : (s.orReg k v).ports = s.ports := rfl
@[simp] theorem State.orReg_land (k v : Nat) : (s.orReg k v).land = s.land := rfl
@[simp] theorem State.orReg_fenced (k v : Nat) : (s.orReg k v).fenced = s.fenced := rfl
@[simp] theorem State.orReg_jobs (k v : Nat) : (s.orReg k v).jobs = s.jobs := rfl
@[simp] theorem State.orReg_trace (k v : Nat) : (s.orReg k v).trace = s.trace := rfl
@[simp] theorem State.orReg_faults (k v : Nat) : (s.orReg k v).faults = s.faults := rfl
@[simp] theorem State.orReg_thr (k v : Nat) : (s.orReg k v).thr = s.thr := rfl
@[simp] theorem State.orReg_porch (k v : Nat) : (s.orReg k v).porch = s.porch := rfl
@[simp] theorem State.orReg_cel (k v : Nat) : (s.orReg k v).cel = s.cel := rfl
@[simp] theorem State.orReg_chim (k v : Nat) : (s.orReg k v).chim = s.chim := rfl
@[simp] theorem State.orReg_win (k v : Nat) : (s.orReg k v).win = s.win := rfl
@[simp] theorem State.orReg_xspi (k v : Nat) : (s.orReg k v).xspi = s.xspi := rfl
@[simp] theorem State.orReg_trc (k v : Nat) : (s.orReg k v).trc = s.trc := rfl
@[simp] theorem State.orReg_pins (k v : Nat) : (s.orReg k v).pins = s.pins := rfl

@[simp] theorem State.satFld_pending (k lo w n : Nat) : (s.satFld k lo w n).pending = s.pending := rfl
@[simp] theorem State.satFld_free (k lo w n : Nat) : (s.satFld k lo w n).free = s.free := rfl
@[simp] theorem State.satFld_resp (k lo w n : Nat) : (s.satFld k lo w n).resp = s.resp := rfl
@[simp] theorem State.satFld_debugResp (k lo w n : Nat) : (s.satFld k lo w n).debugResp = s.debugResp := rfl
@[simp] theorem State.satFld_hold (k lo w n : Nat) : (s.satFld k lo w n).hold = s.hold := rfl
@[simp] theorem State.satFld_rooms (k lo w n : Nat) : (s.satFld k lo w n).rooms = s.rooms := rfl
@[simp] theorem State.satFld_pantry (k lo w n : Nat) : (s.satFld k lo w n).pantry = s.pantry := rfl
@[simp] theorem State.satFld_pantryEcc (k lo w n : Nat) : (s.satFld k lo w n).pantryEcc = s.pantryEcc := rfl
@[simp] theorem State.satFld_pantryRewrites (k lo w n : Nat) : (s.satFld k lo w n).pantryRewrites = s.pantryRewrites := rfl
@[simp] theorem State.satFld_pantryPatrol (k lo w n : Nat) : (s.satFld k lo w n).pantryPatrol = s.pantryPatrol := rfl
@[simp] theorem State.satFld_dram (k lo w n : Nat) : (s.satFld k lo w n).dram = s.dram := rfl
@[simp] theorem State.satFld_hubWrites (k lo w n : Nat) : (s.satFld k lo w n).hubWrites = s.hubWrites := rfl
@[simp] theorem State.satFld_hall (k lo w n : Nat) : (s.satFld k lo w n).hall = s.hall := rfl
@[simp] theorem State.satFld_mcasts (k lo w n : Nat) : (s.satFld k lo w n).mcasts = s.mcasts := rfl
@[simp] theorem State.satFld_nextMcast (k lo w n : Nat) : (s.satFld k lo w n).nextMcast = s.nextMcast := rfl
@[simp] theorem State.satFld_ports (k lo w n : Nat) : (s.satFld k lo w n).ports = s.ports := rfl
@[simp] theorem State.satFld_land (k lo w n : Nat) : (s.satFld k lo w n).land = s.land := rfl
@[simp] theorem State.satFld_fenced (k lo w n : Nat) : (s.satFld k lo w n).fenced = s.fenced := rfl
@[simp] theorem State.satFld_jobs (k lo w n : Nat) : (s.satFld k lo w n).jobs = s.jobs := rfl
@[simp] theorem State.satFld_trace (k lo w n : Nat) : (s.satFld k lo w n).trace = s.trace := rfl
@[simp] theorem State.satFld_faults (k lo w n : Nat) : (s.satFld k lo w n).faults = s.faults := rfl
@[simp] theorem State.satFld_thr (k lo w n : Nat) : (s.satFld k lo w n).thr = s.thr := rfl
@[simp] theorem State.satFld_porch (k lo w n : Nat) : (s.satFld k lo w n).porch = s.porch := rfl
@[simp] theorem State.satFld_cel (k lo w n : Nat) : (s.satFld k lo w n).cel = s.cel := rfl
@[simp] theorem State.satFld_chim (k lo w n : Nat) : (s.satFld k lo w n).chim = s.chim := rfl
@[simp] theorem State.satFld_win (k lo w n : Nat) : (s.satFld k lo w n).win = s.win := rfl
@[simp] theorem State.satFld_xspi (k lo w n : Nat) : (s.satFld k lo w n).xspi = s.xspi := rfl
@[simp] theorem State.satFld_trc (k lo w n : Nat) : (s.satFld k lo w n).trc = s.trc := rfl
@[simp] theorem State.satFld_pins (k lo w n : Nat) : (s.satFld k lo w n).pins = s.pins := rfl

@[simp] theorem State.setReg64_pending (k v : Nat) : (s.setReg64 k v).pending = s.pending := rfl
@[simp] theorem State.setReg64_free (k v : Nat) : (s.setReg64 k v).free = s.free := rfl
@[simp] theorem State.setReg64_resp (k v : Nat) : (s.setReg64 k v).resp = s.resp := rfl
@[simp] theorem State.setReg64_debugResp (k v : Nat) : (s.setReg64 k v).debugResp = s.debugResp := rfl
@[simp] theorem State.setReg64_hold (k v : Nat) : (s.setReg64 k v).hold = s.hold := rfl
@[simp] theorem State.setReg64_rooms (k v : Nat) : (s.setReg64 k v).rooms = s.rooms := rfl
@[simp] theorem State.setReg64_pantry (k v : Nat) : (s.setReg64 k v).pantry = s.pantry := rfl
@[simp] theorem State.setReg64_pantryEcc (k v : Nat) : (s.setReg64 k v).pantryEcc = s.pantryEcc := rfl
@[simp] theorem State.setReg64_pantryRewrites (k v : Nat) : (s.setReg64 k v).pantryRewrites = s.pantryRewrites := rfl
@[simp] theorem State.setReg64_pantryPatrol (k v : Nat) : (s.setReg64 k v).pantryPatrol = s.pantryPatrol := rfl
@[simp] theorem State.setReg64_dram (k v : Nat) : (s.setReg64 k v).dram = s.dram := rfl
@[simp] theorem State.setReg64_hubWrites (k v : Nat) : (s.setReg64 k v).hubWrites = s.hubWrites := rfl
@[simp] theorem State.setReg64_hall (k v : Nat) : (s.setReg64 k v).hall = s.hall := rfl
@[simp] theorem State.setReg64_mcasts (k v : Nat) : (s.setReg64 k v).mcasts = s.mcasts := rfl
@[simp] theorem State.setReg64_nextMcast (k v : Nat) : (s.setReg64 k v).nextMcast = s.nextMcast := rfl
@[simp] theorem State.setReg64_ports (k v : Nat) : (s.setReg64 k v).ports = s.ports := rfl
@[simp] theorem State.setReg64_land (k v : Nat) : (s.setReg64 k v).land = s.land := rfl
@[simp] theorem State.setReg64_fenced (k v : Nat) : (s.setReg64 k v).fenced = s.fenced := rfl
@[simp] theorem State.setReg64_jobs (k v : Nat) : (s.setReg64 k v).jobs = s.jobs := rfl
@[simp] theorem State.setReg64_trace (k v : Nat) : (s.setReg64 k v).trace = s.trace := rfl
@[simp] theorem State.setReg64_faults (k v : Nat) : (s.setReg64 k v).faults = s.faults := rfl
@[simp] theorem State.setReg64_thr (k v : Nat) : (s.setReg64 k v).thr = s.thr := rfl
@[simp] theorem State.setReg64_porch (k v : Nat) : (s.setReg64 k v).porch = s.porch := rfl
@[simp] theorem State.setReg64_cel (k v : Nat) : (s.setReg64 k v).cel = s.cel := rfl
@[simp] theorem State.setReg64_chim (k v : Nat) : (s.setReg64 k v).chim = s.chim := rfl
@[simp] theorem State.setReg64_win (k v : Nat) : (s.setReg64 k v).win = s.win := rfl
@[simp] theorem State.setReg64_xspi (k v : Nat) : (s.setReg64 k v).xspi = s.xspi := rfl
@[simp] theorem State.setReg64_trc (k v : Nat) : (s.setReg64 k v).trc = s.trc := rfl
@[simp] theorem State.setReg64_pins (k v : Nat) : (s.setReg64 k v).pins = s.pins := rfl

@[simp] theorem State.count64_pending (k n : Nat) : (s.count64 k n).pending = s.pending := rfl
@[simp] theorem State.count64_free (k n : Nat) : (s.count64 k n).free = s.free := rfl
@[simp] theorem State.count64_resp (k n : Nat) : (s.count64 k n).resp = s.resp := rfl
@[simp] theorem State.count64_debugResp (k n : Nat) : (s.count64 k n).debugResp = s.debugResp := rfl
@[simp] theorem State.count64_hold (k n : Nat) : (s.count64 k n).hold = s.hold := rfl
@[simp] theorem State.count64_rooms (k n : Nat) : (s.count64 k n).rooms = s.rooms := rfl
@[simp] theorem State.count64_pantry (k n : Nat) : (s.count64 k n).pantry = s.pantry := rfl
@[simp] theorem State.count64_pantryEcc (k n : Nat) : (s.count64 k n).pantryEcc = s.pantryEcc := rfl
@[simp] theorem State.count64_pantryRewrites (k n : Nat) : (s.count64 k n).pantryRewrites = s.pantryRewrites := rfl
@[simp] theorem State.count64_pantryPatrol (k n : Nat) : (s.count64 k n).pantryPatrol = s.pantryPatrol := rfl
@[simp] theorem State.count64_dram (k n : Nat) : (s.count64 k n).dram = s.dram := rfl
@[simp] theorem State.count64_hubWrites (k n : Nat) : (s.count64 k n).hubWrites = s.hubWrites := rfl
@[simp] theorem State.count64_hall (k n : Nat) : (s.count64 k n).hall = s.hall := rfl
@[simp] theorem State.count64_mcasts (k n : Nat) : (s.count64 k n).mcasts = s.mcasts := rfl
@[simp] theorem State.count64_nextMcast (k n : Nat) : (s.count64 k n).nextMcast = s.nextMcast := rfl
@[simp] theorem State.count64_ports (k n : Nat) : (s.count64 k n).ports = s.ports := rfl
@[simp] theorem State.count64_land (k n : Nat) : (s.count64 k n).land = s.land := rfl
@[simp] theorem State.count64_fenced (k n : Nat) : (s.count64 k n).fenced = s.fenced := rfl
@[simp] theorem State.count64_jobs (k n : Nat) : (s.count64 k n).jobs = s.jobs := rfl
@[simp] theorem State.count64_trace (k n : Nat) : (s.count64 k n).trace = s.trace := rfl
@[simp] theorem State.count64_faults (k n : Nat) : (s.count64 k n).faults = s.faults := rfl
@[simp] theorem State.count64_thr (k n : Nat) : (s.count64 k n).thr = s.thr := rfl
@[simp] theorem State.count64_porch (k n : Nat) : (s.count64 k n).porch = s.porch := rfl
@[simp] theorem State.count64_cel (k n : Nat) : (s.count64 k n).cel = s.cel := rfl
@[simp] theorem State.count64_chim (k n : Nat) : (s.count64 k n).chim = s.chim := rfl
@[simp] theorem State.count64_win (k n : Nat) : (s.count64 k n).win = s.win := rfl
@[simp] theorem State.count64_xspi (k n : Nat) : (s.count64 k n).xspi = s.xspi := rfl
@[simp] theorem State.count64_trc (k n : Nat) : (s.count64 k n).trc = s.trc := rfl
@[simp] theorem State.count64_pins (k n : Nat) : (s.count64 k n).pins = s.pins := rfl

@[simp] theorem State.modPort_pending (p : Fin 4) (f : Port → Port) : (s.modPort p f).pending = s.pending := rfl
@[simp] theorem State.modPort_free (p : Fin 4) (f : Port → Port) : (s.modPort p f).free = s.free := rfl
@[simp] theorem State.modPort_resp (p : Fin 4) (f : Port → Port) : (s.modPort p f).resp = s.resp := rfl
@[simp] theorem State.modPort_debugResp (p : Fin 4) (f : Port → Port) : (s.modPort p f).debugResp = s.debugResp := rfl
@[simp] theorem State.modPort_regs (p : Fin 4) (f : Port → Port) : (s.modPort p f).regs = s.regs := rfl
@[simp] theorem State.modPort_hold (p : Fin 4) (f : Port → Port) : (s.modPort p f).hold = s.hold := rfl
@[simp] theorem State.modPort_rooms (p : Fin 4) (f : Port → Port) : (s.modPort p f).rooms = s.rooms := rfl
@[simp] theorem State.modPort_pantry (p : Fin 4) (f : Port → Port) : (s.modPort p f).pantry = s.pantry := rfl
@[simp] theorem State.modPort_pantryEcc (p : Fin 4) (f : Port → Port) : (s.modPort p f).pantryEcc = s.pantryEcc := rfl
@[simp] theorem State.modPort_pantryRewrites (p : Fin 4) (f : Port → Port) : (s.modPort p f).pantryRewrites = s.pantryRewrites := rfl
@[simp] theorem State.modPort_pantryPatrol (p : Fin 4) (f : Port → Port) : (s.modPort p f).pantryPatrol = s.pantryPatrol := rfl
@[simp] theorem State.modPort_dram (p : Fin 4) (f : Port → Port) : (s.modPort p f).dram = s.dram := rfl
@[simp] theorem State.modPort_hubWrites (p : Fin 4) (f : Port → Port) : (s.modPort p f).hubWrites = s.hubWrites := rfl
@[simp] theorem State.modPort_hall (p : Fin 4) (f : Port → Port) : (s.modPort p f).hall = s.hall := rfl
@[simp] theorem State.modPort_mcasts (p : Fin 4) (f : Port → Port) : (s.modPort p f).mcasts = s.mcasts := rfl
@[simp] theorem State.modPort_nextMcast (p : Fin 4) (f : Port → Port) : (s.modPort p f).nextMcast = s.nextMcast := rfl
@[simp] theorem State.modPort_land (p : Fin 4) (f : Port → Port) : (s.modPort p f).land = s.land := rfl
@[simp] theorem State.modPort_fenced (p : Fin 4) (f : Port → Port) : (s.modPort p f).fenced = s.fenced := rfl
@[simp] theorem State.modPort_jobs (p : Fin 4) (f : Port → Port) : (s.modPort p f).jobs = s.jobs := rfl
@[simp] theorem State.modPort_trace (p : Fin 4) (f : Port → Port) : (s.modPort p f).trace = s.trace := rfl
@[simp] theorem State.modPort_faults (p : Fin 4) (f : Port → Port) : (s.modPort p f).faults = s.faults := rfl
@[simp] theorem State.modPort_thr (p : Fin 4) (f : Port → Port) : (s.modPort p f).thr = s.thr := rfl
@[simp] theorem State.modPort_porch (p : Fin 4) (f : Port → Port) : (s.modPort p f).porch = s.porch := rfl
@[simp] theorem State.modPort_cel (p : Fin 4) (f : Port → Port) : (s.modPort p f).cel = s.cel := rfl
@[simp] theorem State.modPort_chim (p : Fin 4) (f : Port → Port) : (s.modPort p f).chim = s.chim := rfl
@[simp] theorem State.modPort_win (p : Fin 4) (f : Port → Port) : (s.modPort p f).win = s.win := rfl
@[simp] theorem State.modPort_xspi (p : Fin 4) (f : Port → Port) : (s.modPort p f).xspi = s.xspi := rfl
@[simp] theorem State.modPort_trc (p : Fin 4) (f : Port → Port) : (s.modPort p f).trc = s.trc := rfl
@[simp] theorem State.modPort_pins (p : Fin 4) (f : Port → Port) : (s.modPort p f).pins = s.pins := rfl

@[simp] theorem State.modBar_pending (ch : ChanId) (f : Barrier → Barrier) : (s.modBar ch f).pending = s.pending := rfl
@[simp] theorem State.modBar_free (ch : ChanId) (f : Barrier → Barrier) : (s.modBar ch f).free = s.free := rfl
@[simp] theorem State.modBar_resp (ch : ChanId) (f : Barrier → Barrier) : (s.modBar ch f).resp = s.resp := rfl
@[simp] theorem State.modBar_debugResp (ch : ChanId) (f : Barrier → Barrier) : (s.modBar ch f).debugResp = s.debugResp := rfl
@[simp] theorem State.modBar_regs (ch : ChanId) (f : Barrier → Barrier) : (s.modBar ch f).regs = s.regs := rfl
@[simp] theorem State.modBar_hold (ch : ChanId) (f : Barrier → Barrier) : (s.modBar ch f).hold = s.hold := rfl
@[simp] theorem State.modBar_rooms (ch : ChanId) (f : Barrier → Barrier) : (s.modBar ch f).rooms = s.rooms := rfl
@[simp] theorem State.modBar_pantry (ch : ChanId) (f : Barrier → Barrier) : (s.modBar ch f).pantry = s.pantry := rfl
@[simp] theorem State.modBar_pantryEcc (ch : ChanId) (f : Barrier → Barrier) : (s.modBar ch f).pantryEcc = s.pantryEcc := rfl
@[simp] theorem State.modBar_pantryRewrites (ch : ChanId) (f : Barrier → Barrier) : (s.modBar ch f).pantryRewrites = s.pantryRewrites := rfl
@[simp] theorem State.modBar_pantryPatrol (ch : ChanId) (f : Barrier → Barrier) : (s.modBar ch f).pantryPatrol = s.pantryPatrol := rfl
@[simp] theorem State.modBar_dram (ch : ChanId) (f : Barrier → Barrier) : (s.modBar ch f).dram = s.dram := rfl
@[simp] theorem State.modBar_hubWrites (ch : ChanId) (f : Barrier → Barrier) : (s.modBar ch f).hubWrites = s.hubWrites := rfl
@[simp] theorem State.modBar_hall (ch : ChanId) (f : Barrier → Barrier) : (s.modBar ch f).hall = s.hall := rfl
@[simp] theorem State.modBar_mcasts (ch : ChanId) (f : Barrier → Barrier) : (s.modBar ch f).mcasts = s.mcasts := rfl
@[simp] theorem State.modBar_nextMcast (ch : ChanId) (f : Barrier → Barrier) : (s.modBar ch f).nextMcast = s.nextMcast := rfl
@[simp] theorem State.modBar_ports (ch : ChanId) (f : Barrier → Barrier) : (s.modBar ch f).ports = s.ports := rfl
@[simp] theorem State.modBar_fenced (ch : ChanId) (f : Barrier → Barrier) : (s.modBar ch f).fenced = s.fenced := rfl
@[simp] theorem State.modBar_jobs (ch : ChanId) (f : Barrier → Barrier) : (s.modBar ch f).jobs = s.jobs := rfl
@[simp] theorem State.modBar_trace (ch : ChanId) (f : Barrier → Barrier) : (s.modBar ch f).trace = s.trace := rfl
@[simp] theorem State.modBar_faults (ch : ChanId) (f : Barrier → Barrier) : (s.modBar ch f).faults = s.faults := rfl
@[simp] theorem State.modBar_thr (ch : ChanId) (f : Barrier → Barrier) : (s.modBar ch f).thr = s.thr := rfl
@[simp] theorem State.modBar_porch (ch : ChanId) (f : Barrier → Barrier) : (s.modBar ch f).porch = s.porch := rfl
@[simp] theorem State.modBar_cel (ch : ChanId) (f : Barrier → Barrier) : (s.modBar ch f).cel = s.cel := rfl
@[simp] theorem State.modBar_chim (ch : ChanId) (f : Barrier → Barrier) : (s.modBar ch f).chim = s.chim := rfl
@[simp] theorem State.modBar_win (ch : ChanId) (f : Barrier → Barrier) : (s.modBar ch f).win = s.win := rfl
@[simp] theorem State.modBar_xspi (ch : ChanId) (f : Barrier → Barrier) : (s.modBar ch f).xspi = s.xspi := rfl
@[simp] theorem State.modBar_trc (ch : ChanId) (f : Barrier → Barrier) : (s.modBar ch f).trc = s.trc := rfl
@[simp] theorem State.modBar_pins (ch : ChanId) (f : Barrier → Barrier) : (s.modBar ch f).pins = s.pins := rfl

@[simp] theorem State.setWord_pending (w : Nat) (v : Word64) : (s.setWord w v).pending = s.pending := rfl
@[simp] theorem State.setWord_free (w : Nat) (v : Word64) : (s.setWord w v).free = s.free := rfl
@[simp] theorem State.setWord_resp (w : Nat) (v : Word64) : (s.setWord w v).resp = s.resp := rfl
@[simp] theorem State.setWord_debugResp (w : Nat) (v : Word64) : (s.setWord w v).debugResp = s.debugResp := rfl
@[simp] theorem State.setWord_regs (w : Nat) (v : Word64) : (s.setWord w v).regs = s.regs := rfl
@[simp] theorem State.setWord_hold (w : Nat) (v : Word64) : (s.setWord w v).hold = s.hold := rfl
@[simp] theorem State.setWord_rooms (w : Nat) (v : Word64) : (s.setWord w v).rooms = s.rooms := rfl
@[simp] theorem State.setWord_pantry (w : Nat) (v : Word64) : (s.setWord w v).pantry = s.pantry := rfl
@[simp] theorem State.setWord_pantryEcc (w : Nat) (v : Word64) : (s.setWord w v).pantryEcc = s.pantryEcc := rfl
@[simp] theorem State.setWord_pantryRewrites (w : Nat) (v : Word64) : (s.setWord w v).pantryRewrites = s.pantryRewrites := rfl
@[simp] theorem State.setWord_pantryPatrol (w : Nat) (v : Word64) : (s.setWord w v).pantryPatrol = s.pantryPatrol := rfl
@[simp] theorem State.setWord_dram (w : Nat) (v : Word64) : (s.setWord w v).dram = s.dram := rfl
@[simp] theorem State.setWord_hubWrites (w : Nat) (v : Word64) : (s.setWord w v).hubWrites = s.hubWrites := rfl
@[simp] theorem State.setWord_hall (w : Nat) (v : Word64) : (s.setWord w v).hall = s.hall := rfl
@[simp] theorem State.setWord_mcasts (w : Nat) (v : Word64) : (s.setWord w v).mcasts = s.mcasts := rfl
@[simp] theorem State.setWord_nextMcast (w : Nat) (v : Word64) : (s.setWord w v).nextMcast = s.nextMcast := rfl
@[simp] theorem State.setWord_ports (w : Nat) (v : Word64) : (s.setWord w v).ports = s.ports := rfl
@[simp] theorem State.setWord_fenced (w : Nat) (v : Word64) : (s.setWord w v).fenced = s.fenced := rfl
@[simp] theorem State.setWord_jobs (w : Nat) (v : Word64) : (s.setWord w v).jobs = s.jobs := rfl
@[simp] theorem State.setWord_trace (w : Nat) (v : Word64) : (s.setWord w v).trace = s.trace := rfl
@[simp] theorem State.setWord_faults (w : Nat) (v : Word64) : (s.setWord w v).faults = s.faults := rfl
@[simp] theorem State.setWord_thr (w : Nat) (v : Word64) : (s.setWord w v).thr = s.thr := rfl
@[simp] theorem State.setWord_porch (w : Nat) (v : Word64) : (s.setWord w v).porch = s.porch := rfl
@[simp] theorem State.setWord_cel (w : Nat) (v : Word64) : (s.setWord w v).cel = s.cel := rfl
@[simp] theorem State.setWord_chim (w : Nat) (v : Word64) : (s.setWord w v).chim = s.chim := rfl
@[simp] theorem State.setWord_win (w : Nat) (v : Word64) : (s.setWord w v).win = s.win := rfl
@[simp] theorem State.setWord_xspi (w : Nat) (v : Word64) : (s.setWord w v).xspi = s.xspi := rfl
@[simp] theorem State.setWord_trc (w : Nat) (v : Word64) : (s.setWord w v).trc = s.trc := rfl
@[simp] theorem State.setWord_pins (w : Nat) (v : Word64) : (s.setWord w v).pins = s.pins := rfl

@[simp] theorem State.modJob_pending (j : SlotId) (f : Job → Job) : (s.modJob j f).pending = s.pending := rfl
@[simp] theorem State.modJob_free (j : SlotId) (f : Job → Job) : (s.modJob j f).free = s.free := rfl
@[simp] theorem State.modJob_resp (j : SlotId) (f : Job → Job) : (s.modJob j f).resp = s.resp := rfl
@[simp] theorem State.modJob_debugResp (j : SlotId) (f : Job → Job) : (s.modJob j f).debugResp = s.debugResp := rfl
@[simp] theorem State.modJob_regs (j : SlotId) (f : Job → Job) : (s.modJob j f).regs = s.regs := rfl
@[simp] theorem State.modJob_hold (j : SlotId) (f : Job → Job) : (s.modJob j f).hold = s.hold := rfl
@[simp] theorem State.modJob_rooms (j : SlotId) (f : Job → Job) : (s.modJob j f).rooms = s.rooms := rfl
@[simp] theorem State.modJob_pantry (j : SlotId) (f : Job → Job) : (s.modJob j f).pantry = s.pantry := rfl
@[simp] theorem State.modJob_pantryEcc (j : SlotId) (f : Job → Job) : (s.modJob j f).pantryEcc = s.pantryEcc := rfl
@[simp] theorem State.modJob_pantryRewrites (j : SlotId) (f : Job → Job) : (s.modJob j f).pantryRewrites = s.pantryRewrites := rfl
@[simp] theorem State.modJob_pantryPatrol (j : SlotId) (f : Job → Job) : (s.modJob j f).pantryPatrol = s.pantryPatrol := rfl
@[simp] theorem State.modJob_dram (j : SlotId) (f : Job → Job) : (s.modJob j f).dram = s.dram := rfl
@[simp] theorem State.modJob_hubWrites (j : SlotId) (f : Job → Job) : (s.modJob j f).hubWrites = s.hubWrites := rfl
@[simp] theorem State.modJob_hall (j : SlotId) (f : Job → Job) : (s.modJob j f).hall = s.hall := rfl
@[simp] theorem State.modJob_mcasts (j : SlotId) (f : Job → Job) : (s.modJob j f).mcasts = s.mcasts := rfl
@[simp] theorem State.modJob_nextMcast (j : SlotId) (f : Job → Job) : (s.modJob j f).nextMcast = s.nextMcast := rfl
@[simp] theorem State.modJob_ports (j : SlotId) (f : Job → Job) : (s.modJob j f).ports = s.ports := rfl
@[simp] theorem State.modJob_land (j : SlotId) (f : Job → Job) : (s.modJob j f).land = s.land := rfl
@[simp] theorem State.modJob_fenced (j : SlotId) (f : Job → Job) : (s.modJob j f).fenced = s.fenced := rfl
@[simp] theorem State.modJob_trace (j : SlotId) (f : Job → Job) : (s.modJob j f).trace = s.trace := rfl
@[simp] theorem State.modJob_faults (j : SlotId) (f : Job → Job) : (s.modJob j f).faults = s.faults := rfl
@[simp] theorem State.modJob_thr (j : SlotId) (f : Job → Job) : (s.modJob j f).thr = s.thr := rfl
@[simp] theorem State.modJob_porch (j : SlotId) (f : Job → Job) : (s.modJob j f).porch = s.porch := rfl
@[simp] theorem State.modJob_cel (j : SlotId) (f : Job → Job) : (s.modJob j f).cel = s.cel := rfl
@[simp] theorem State.modJob_chim (j : SlotId) (f : Job → Job) : (s.modJob j f).chim = s.chim := rfl
@[simp] theorem State.modJob_win (j : SlotId) (f : Job → Job) : (s.modJob j f).win = s.win := rfl
@[simp] theorem State.modJob_xspi (j : SlotId) (f : Job → Job) : (s.modJob j f).xspi = s.xspi := rfl
@[simp] theorem State.modJob_trc (j : SlotId) (f : Job → Job) : (s.modJob j f).trc = s.trc := rfl
@[simp] theorem State.modJob_pins (j : SlotId) (f : Job → Job) : (s.modJob j f).pins = s.pins := rfl

@[simp] theorem State.modThr_pending (f : Thr → Thr) : (s.modThr f).pending = s.pending := rfl
@[simp] theorem State.modThr_free (f : Thr → Thr) : (s.modThr f).free = s.free := rfl
@[simp] theorem State.modThr_resp (f : Thr → Thr) : (s.modThr f).resp = s.resp := rfl
@[simp] theorem State.modThr_debugResp (f : Thr → Thr) : (s.modThr f).debugResp = s.debugResp := rfl
@[simp] theorem State.modThr_regs (f : Thr → Thr) : (s.modThr f).regs = s.regs := rfl
@[simp] theorem State.modThr_hold (f : Thr → Thr) : (s.modThr f).hold = s.hold := rfl
@[simp] theorem State.modThr_rooms (f : Thr → Thr) : (s.modThr f).rooms = s.rooms := rfl
@[simp] theorem State.modThr_pantry (f : Thr → Thr) : (s.modThr f).pantry = s.pantry := rfl
@[simp] theorem State.modThr_pantryEcc (f : Thr → Thr) : (s.modThr f).pantryEcc = s.pantryEcc := rfl
@[simp] theorem State.modThr_pantryRewrites (f : Thr → Thr) : (s.modThr f).pantryRewrites = s.pantryRewrites := rfl
@[simp] theorem State.modThr_pantryPatrol (f : Thr → Thr) : (s.modThr f).pantryPatrol = s.pantryPatrol := rfl
@[simp] theorem State.modThr_dram (f : Thr → Thr) : (s.modThr f).dram = s.dram := rfl
@[simp] theorem State.modThr_hubWrites (f : Thr → Thr) : (s.modThr f).hubWrites = s.hubWrites := rfl
@[simp] theorem State.modThr_hall (f : Thr → Thr) : (s.modThr f).hall = s.hall := rfl
@[simp] theorem State.modThr_mcasts (f : Thr → Thr) : (s.modThr f).mcasts = s.mcasts := rfl
@[simp] theorem State.modThr_nextMcast (f : Thr → Thr) : (s.modThr f).nextMcast = s.nextMcast := rfl
@[simp] theorem State.modThr_ports (f : Thr → Thr) : (s.modThr f).ports = s.ports := rfl
@[simp] theorem State.modThr_land (f : Thr → Thr) : (s.modThr f).land = s.land := rfl
@[simp] theorem State.modThr_fenced (f : Thr → Thr) : (s.modThr f).fenced = s.fenced := rfl
@[simp] theorem State.modThr_jobs (f : Thr → Thr) : (s.modThr f).jobs = s.jobs := rfl
@[simp] theorem State.modThr_trace (f : Thr → Thr) : (s.modThr f).trace = s.trace := rfl
@[simp] theorem State.modThr_faults (f : Thr → Thr) : (s.modThr f).faults = s.faults := rfl
@[simp] theorem State.modThr_porch (f : Thr → Thr) : (s.modThr f).porch = s.porch := rfl
@[simp] theorem State.modThr_cel (f : Thr → Thr) : (s.modThr f).cel = s.cel := rfl
@[simp] theorem State.modThr_chim (f : Thr → Thr) : (s.modThr f).chim = s.chim := rfl
@[simp] theorem State.modThr_win (f : Thr → Thr) : (s.modThr f).win = s.win := rfl
@[simp] theorem State.modThr_xspi (f : Thr → Thr) : (s.modThr f).xspi = s.xspi := rfl
@[simp] theorem State.modThr_trc (f : Thr → Thr) : (s.modThr f).trc = s.trc := rfl
@[simp] theorem State.modThr_pins (f : Thr → Thr) : (s.modThr f).pins = s.pins := rfl

@[simp] theorem State.modPorchQ_pending (q : Fin 16) (f : PorchQ → PorchQ) : (s.modPorchQ q f).pending = s.pending := rfl
@[simp] theorem State.modPorchQ_free (q : Fin 16) (f : PorchQ → PorchQ) : (s.modPorchQ q f).free = s.free := rfl
@[simp] theorem State.modPorchQ_resp (q : Fin 16) (f : PorchQ → PorchQ) : (s.modPorchQ q f).resp = s.resp := rfl
@[simp] theorem State.modPorchQ_debugResp (q : Fin 16) (f : PorchQ → PorchQ) : (s.modPorchQ q f).debugResp = s.debugResp := rfl
@[simp] theorem State.modPorchQ_regs (q : Fin 16) (f : PorchQ → PorchQ) : (s.modPorchQ q f).regs = s.regs := rfl
@[simp] theorem State.modPorchQ_hold (q : Fin 16) (f : PorchQ → PorchQ) : (s.modPorchQ q f).hold = s.hold := rfl
@[simp] theorem State.modPorchQ_rooms (q : Fin 16) (f : PorchQ → PorchQ) : (s.modPorchQ q f).rooms = s.rooms := rfl
@[simp] theorem State.modPorchQ_pantry (q : Fin 16) (f : PorchQ → PorchQ) : (s.modPorchQ q f).pantry = s.pantry := rfl
@[simp] theorem State.modPorchQ_pantryEcc (q : Fin 16) (f : PorchQ → PorchQ) : (s.modPorchQ q f).pantryEcc = s.pantryEcc := rfl
@[simp] theorem State.modPorchQ_pantryRewrites (q : Fin 16) (f : PorchQ → PorchQ) : (s.modPorchQ q f).pantryRewrites = s.pantryRewrites := rfl
@[simp] theorem State.modPorchQ_pantryPatrol (q : Fin 16) (f : PorchQ → PorchQ) : (s.modPorchQ q f).pantryPatrol = s.pantryPatrol := rfl
@[simp] theorem State.modPorchQ_dram (q : Fin 16) (f : PorchQ → PorchQ) : (s.modPorchQ q f).dram = s.dram := rfl
@[simp] theorem State.modPorchQ_hubWrites (q : Fin 16) (f : PorchQ → PorchQ) : (s.modPorchQ q f).hubWrites = s.hubWrites := rfl
@[simp] theorem State.modPorchQ_hall (q : Fin 16) (f : PorchQ → PorchQ) : (s.modPorchQ q f).hall = s.hall := rfl
@[simp] theorem State.modPorchQ_mcasts (q : Fin 16) (f : PorchQ → PorchQ) : (s.modPorchQ q f).mcasts = s.mcasts := rfl
@[simp] theorem State.modPorchQ_nextMcast (q : Fin 16) (f : PorchQ → PorchQ) : (s.modPorchQ q f).nextMcast = s.nextMcast := rfl
@[simp] theorem State.modPorchQ_ports (q : Fin 16) (f : PorchQ → PorchQ) : (s.modPorchQ q f).ports = s.ports := rfl
@[simp] theorem State.modPorchQ_land (q : Fin 16) (f : PorchQ → PorchQ) : (s.modPorchQ q f).land = s.land := rfl
@[simp] theorem State.modPorchQ_fenced (q : Fin 16) (f : PorchQ → PorchQ) : (s.modPorchQ q f).fenced = s.fenced := rfl
@[simp] theorem State.modPorchQ_jobs (q : Fin 16) (f : PorchQ → PorchQ) : (s.modPorchQ q f).jobs = s.jobs := rfl
@[simp] theorem State.modPorchQ_trace (q : Fin 16) (f : PorchQ → PorchQ) : (s.modPorchQ q f).trace = s.trace := rfl
@[simp] theorem State.modPorchQ_faults (q : Fin 16) (f : PorchQ → PorchQ) : (s.modPorchQ q f).faults = s.faults := rfl
@[simp] theorem State.modPorchQ_thr (q : Fin 16) (f : PorchQ → PorchQ) : (s.modPorchQ q f).thr = s.thr := rfl
@[simp] theorem State.modPorchQ_cel (q : Fin 16) (f : PorchQ → PorchQ) : (s.modPorchQ q f).cel = s.cel := rfl
@[simp] theorem State.modPorchQ_chim (q : Fin 16) (f : PorchQ → PorchQ) : (s.modPorchQ q f).chim = s.chim := rfl
@[simp] theorem State.modPorchQ_win (q : Fin 16) (f : PorchQ → PorchQ) : (s.modPorchQ q f).win = s.win := rfl
@[simp] theorem State.modPorchQ_xspi (q : Fin 16) (f : PorchQ → PorchQ) : (s.modPorchQ q f).xspi = s.xspi := rfl
@[simp] theorem State.modPorchQ_trc (q : Fin 16) (f : PorchQ → PorchQ) : (s.modPorchQ q f).trc = s.trc := rfl
@[simp] theorem State.modPorchQ_pins (q : Fin 16) (f : PorchQ → PorchQ) : (s.modPorchQ q f).pins = s.pins := rfl

@[simp] theorem State.modCel_pending (f : Cellar → Cellar) : (s.modCel f).pending = s.pending := rfl
@[simp] theorem State.modCel_free (f : Cellar → Cellar) : (s.modCel f).free = s.free := rfl
@[simp] theorem State.modCel_resp (f : Cellar → Cellar) : (s.modCel f).resp = s.resp := rfl
@[simp] theorem State.modCel_debugResp (f : Cellar → Cellar) : (s.modCel f).debugResp = s.debugResp := rfl
@[simp] theorem State.modCel_regs (f : Cellar → Cellar) : (s.modCel f).regs = s.regs := rfl
@[simp] theorem State.modCel_hold (f : Cellar → Cellar) : (s.modCel f).hold = s.hold := rfl
@[simp] theorem State.modCel_rooms (f : Cellar → Cellar) : (s.modCel f).rooms = s.rooms := rfl
@[simp] theorem State.modCel_pantry (f : Cellar → Cellar) : (s.modCel f).pantry = s.pantry := rfl
@[simp] theorem State.modCel_pantryEcc (f : Cellar → Cellar) : (s.modCel f).pantryEcc = s.pantryEcc := rfl
@[simp] theorem State.modCel_pantryRewrites (f : Cellar → Cellar) : (s.modCel f).pantryRewrites = s.pantryRewrites := rfl
@[simp] theorem State.modCel_pantryPatrol (f : Cellar → Cellar) : (s.modCel f).pantryPatrol = s.pantryPatrol := rfl
@[simp] theorem State.modCel_dram (f : Cellar → Cellar) : (s.modCel f).dram = s.dram := rfl
@[simp] theorem State.modCel_hubWrites (f : Cellar → Cellar) : (s.modCel f).hubWrites = s.hubWrites := rfl
@[simp] theorem State.modCel_hall (f : Cellar → Cellar) : (s.modCel f).hall = s.hall := rfl
@[simp] theorem State.modCel_mcasts (f : Cellar → Cellar) : (s.modCel f).mcasts = s.mcasts := rfl
@[simp] theorem State.modCel_nextMcast (f : Cellar → Cellar) : (s.modCel f).nextMcast = s.nextMcast := rfl
@[simp] theorem State.modCel_ports (f : Cellar → Cellar) : (s.modCel f).ports = s.ports := rfl
@[simp] theorem State.modCel_land (f : Cellar → Cellar) : (s.modCel f).land = s.land := rfl
@[simp] theorem State.modCel_fenced (f : Cellar → Cellar) : (s.modCel f).fenced = s.fenced := rfl
@[simp] theorem State.modCel_jobs (f : Cellar → Cellar) : (s.modCel f).jobs = s.jobs := rfl
@[simp] theorem State.modCel_trace (f : Cellar → Cellar) : (s.modCel f).trace = s.trace := rfl
@[simp] theorem State.modCel_faults (f : Cellar → Cellar) : (s.modCel f).faults = s.faults := rfl
@[simp] theorem State.modCel_thr (f : Cellar → Cellar) : (s.modCel f).thr = s.thr := rfl
@[simp] theorem State.modCel_porch (f : Cellar → Cellar) : (s.modCel f).porch = s.porch := rfl
@[simp] theorem State.modCel_chim (f : Cellar → Cellar) : (s.modCel f).chim = s.chim := rfl
@[simp] theorem State.modCel_win (f : Cellar → Cellar) : (s.modCel f).win = s.win := rfl
@[simp] theorem State.modCel_xspi (f : Cellar → Cellar) : (s.modCel f).xspi = s.xspi := rfl
@[simp] theorem State.modCel_trc (f : Cellar → Cellar) : (s.modCel f).trc = s.trc := rfl
@[simp] theorem State.modCel_pins (f : Cellar → Cellar) : (s.modCel f).pins = s.pins := rfl

@[simp] theorem State.modChim_pending (f : Chimney → Chimney) : (s.modChim f).pending = s.pending := rfl
@[simp] theorem State.modChim_free (f : Chimney → Chimney) : (s.modChim f).free = s.free := rfl
@[simp] theorem State.modChim_resp (f : Chimney → Chimney) : (s.modChim f).resp = s.resp := rfl
@[simp] theorem State.modChim_debugResp (f : Chimney → Chimney) : (s.modChim f).debugResp = s.debugResp := rfl
@[simp] theorem State.modChim_regs (f : Chimney → Chimney) : (s.modChim f).regs = s.regs := rfl
@[simp] theorem State.modChim_hold (f : Chimney → Chimney) : (s.modChim f).hold = s.hold := rfl
@[simp] theorem State.modChim_rooms (f : Chimney → Chimney) : (s.modChim f).rooms = s.rooms := rfl
@[simp] theorem State.modChim_pantry (f : Chimney → Chimney) : (s.modChim f).pantry = s.pantry := rfl
@[simp] theorem State.modChim_pantryEcc (f : Chimney → Chimney) : (s.modChim f).pantryEcc = s.pantryEcc := rfl
@[simp] theorem State.modChim_pantryRewrites (f : Chimney → Chimney) : (s.modChim f).pantryRewrites = s.pantryRewrites := rfl
@[simp] theorem State.modChim_pantryPatrol (f : Chimney → Chimney) : (s.modChim f).pantryPatrol = s.pantryPatrol := rfl
@[simp] theorem State.modChim_dram (f : Chimney → Chimney) : (s.modChim f).dram = s.dram := rfl
@[simp] theorem State.modChim_hubWrites (f : Chimney → Chimney) : (s.modChim f).hubWrites = s.hubWrites := rfl
@[simp] theorem State.modChim_hall (f : Chimney → Chimney) : (s.modChim f).hall = s.hall := rfl
@[simp] theorem State.modChim_mcasts (f : Chimney → Chimney) : (s.modChim f).mcasts = s.mcasts := rfl
@[simp] theorem State.modChim_nextMcast (f : Chimney → Chimney) : (s.modChim f).nextMcast = s.nextMcast := rfl
@[simp] theorem State.modChim_ports (f : Chimney → Chimney) : (s.modChim f).ports = s.ports := rfl
@[simp] theorem State.modChim_land (f : Chimney → Chimney) : (s.modChim f).land = s.land := rfl
@[simp] theorem State.modChim_fenced (f : Chimney → Chimney) : (s.modChim f).fenced = s.fenced := rfl
@[simp] theorem State.modChim_jobs (f : Chimney → Chimney) : (s.modChim f).jobs = s.jobs := rfl
@[simp] theorem State.modChim_trace (f : Chimney → Chimney) : (s.modChim f).trace = s.trace := rfl
@[simp] theorem State.modChim_faults (f : Chimney → Chimney) : (s.modChim f).faults = s.faults := rfl
@[simp] theorem State.modChim_thr (f : Chimney → Chimney) : (s.modChim f).thr = s.thr := rfl
@[simp] theorem State.modChim_porch (f : Chimney → Chimney) : (s.modChim f).porch = s.porch := rfl
@[simp] theorem State.modChim_cel (f : Chimney → Chimney) : (s.modChim f).cel = s.cel := rfl
@[simp] theorem State.modChim_win (f : Chimney → Chimney) : (s.modChim f).win = s.win := rfl
@[simp] theorem State.modChim_xspi (f : Chimney → Chimney) : (s.modChim f).xspi = s.xspi := rfl
@[simp] theorem State.modChim_trc (f : Chimney → Chimney) : (s.modChim f).trc = s.trc := rfl
@[simp] theorem State.modChim_pins (f : Chimney → Chimney) : (s.modChim f).pins = s.pins := rfl

@[simp] theorem State.modMcast_pending (id : Nat) (f : Mcast → Mcast) : (s.modMcast id f).pending = s.pending := rfl
@[simp] theorem State.modMcast_free (id : Nat) (f : Mcast → Mcast) : (s.modMcast id f).free = s.free := rfl
@[simp] theorem State.modMcast_resp (id : Nat) (f : Mcast → Mcast) : (s.modMcast id f).resp = s.resp := rfl
@[simp] theorem State.modMcast_debugResp (id : Nat) (f : Mcast → Mcast) : (s.modMcast id f).debugResp = s.debugResp := rfl
@[simp] theorem State.modMcast_regs (id : Nat) (f : Mcast → Mcast) : (s.modMcast id f).regs = s.regs := rfl
@[simp] theorem State.modMcast_hold (id : Nat) (f : Mcast → Mcast) : (s.modMcast id f).hold = s.hold := rfl
@[simp] theorem State.modMcast_rooms (id : Nat) (f : Mcast → Mcast) : (s.modMcast id f).rooms = s.rooms := rfl
@[simp] theorem State.modMcast_pantry (id : Nat) (f : Mcast → Mcast) : (s.modMcast id f).pantry = s.pantry := rfl
@[simp] theorem State.modMcast_pantryEcc (id : Nat) (f : Mcast → Mcast) : (s.modMcast id f).pantryEcc = s.pantryEcc := rfl
@[simp] theorem State.modMcast_pantryRewrites (id : Nat) (f : Mcast → Mcast) : (s.modMcast id f).pantryRewrites = s.pantryRewrites := rfl
@[simp] theorem State.modMcast_pantryPatrol (id : Nat) (f : Mcast → Mcast) : (s.modMcast id f).pantryPatrol = s.pantryPatrol := rfl
@[simp] theorem State.modMcast_dram (id : Nat) (f : Mcast → Mcast) : (s.modMcast id f).dram = s.dram := rfl
@[simp] theorem State.modMcast_hubWrites (id : Nat) (f : Mcast → Mcast) : (s.modMcast id f).hubWrites = s.hubWrites := rfl
@[simp] theorem State.modMcast_hall (id : Nat) (f : Mcast → Mcast) : (s.modMcast id f).hall = s.hall := rfl
@[simp] theorem State.modMcast_nextMcast (id : Nat) (f : Mcast → Mcast) : (s.modMcast id f).nextMcast = s.nextMcast := rfl
@[simp] theorem State.modMcast_ports (id : Nat) (f : Mcast → Mcast) : (s.modMcast id f).ports = s.ports := rfl
@[simp] theorem State.modMcast_land (id : Nat) (f : Mcast → Mcast) : (s.modMcast id f).land = s.land := rfl
@[simp] theorem State.modMcast_fenced (id : Nat) (f : Mcast → Mcast) : (s.modMcast id f).fenced = s.fenced := rfl
@[simp] theorem State.modMcast_jobs (id : Nat) (f : Mcast → Mcast) : (s.modMcast id f).jobs = s.jobs := rfl
@[simp] theorem State.modMcast_trace (id : Nat) (f : Mcast → Mcast) : (s.modMcast id f).trace = s.trace := rfl
@[simp] theorem State.modMcast_faults (id : Nat) (f : Mcast → Mcast) : (s.modMcast id f).faults = s.faults := rfl
@[simp] theorem State.modMcast_thr (id : Nat) (f : Mcast → Mcast) : (s.modMcast id f).thr = s.thr := rfl
@[simp] theorem State.modMcast_porch (id : Nat) (f : Mcast → Mcast) : (s.modMcast id f).porch = s.porch := rfl
@[simp] theorem State.modMcast_cel (id : Nat) (f : Mcast → Mcast) : (s.modMcast id f).cel = s.cel := rfl
@[simp] theorem State.modMcast_chim (id : Nat) (f : Mcast → Mcast) : (s.modMcast id f).chim = s.chim := rfl
@[simp] theorem State.modMcast_win (id : Nat) (f : Mcast → Mcast) : (s.modMcast id f).win = s.win := rfl
@[simp] theorem State.modMcast_xspi (id : Nat) (f : Mcast → Mcast) : (s.modMcast id f).xspi = s.xspi := rfl
@[simp] theorem State.modMcast_trc (id : Nat) (f : Mcast → Mcast) : (s.modMcast id f).trc = s.trc := rfl
@[simp] theorem State.modMcast_pins (id : Nat) (f : Mcast → Mcast) : (s.modMcast id f).pins = s.pins := rfl

@[simp] theorem State.addFault_pending (f : FaultEvent) : (s.addFault f).pending = s.pending := rfl
@[simp] theorem State.addFault_free (f : FaultEvent) : (s.addFault f).free = s.free := rfl
@[simp] theorem State.addFault_resp (f : FaultEvent) : (s.addFault f).resp = s.resp := rfl
@[simp] theorem State.addFault_debugResp (f : FaultEvent) : (s.addFault f).debugResp = s.debugResp := rfl
@[simp] theorem State.addFault_regs (f : FaultEvent) : (s.addFault f).regs = s.regs := rfl
@[simp] theorem State.addFault_hold (f : FaultEvent) : (s.addFault f).hold = s.hold := rfl
@[simp] theorem State.addFault_rooms (f : FaultEvent) : (s.addFault f).rooms = s.rooms := rfl
@[simp] theorem State.addFault_pantry (f : FaultEvent) : (s.addFault f).pantry = s.pantry := rfl
@[simp] theorem State.addFault_pantryEcc (f : FaultEvent) : (s.addFault f).pantryEcc = s.pantryEcc := rfl
@[simp] theorem State.addFault_pantryRewrites (f : FaultEvent) : (s.addFault f).pantryRewrites = s.pantryRewrites := rfl
@[simp] theorem State.addFault_pantryPatrol (f : FaultEvent) : (s.addFault f).pantryPatrol = s.pantryPatrol := rfl
@[simp] theorem State.addFault_dram (f : FaultEvent) : (s.addFault f).dram = s.dram := rfl
@[simp] theorem State.addFault_hubWrites (f : FaultEvent) : (s.addFault f).hubWrites = s.hubWrites := rfl
@[simp] theorem State.addFault_hall (f : FaultEvent) : (s.addFault f).hall = s.hall := rfl
@[simp] theorem State.addFault_mcasts (f : FaultEvent) : (s.addFault f).mcasts = s.mcasts := rfl
@[simp] theorem State.addFault_nextMcast (f : FaultEvent) : (s.addFault f).nextMcast = s.nextMcast := rfl
@[simp] theorem State.addFault_ports (f : FaultEvent) : (s.addFault f).ports = s.ports := rfl
@[simp] theorem State.addFault_land (f : FaultEvent) : (s.addFault f).land = s.land := rfl
@[simp] theorem State.addFault_fenced (f : FaultEvent) : (s.addFault f).fenced = s.fenced := rfl
@[simp] theorem State.addFault_jobs (f : FaultEvent) : (s.addFault f).jobs = s.jobs := rfl
@[simp] theorem State.addFault_trace (f : FaultEvent) : (s.addFault f).trace = s.trace := rfl
@[simp] theorem State.addFault_thr (f : FaultEvent) : (s.addFault f).thr = s.thr := rfl
@[simp] theorem State.addFault_porch (f : FaultEvent) : (s.addFault f).porch = s.porch := rfl
@[simp] theorem State.addFault_cel (f : FaultEvent) : (s.addFault f).cel = s.cel := rfl
@[simp] theorem State.addFault_chim (f : FaultEvent) : (s.addFault f).chim = s.chim := rfl
@[simp] theorem State.addFault_win (f : FaultEvent) : (s.addFault f).win = s.win := rfl
@[simp] theorem State.addFault_xspi (f : FaultEvent) : (s.addFault f).xspi = s.xspi := rfl
@[simp] theorem State.addFault_trc (f : FaultEvent) : (s.addFault f).trc = s.trc := rfl
@[simp] theorem State.addFault_pins (f : FaultEvent) : (s.addFault f).pins = s.pins := rfl

/-! ## Elements of vectors -/

@[simp] theorem vget_set_same {α : Type} {n : Nat} (v : Vector α n) (i : Fin n) (x : α) : (v.set i.val x i.isLt).get i = x := by
  show (v.set i.val x i.isLt)[i.val]'i.isLt = x
  simp

theorem vget_set_ne {α : Type} {n : Nat} (v : Vector α n) {i j : Fin n} (x : α) (h : j ≠ i) :
    (v.set i.val x i.isLt).get j = v.get j := by
  show (v.set i.val x i.isLt)[j.val]'j.isLt = v[j.val]'j.isLt
  rw [Vector.getElem_set_ne]
  intro e; exact h (Fin.ext e.symm)

@[simp] theorem vget_replicate {α : Type} {n : Nat} (i : Fin n) (x : α) : (Vector.replicate n x).get i = x := by
  show (Vector.replicate n x)[i.val]'i.isLt = x
  simp

/-! ## Rooms, jobs, ports, channels -/

@[simp] theorem State.modRoom_room (r : RoomId) (f : Room → Room) : (s.modRoom r f).room r = f (s.room r) := vget_set_same _ _ _

theorem State.modRoom_room_ne {r q : RoomId} (f : Room → Room) (h : q ≠ r) : (s.modRoom r f).room q = s.room q := vget_set_ne _ _ h

@[simp] theorem State.modStew_room (r : RoomId) (f : Stew → Stew) :
    (s.modStew r f).room r = { s.room r with stew := f (s.room r).stew } := vget_set_same _ _ _

theorem State.modStew_room_ne {r q : RoomId} (f : Stew → Stew) (h : q ≠ r) : (s.modStew r f).room q = s.room q := vget_set_ne _ _ h

@[simp] theorem State.modStew_modStew (r : RoomId) (f g : Stew → Stew) :
    (s.modStew r f).modStew r g = s.modStew r (fun w => g (f w)) := by
  simp [State.modStew, State.modRoom]

@[simp] theorem State.modRoom_modRoom (r : RoomId) (f g : Room → Room) :
    (s.modRoom r f).modRoom r g = s.modRoom r (fun m => g (f m)) := by
  simp [State.modRoom]

@[simp] theorem State.modJob_job (j : SlotId) (f : Job → Job) : (s.modJob j f).job j = f (s.job j) := vget_set_same _ _ _

theorem State.modJob_job_ne {j k : SlotId} (f : Job → Job) (h : k ≠ j) : (s.modJob j f).job k = s.job k := vget_set_ne _ _ h

@[simp] theorem State.modPort_port (p : Fin 4) (f : Port → Port) : (s.modPort p f).ports.get p = f (s.ports.get p) := vget_set_same _ _ _

@[simp] theorem State.modBar_bar (ch : ChanId) (f : Barrier → Barrier) : (s.modBar ch f).bar ch = f (s.bar ch) := vget_set_same _ _ _

theorem State.modBar_bar_ne {ch k : ChanId} (f : Barrier → Barrier) (h : k ≠ ch) : (s.modBar ch f).bar k = s.bar k := vget_set_ne _ _ h

theorem State.room_eq {a b : State} (h : a.rooms = b.rooms) (r : RoomId) : a.room r = b.room r := by
  simp [State.room, h]

end Sys2Proof.Machine
end

