-- ==== Sys2Proof/Laws/Registers.lean ====
section
/-! SUPPORT. The laws of the register store: a register reads as it was last written, and a write leaves every other one alone. -/

namespace Sys2Proof.Machine

/-- A register reads as it was written. -/
@[simp] theorem State.reg_setReg_same (s : State) (k : Nat) (v : Word) : (s.setReg k v).reg k = v := sget_sset_same s.regs k v

/-- A write of a register leaves every other one alone. -/
theorem State.reg_setReg_ne (s : State) {k j : Nat} (v : Word) (h : j ≠ k) : (s.setReg k v).reg j = s.reg j :=
  sget_sset_ne s.regs v h

/-- Registers depend on the register store alone. -/
theorem State.reg_eq {a b : State} (h : a.regs = b.regs) (k : Nat) : a.reg k = b.reg k := by simp [State.reg, h]

/-- The field of a register that has been replaced. -/
theorem bitsOf_setBits_same (v lo w x : Nat) : bitsOf (setBits v lo w x) lo w = x % 2 ^ w := by
  have p : 0 < 2 ^ lo := Nat.two_pow_pos lo
  have e : setBits v lo w x = (v / 2 ^ (lo + w) * 2 ^ w + x % 2 ^ w) * 2 ^ lo + v % 2 ^ lo := by
    simp only [setBits, Nat.add_mul, Nat.pow_add, Nat.mul_assoc, Nat.mul_comm (2 ^ w) (2 ^ lo)]
  rw [bitsOf, e, Nat.add_comm, Nat.add_mul_div_right _ _ p, Nat.div_eq_of_lt (Nat.mod_lt _ p), Nat.zero_add,
    Nat.add_comm, Nat.add_mul_mod_self_right, Nat.mod_mod]

end Sys2Proof.Machine
end

