-- ==== Sys2Proof/Laws/Invariants.lean ====
section
/-! SUPPORT. The invariants under the updates that a step is made of: a write of a register and a change of a room. -/

namespace Sys2Proof.Machine

/-- An entry of a list in which a key has been set is the key's or one from before. -/
theorem mem_sset {α : Type} [DecidableEq α] {d : α} {m : List (Nat × α)} {a : Nat} {v : α} {e : Nat × α} (h : e ∈ sset d m a v) :
    (e = (a, v) ∧ v ≠ d) ∨ e ∈ m := by
  induction m with
  | nil =>
    simp only [sset] at h
    split at h
    · cases h
    · exact .inl ⟨List.mem_singleton.mp h, by assumption⟩
  | cons x t ih =>
    obtain ⟨k, w⟩ := x
    by_cases hv : v = d
    · simp only [sset, if_pos hv] at h
      refine .inr ?_
      split at h
      · exact List.mem_cons_of_mem _ ((List.dropWhile_sublist _).subset h)
      · split at h
        · exact h
        · rcases List.mem_cons.mp h with rfl | h
          · exact List.mem_cons_self
          · exact List.mem_cons_of_mem _ ((ih h).resolve_left (fun n => n.2 hv))
    · simp only [sset, if_neg hv] at h
      split at h
      · exact (List.mem_cons.mp h).imp (fun n => ⟨n, hv⟩) (List.mem_cons_of_mem _)
      · split at h
        · exact (List.mem_cons.mp h).imp (fun n => ⟨n, hv⟩) id
        · rcases List.mem_cons.mp h with rfl | h
          · exact .inr List.mem_cons_self
          · exact (ih h).imp id (List.mem_cons_of_mem _)

/-- Setting a key keeps the keys rising. -/
theorem pairwise_sset {α : Type} [DecidableEq α] {d : α} {m : List (Nat × α)} (a : Nat) (v : α) (h : m.Pairwise (fun x y => x.1 < y.1)) :
    (sset d m a v).Pairwise (fun x y => x.1 < y.1) := by
  induction m with
  | nil => simp only [sset]; split <;> simp
  | cons x t ih =>
    obtain ⟨k, w⟩ := x
    have ht := List.pairwise_cons.mp h
    simp only [sset]
    split
    next e =>
      subst e
      split
      · exact ht.2.sublist (List.dropWhile_sublist _)
      · exact List.pairwise_cons.mpr ⟨ht.1, ht.2⟩
    next ne =>
      split
      next l =>
        split
        · exact h
        · refine List.pairwise_cons.mpr ⟨fun y hy => ?_, h⟩
          rcases List.mem_cons.mp hy with rfl | hy
          · exact l
          · exact Nat.lt_trans l (ht.1 y hy)
      next nl =>
        refine List.pairwise_cons.mpr ⟨fun y hy => ?_, ih ht.2⟩
        rcases mem_sset hy with ⟨rfl, _⟩ | hy
        · exact Nat.lt_of_le_of_ne (Nat.not_lt.mp nl) (fun e => ne e.symm)
        · exact ht.1 y hy

/-- A write of a register keeps the registers' canonical form. -/
theorem regsWf_sset {m : List (Nat × Word)} (k : Nat) (v : Word) (h : regsWf m) : regsWf (sset (regReset k) m k v) := by
  refine ⟨pairwise_sset k v h.1, fun e he => ?_⟩
  rcases mem_sset he with ⟨rfl, n⟩ | he
  · exact n
  · exact h.2 e he

/-- A write of a register keeps the stores as they are. -/
theorem MemoryInv.setReg {s : State} (h : MemoryInv s) (k : Nat) (v : Word) : MemoryInv (s.setReg k v) :=
  { h with regs := regsWf_sset k v h.regs }

/-- A write of a register leaves the bounds as they are. -/
theorem BoundsInv.setReg {s : State} (h : BoundsInv s) (k : Nat) (v : Word) : BoundsInv (s.setReg k v) := { h with }

/-- A change of a room that keeps its stores' forms keeps those of the block. -/
theorem MemoryInv.modRoom {s : State} (h : MemoryInv s) (r : RoomId) (f : Room → Room)
    (k : let m := f (s.room r); m.shelf.wf = true ∧ m.chest.wf = true ∧ m.lamp.wf = true ∧ m.parlour.wf = true ∧ m.icache.wf = true) :
    MemoryInv (s.modRoom r f) := by
  refine { h with rooms := fun q => ?_ }
  by_cases e : q = r
  · subst e
    rw [State.modRoom_room]
    exact k
  · rw [State.modRoom_room_ne _ _ e]
    exact h.rooms q

end Sys2Proof.Machine
end

