-- ==== Sys2Proof/Laws/Progress.lean ====
section
/-! SUPPORT. What the forms of a command leave alone, and that nothing goes on in a room where nothing waits. -/

namespace Sys2Proof.Machine

/-! ## Forms of a command -/

@[simp] theorem sealed_pending (k : State → State) (s : State) : (sealed k s).pending = s.pending := rfl
@[simp] theorem sealed_pins (k : State → State) (s : State) : (sealed k s).pins = s.pins := rfl
@[simp] theorem sealed_up (k : State → State) (s : State) : (sealed k s).up = s.up := rfl
@[simp] theorem sealed_rooms (k : State → State) (s : State) : (sealed k s).rooms = (k s).rooms := rfl
@[simp] theorem sealed_regs (k : State → State) (s : State) : (sealed k s).regs = (k s).regs := rfl

/-- A change of the block that leaves the queue and the pins alone is sealed as it is. -/
theorem sealed_eq {k : State → State} {s : State} (hp : (k s).pending = s.pending) (hq : (k s).pins = s.pins) : sealed k s = k s := by
  simp only [sealed, ← hp, ← hq]

theorem inBlock_up {k : State → State} {s : State} (h : s.up = true) : inBlock k s = .next (sealed k s) := by simp [inBlock, h]
theorem inBlock_down {k : State → State} {s : State} (h : s.up = false) : inBlock k s = .next s := by simp [inBlock, h]
theorem atPort_up {o : Nat} {k : State → State} {s : State} (h : s.up = true) : atPort o k s = .next (sealed k s) := by simp [atPort, h]
theorem atPort_down {o : Nat} {k : State → State} {s : State} (h : s.up = false) : atPort o k s = .next (stubAnswer o s) := by
  simp [atPort, h]

/-- A control access that is served. -/
theorem access_served {c : Ctx} {off be : Nat} {w : Bool} {k : State → State} {s : State} (h : refuses s c off be w = false) :
    access c off be w k s = k s := by simp [access, h]

/-- A control access that is refused changes the response alone. -/
theorem access_refused {c : Ctx} {off be : Nat} {w : Bool} {k : State → State} {s : State} (h : refuses s c off be w = true) :
    access c off be w k s = refuse s := by simp [access, h]

/-! ## Rooms in which nothing waits -/

theorem pump_quiet {r : RoomId} {s : State} (h : (s.room r).quiet) : pump r s = s := by
  have e (q) := (h q).1
  simp [pump, pumpUnit, pumpDw, queueDepth, e]

theorem settle_quiet {r : RoomId} {s : State} (h : (s.room r).quiet) (w : (s.room r).stew.waiting = .nothing)
    (n : ((s.room r).stew.held && (s.room r).stew.stepping) = false) : settle r s = s := by
  have n' : ((s.room r).stew.held = true → (s.room r).stew.stepping = false) := by simpa using n
  simp only [settle, pump_quiet h, retry, w]
  split
  · exact pump_quiet h
  · split
    · next x => simp_all
    · exact pump_quiet h

theorem settle_still {r : RoomId} {s : State} (h : RoomStill (s.room r)) : settle r s = s :=
  settle_quiet h.quiet h.waiting (by simp [h.stepping])

theorem foldl_still {α β : Type} (f : β → α → β) (b : β) (h : ∀ a, f b a = b) (l : List α) : l.foldl f b = b := by
  induction l with
  | nil => rfl
  | cons x t ih => rw [List.foldl_cons, h]; exact ih

theorem settleAll_still {s : State} (h : s.still) : settleAll s = s := by
  have one : ∀ r, (fun (s : State) r => settle r s) s r = s := fun r => settle_still (h r)
  unfold settleAll
  generalize List.finRange 32 = l
  exact foldl_still (fun s r => settle r s) s one l

theorem dwRunAll_still {s : State} (h : s.still) : dwRunAll s = s := by
  have one (r : RoomId) (l : List (Fin 4)) :
      l.foldl (fun s ch => if ((s.room r).chan ch).isSome then dwRun r ch s else s) s = s :=
    foldl_still (fun s ch => if ((s.room r).chan ch).isSome then dwRun r ch s else s) s (fun ch => by simp [(h r).chans ch]) l
  unfold dwRunAll
  generalize List.finRange 32 = l
  generalize List.finRange 4 = l'
  exact foldl_still (fun s r => l'.foldl (fun s ch => if ((s.room r).chan ch).isSome then dwRun r ch s else s) s) s (fun r => one r l') l

/-- Nothing goes on in a block where nothing waits. -/
theorem goOn_still {s : State} (h : s.still) : goOn s = s := by simp [goOn, dwRunAll_still h, settleAll_still h]

/-- Stillness depends on the rooms alone. -/
theorem still_of_rooms {s t : State} (h : t.rooms = s.rooms) (hs : s.still) : t.still := fun r => by
  simpa [State.room, h] using hs r

/-! ## Issue -/

/-- No breakpoint acts in a room whose job is not in debug. -/
theorem meetBreakpoint_plain {r : RoomId} {s : State} (h : roomDebug s r = false) : meetBreakpoint r s = (true, s) := by
  simp [meetBreakpoint, h]

/-- An instruction that a ready room takes up, and after which the room has nothing that waits: the state is the one that the
instruction leaves. -/
theorem issue_ready {r : RoomId} {f : Fis} {s t : State} (h : RoomReady s r) (ht : doFis r f s = .ok () t)
    (hq : (t.room r).quiet) (w : (t.room r).stew.waiting = .nothing) (hh : (t.room r).stew.held = false) : issue r f s = t := by
  have hc : ¬ (s.room r).stew.codeBase + (s.room r).stew.codeLen ≤ (s.room r).stew.pc := by have := h.inCode; omega
  simp [issue, h.can, h.free, issueOne, meetBreakpoint_plain h.plain, takeUp, hc, runOp, ht, settle_quiet hq w (by simp [hh])]

/-- The same for an instruction that raises a fault. -/
theorem issue_fault {r : RoomId} {f : Fis} {s t : State} {e : Err} (h : RoomReady s r) (ht : doFis r f s = .error e t)
    (hq : (t.room r).quiet) (hh : (t.room r).stew.held = false) : issue r f s = raise r (s.room r).stew.pc e t := by
  have hc : ¬ (s.room r).stew.codeBase + (s.room r).stew.codeLen ≤ (s.room r).stew.pc := by have := h.inCode; omega
  have hr : ((raise r (s.room r).stew.pc e t).room r) =
      { t.room r with stew := { (t.room r).stew with running := false, stall := .none, waiting := .nothing } } := by
    show ((t.modStew r _).addFault _).room r = _
    rw [State.room_eq (a := (t.modStew r _).addFault _) (b := t.modStew r _) rfl]
    simp
  have hi : issue r f s = settle r (raise r (s.room r).stew.pc e t) := by
    simp [issue, h.can, h.free, issueOne, meetBreakpoint_plain h.plain, takeUp, hc, runOp, ht]
  rw [hi]
  exact settle_quiet (by rw [hr]; exact hq) (by rw [hr]) (by rw [hr]; simp [hh])

/-- A sampler that is off sees nothing: an issue is counted, and that is all. -/
theorem noteIssue_off {r : RoomId} {f : Fis} {p : Bool} {e : Ends} {s : State}
    (h : s.fld (rreg r Reg.winSampCtl) 0 1 = 0) : noteIssue r f p e s = s.modRoom r (fun m => { m with issues := m.issues + 1 }) := by
  have h' : (s.modRoom r (fun m => { m with issues := m.issues + 1 })).fld (rreg r Reg.winSampCtl) 0 1 = 0 := h
  simp [noteIssue, sampleIssue, h']

end Sys2Proof.Machine
end

