-- ==== Sys2Proof/Laws/Ops.lean ====
section
/-! SUPPORT. What the shared operations over the stores can do: each answers in one way where no word of the store is in error, and a
choice is one of its candidates. -/

namespace Sys2Proof.Machine

/-- No word of a store without errors is in error. -/
theorem eccHits_none {r : Option RoomId} {st : Store} {off n : Nat} {s : State} (h : s.eccOf r st = []) : eccHits s r st off n = [] := by
  simp [eccHits, h, sortBy]

/-- A read meets no error in a store that has none. -/
theorem eccRead_none {r : Option RoomId} {st : Store} {off n : Nat} {s : State} (h : s.eccOf r st = []) : eccRead r st off n s = .ok () s := by
  simp [eccRead, eccHits_none h, bind, EStateM.bind, get, getThe, MonadStateOf.get, EStateM.get, set, MonadStateOf.set, EStateM.set]

/-- A write meets no error in a store that has none. -/
theorem eccWrite_none {r : Option RoomId} {st : Store} {off n : Nat} {s : State} (h : s.eccOf r st = []) : eccWrite r st off n s = .ok () s := by
  unfold eccWrite
  split
  · rfl
  · split <;> split <;>
      simp [eccRead_none h, h, bind, EStateM.bind, modify, modifyGet, MonadStateOf.modifyGet, EStateM.modifyGet]

/-- Reading bytes of a store without errors gives its bytes, and changes nothing. -/
theorem loadBytes_none {r : Option RoomId} {st : Store} {off n : Nat} {s : State} (h : s.eccOf r st = []) :
    loadBytes r st off n s = .ok ((s.mem r st).bytes off n) s := by
  simp [loadBytes, eccRead_none h, bind, EStateM.bind, get, getThe, MonadStateOf.get, EStateM.get, pure, EStateM.pure]

/-- Writing bytes to a store without errors, other than the Lamp tables, puts them at their place and changes nothing else. -/
theorem storeBytes_none {r : Option RoomId} {st : Store} {off : Nat} {bs : List Byte} {s : State} (h : s.eccOf r st = []) (l : st ≠ .lamp) :
    storeBytes r st off bs s = .ok () (s.setMem r st ((s.mem r st).putBytes off bs)) := by
  cases r <;> cases st <;>
    simp_all [storeBytes, keptBytes, eccWrite_none, bind, EStateM.bind, modify, modifyGet, MonadStateOf.modifyGet, EStateM.modifyGet]

/-- A choice is one of its candidates, and takes at most the next free choice. -/
theorem pickOf_mem {α : Type} {l : List α} (s : State) (h : l ≠ []) : ∃ x ∈ l, (pickOf l s).1 = some x ∧
    ((pickOf l s).2 = s ∨ (pickOf l s).2 = { s with free := s.free + 1 }) := by
  unfold pickOf
  split
  · exact absurd rfl h
  · exact ⟨_, List.mem_singleton_self _, rfl, .inl rfl⟩
  · next _ _ =>
    have hl : 0 < l.length := List.length_pos_iff.mpr h
    refine ⟨l[Config.pick s.free % l.length]'(Nat.mod_lt _ hl), List.getElem_mem _, ?_, .inr rfl⟩
    simp [pickFree, List.getElem?_eq_getElem (Nat.mod_lt _ hl)]

/-- Of no candidate there is no choice. -/
@[simp] theorem pickOf_nil {α : Type} (s : State) : pickOf ([] : List α) s = (none, s) := rfl
/-- Of one candidate it is that one. -/
@[simp] theorem pickOf_one {α : Type} (x : α) (s : State) : pickOf [x] s = (some x, s) := rfl

/-- A logical room that the map gives and that is not fenced is the physical room that the map names (R17, R19). -/
theorem mapRoom_ok {r p : RoomId} {l a : Nat} {s : State} (v : bitAt (s.reg (rreg r Reg.roomMapi + 4 * l)).toNat 5 = true)
    (h : Fin.ofNat 32 (bitsOf (s.reg (rreg r Reg.roomMapi + 4 * l)).toNat 0 5) = p) (f : s.fenced.getLsbD p.val = false) :
    mapRoom r l a s = .ok p s := by
  subst h
  simp_all [mapRoom, bind, EStateM.bind, get, getThe, MonadStateOf.get, EStateM.get, pure, EStateM.pure]

/-- Mapping a logical room changes nothing. -/
theorem mapRoom_state {r p : RoomId} {l a : Nat} {s t : State} (h : mapRoom r l a s = .ok p t) : t = s := by
  simp only [mapRoom, bind, EStateM.bind, get, getThe, MonadStateOf.get, EStateM.get] at h
  split at h
  · cases h
  · split at h
    · cases h; rfl
    · cases h

/-- An address names the bytes of one place, and decoding it changes nothing. -/
theorem decodeAddr_state {r : RoomId} {a n : Nat} {s t : State} {p : Place} (h : decodeAddr r a n s = .ok p t) : t = s := by
  unfold decodeAddr at h
  generalize bitsOf a 30 2 = m at h
  match m, h with
  | 0, h =>
    dsimp only at h
    generalize regionStore (bitsOf a 21 4) = q at h
    match q, h with
    | none, h => cases h
    | some st, h =>
      by_cases c : bitsOf a 0 21 + n > Store.size st
      · simp only [c, if_true] at h; cases h
      · simp only [c, if_false, bind, EStateM.bind] at h
        split at h
        · next e => cases h; exact mapRoom_state e
        · cases h
  | 1, h =>
    by_cases c : bitsOf a 0 30 + n > Store.size .pantry
    · simp only [c, if_true] at h; cases h
    · simp only [c, if_false] at h; cases h; rfl
  | 2, h =>
    by_cases c : bitsOf a 13 17 ≠ 0 ∨ bitsOf a 0 3 ≠ 0
    · simp only [c, if_true] at h; cases h
    · simp only [c, if_false] at h; cases h; rfl
  | _ + 3, h => cases h

end Sys2Proof.Machine
end

