-- ==== Sys2Proof/Tests/Slice0.lean ====
section
/-! SUPPORT. Tests: ill-formed commands that the checks refuse, instruction words read bit by bit, single commands on small states, and a
witness for the hypotheses of each statement. -/

open Sys2Proof Sys2Proof.Machine

namespace Sys2Proof.Tests

set_option Elab.async false

/-! ## Small states -/

/-- A block that is up and ready. -/
def up : State := { regs := [(Reg.porchStatus, 1)], pins := { cold := false } }

/-- A block that is ready, with some registers set. -/
def upWith (l : List (Nat × Word)) : State := l.foldl (fun s x => s.setReg x.1 x.2) up

/-- A block with a room in which nothing waits and whose Steward runs code of eight instructions; its logical rooms 0 and 1 are itself
and room 1. -/
def on (r : RoomId) (f : Room → Room) : State :=
  (upWith [(rreg r Reg.roomMapi, 32 + BitVec.ofNat 32 r.val), (rreg r Reg.roomMapi + 4, 33)]).modRoom r (fun m => f { m with power := .on, stew := { m.stew with running := true, codeLen := 64 } })

/-- The same with something done to its Steward. -/
def runs (r : RoomId) (f : Stew → Stew) : State := on r (fun m => { m with stew := f m.stew })

/-- A format-U instruction with only an immediate. -/
def uimm (n : BitVec 24) : FmtU := ⟨0, 0, 0, 7, 0, false, false, 0, n⟩

/-- A format-U instruction with its three registers and an immediate. -/
def uabc (a b c : BitVec 4) (n : BitVec 24) : FmtU := ⟨a, b, c, 7, 0, false, false, 0, n⟩

/-- What an operation answers, or another value where it stops. -/
def resOf {α : Type} (k : Op α) (s : State) (d : α) : α := match k s with | .ok a _ => a | .error .. => d

/-- The state that an operation leaves. -/
def stOf {α : Type} (k : Op α) (s : State) : State := match k s with | .ok _ t => t | .error _ t => t

/-- Whether an operation answers. -/
def goes {α : Type} (k : Op α) (s : State) : Bool := match k s with | .ok .. => true | .error .. => false

theorem goes_ok {α : Type} {k : Op α} {s : State} (d : α) (h : goes k s = true) : k s = .ok (resOf k s d) (stOf k s) := by
  unfold goes at h; unfold resOf stOf; split at h <;> simp_all

theorem goes_unit {k : Op Unit} {s : State} (h : goes k s = true) : k s = .ok () (stOf k s) := goes_ok () h

/-- What a ready room is, as a check. -/
def readyB (s : State) (r : RoomId) : Bool :=
  s.up && canIssue s r && !(s.room r).stew.held && !roomDebug s r && decide (s.fld (rreg r Reg.winSampCtl) 0 1 = 0) &&
  decide (∀ q : Fin 5, ((s.room r).queue q).entries = [] ∧ ((s.room r).queue q).active = none ∧ ((s.room r).queue q).beside = none) &&
  decide ((s.room r).stew.pc < (s.room r).stew.codeBase + (s.room r).stew.codeLen)

theorem ready_of {s : State} {r : RoomId} (h : readyB s r = true) : RoomReady s r := by
  simp only [readyB, Bool.and_eq_true, decide_eq_true_eq, Bool.not_eq_true'] at h
  obtain ⟨⟨⟨⟨⟨⟨a, b⟩, c⟩, d⟩, e⟩, f⟩, g⟩ := h
  exact ⟨a, b, c, d, e, f, g⟩

/-- What a format-U instruction that is taken up is, as a check. -/
def ureadyB (s : State) (r : RoomId) (u : FmtU) (p : UShape) : Bool :=
  readyB s r && p.ok u && predOn (s.room r) u && tallyOk (s.room r) (waitOf (s.room r) u)

theorem uready_of {s : State} {r : RoomId} {u : FmtU} {p : UShape} (h : ureadyB s r u p = true) : UReady s r u p := by
  simp only [ureadyB, Bool.and_eq_true] at h
  exact ⟨ready_of h.1.1.1, h.1.1.2, h.1.2, h.2⟩

theorem serves_of {s : State} {c : Ctx} {off : Nat} {w : Bool} (h : (s.up && !refuses s c off 0xF w) = true) : Serves s c off w := by
  simp only [Bool.and_eq_true, Bool.not_eq_true'] at h
  exact ⟨h.1, h.2⟩

/-- The entry of a unit's instruction with the words of its operands. -/
def entryFor (row : UnitRow) (s : State) (r : RoomId) (u : FmtU) : QEntry :=
  let v := row.prep u
  let k (x : UField) (y : BitVec 4) : List Nat := resOf (captureField (s.room r) (row.fis v) v x y) s []
  entryOf s r (row.fis v) v (k row.shape.ra v.ra) (k row.shape.rb v.rb) (k row.shape.rc v.rc)

/-- The state in which a unit begins an instruction. -/
def begunFor (row : UnitRow) (s : State) (r : RoomId) (u : FmtU) : State := s.begun r row.queue (entryFor row s r u)

/-! ## Ill-formed commands -/

/-- One ill-formed command for each check: a write tag of 128, a step time of 2²⁴, a Shelf word past its last, a THR_CMD op that has a
command of its own, host bytes at 2⁴⁸, a Ledger page of 2³², no tied faults, a part of too few sectors, no droop edge, a room twice in
one tick, 17 event counts, an event above what a room cycle counts and one that it has from the state, and unaligned accesses. -/
theorem test_ill_formed_commands_are_refused :
    (Instr.tagGrant 0 true 128).wf = false ∧ (Instr.scheduleBreach 0 0 0x1000000).wf = false ∧ (Instr.eccRewrite 0 0 131072).wf = false ∧
    (Instr.thrCmdInvalidOp 0 5).wf = false ∧ (Instr.thrFeed 0 0 [(2 ^ 48, 1)]).wf = false ∧ (Instr.doorbell 0 0 0 [(2 ^ 48, 1)]).wf = false ∧
    (Instr.writeSlot 0 [(2 ^ 48, 1)]).wf = false ∧ (Instr.writeCal 0 [(2 ^ 48, 1)]).wf = false ∧ (Instr.spillPrefetch 0 (2 ^ 32)).wf = false ∧
    (Instr.jobFault 0 0).wf = false ∧ (Instr.porchWarmReset 0 0 ⟨true, 8191, 0, 0, 0, 0, 0, true⟩).wf = false ∧
    (Instr.coldResetRelease ⟨true, 8191, 0, 0, 0, 0, 0, true⟩).wf = false ∧ (Instr.warmReset ⟨true, 8191, 0, 0, 0, 0, 0, true⟩).wf = false ∧
    (Instr.droopStretch 0 0).wf = false ∧ (Instr.roomLoopTick [(3, 1), (3, 2)] []).wf = false ∧
    (Instr.roomLoopTick [] [(3, []), (3, [])]).wf = false ∧ (Instr.budgetTick [(3, []), (3, [])] 0).wf = false ∧
    (Instr.budgetTick [(3, List.replicate 17 1)] 0).wf = false ∧ (Instr.lowWordRead ⟨.control 0, 0xF⟩ 2).wf = false ∧
    (Instr.roomLoopTick [] [(3, [[(0x14, 17)]])]).wf = false ∧ (Instr.roomLoopTick [] [(3, [[(0x16, 1)]])]).wf = false ∧
    (Instr.roomRetainAccess 0 0 2 none).wf = false ∧ (Instr.registerWrite (.control 0) 1 0xF 0).wf = false := by decide

/-- Their neighbours at the boundary are well formed. -/
theorem test_boundary_commands_are_well_formed :
    (Instr.tagGrant 0 true 127).wf = true ∧ (Instr.tagGrant 0 false 255).wf = true ∧ (Instr.scheduleBreach 0 0 0xFFFFFF).wf = true ∧
    (Instr.eccRewrite 0 0 131071).wf = true ∧ (Instr.thrCmdInvalidOp 0 6).wf = true ∧ (Instr.thrFeed 0 0 [(2 ^ 48 - 1, 1)]).wf = true ∧
    (Instr.jobFault 0 1).wf = true ∧ (Instr.coldResetRelease ⟨true, 8192, 0, 0, 0, 0, 0, true⟩).wf = true ∧ (Instr.droopStretch 0 1).wf = true ∧
    (Instr.budgetTick [(3, List.replicate 16 1)] 0).wf = true ∧ (Instr.lowWordRead ⟨.control 0, 0xF⟩ 4).wf = true ∧
    (Instr.roomLoopTick [] [(3, [[(0x14, 16)]])]).wf = true := by decide

/-! ## Instruction words, from the encodings of R261, R262 and R270 -/

/-- `sub s31, s0, s1` and `li s2, −1` with and without hi: majors 0x01 and 0x02 in bits [63:56], minors 0x01 and 0x08 in [55:48], rd in
[47:41], rs1 in [40:34], rs2 in [33:27], or hi in [33] and the immediate in [31:0]. -/
theorem test_scalar_words : decodeFis 0x01013E0008000000 = some (.sub (.r ⟨31, 0, 1, 0⟩)) ∧
    decodeFis 0x02080400FFFFFFFF = some (.li ⟨2, 0, false, false, 0xFFFFFFFF⟩) ∧
    decodeFis 0x02080402FFFFFFFF = some (.li ⟨2, 0, true, false, 0xFFFFFFFF⟩) := by decide

/-- `sc.fold` of d4, `lm.swap` of table 3, `pa.attend` of d1, d2, d3 and `dw.wait` on channel 0, each with no wait (queue 7). -/
theorem test_unit_words : decodeFis 0x1102400E00000000 = some (.scFold ⟨4, 0, 0, 7, 0, false, false, 0, 0⟩) ∧
    decodeFis 0x1204000E00000003 = some (.lmSwap ⟨0, 0, 0, 7, 0, false, false, 0, 3⟩) ∧
    decodeFis 0x1300123E00000000 = some (.paAttend ⟨1, 2, 3, 7, 0, false, false, 0, 0⟩) ∧
    decodeFis 0x1401000E00000001 = some (.dwWait ⟨0, 0, 0, 7, 0, false, false, 0, 1⟩) := by decide

/-! ## The step and the pins -/

/-- A step runs the front command; with none waiting the block idles. -/
theorem test_step : step { up with pending := [.reclaim, .isoEnable] } = exec .reclaim { up with pending := [.isoEnable] } ∧ step up = .next up :=
  ⟨rfl, rfl⟩

/-- The interface's two maps spell no command: the table gives its rows no bits. -/
theorem test_no_word_spells_a_command : decodeTableWord 64 0x0100060410000000 = none ∧ State.reset.withFetchWord 64 5 = State.reset := ⟨rfl, rfl⟩

theorem wit_StepRunsTheFront : State.reset.pending = [] := rfl

theorem wit_StepKeepsPinsInv : PinsInv up ∧ step up = .next up :=
  ⟨⟨by decide, fun h => absurd h (by decide), by decide⟩, rfl⟩

theorem wit_ClampAndRailLossReset : (up.pins.cold = true → up.empty) ∧ (State.reset.pins.cold = true → State.reset.empty) :=
  ⟨fun h => absurd h (by decide), fun _ => rfl⟩

theorem wit_CommandsKeepTheQueue : ∃ t, exec .isoEnable up = .next t ∧ t.pins.iso = true := ⟨_, rfl, rfl⟩

theorem wit_ColdResetReleases : (up.pins.cold = false) ∧ ({ up with pins := { cold := true, iso := true } } : State).pins.iso = true ∧
    ({ up with pins := { rails := false } } : State).pins.rails = false ∧
    State.reset.pins.cold = true ∧ State.reset.pins.iso = false ∧ State.reset.pins.rails = true ∧ State.reset.empty ∧
    ¬ (slotOk State.reset.cel.flash 0 = true ∨ slotOk State.reset.cel.flash 1 = true) :=
  ⟨rfl, rfl, rfl, rfl, rfl, rfl, rfl, by decide +kernel⟩
/-! ## Scalar instructions and branches -/

/-- 2⁶⁴ − 1 and 1 make 0 (R262: 64-bit wrapping). -/
theorem test_add_wraps : ∃ t, exec (.add 0 (.r ⟨3, 1, 2, 0⟩)) (runs 0 (fun w => { w with sreg := (w.sreg.set 1 (-1)).set 2 1 })) = .next t ∧
    (t.room 0).stew.read (.s 3) = 0 ∧ (t.room 0).stew.pc = 8 := ⟨_, rfl, by decide +kernel, by decide +kernel⟩

/-- Shifts use the low 6 bits of their second operand (R262). -/
theorem test_shr_uses_six_bits : ∃ t, exec (.shr 0 (.i ⟨1, 1, false, false, 65⟩)) (runs 0 (fun w => { w with sreg := w.sreg.set 1 (-2) })) = .next t ∧
    (t.room 0).stew.read (.s 1) = 0x7FFFFFFFFFFFFFFF := ⟨_, rfl, by decide +kernel⟩

/-- A write of s0 is discarded (R254). -/
theorem test_s0_stays_zero : ∃ t, exec (.li 0 ⟨0, 0, false, false, 5⟩) (runs 0 id) = .next t ∧ (t.room 0).stew.read (.s 0) = 0 :=
  ⟨_, rfl, by decide +kernel⟩

/-- A room that is ready, at its first and at its last instruction. -/
theorem wit_RoomReady : RoomReady (on 0 id) 0 ∧ RoomReady (runs 31 (fun w => { w with pc := 56 })) 31 :=
  ⟨ready_of (by decide +kernel), ready_of (by decide +kernel)⟩

theorem wit_ArithmeticOnRegisters : RoomReady (on 0 id) 0 ∧ regName 3 = some (.s 3) ∧ regName 0x2F = some (.a 15) ∧ regName 0 = some (.s 0) :=
  ⟨ready_of (by decide +kernel), rfl, rfl, rfl⟩

theorem wit_ArithmeticOnImmediates : RoomReady (on 0 id) 0 ∧ (⟨3, 0x63, false, false, 5⟩ : FmtI).rsv = false ∧
    (⟨3, 0x63, false, false, 5⟩ : FmtI).hi = false ∧ regName 0x63 = some (.c 3) := ⟨ready_of (by decide +kernel), rfl, rfl, rfl⟩

theorem wit_LoadImmediate : RoomReady (on 0 id) 0 ∧ (⟨31, 0, true, false, 5⟩ : FmtI).rsv = false ∧ (⟨31, 0, true, false, 5⟩ : FmtI).rs1 = 0 ∧
    regName 31 = some (.s 31) := ⟨ready_of (by decide +kernel), rfl, rfl, rfl⟩

theorem wit_ReservedRegisterIsIllegal : RoomReady (on 0 id) 0 ∧ regName 0x30 = none ∧ regName 0x64 = none := ⟨ready_of (by decide +kernel), rfl, rfl⟩

/-- a1 in the room's own Shelf, at its last 32 bytes; a2 in the Chest of logical room 1; a3 in the Pantry. -/
def addrs : State := runs 0 (fun w => { w with areg := ((w.areg.set 1 0x000FFFE0).set 2 0x02200000).set 3 0x40000000 })

theorem wit_LoadFromOwnRoom : RoomReady addrs 0 ∧ regName 0x45 = some (.d 5) ∧ widthBytes 4 = some 32 ∧
    memAddr (addrs.room 0).stew ⟨0x45, 1, 4, 0, 0⟩ % 32 = 0 ∧
    decodeAddr 0 (memAddr (addrs.room 0).stew ⟨0x45, 1, 4, 0, 0⟩) 32 addrs = .ok (.room 0 .shelf 0xFFFE0) addrs ∧ addrs.eccOf (some 0) .shelf = [] :=
  ⟨ready_of (by decide +kernel), rfl, rfl, by decide +kernel, by rfl, by decide +kernel⟩

theorem wit_StoreToOwnRoom : RoomReady addrs 0 ∧ regName 5 = some (.s 5) ∧ widthBytes 0 = some 1 ∧
    decodeAddr 0 (memAddr (addrs.room 0).stew ⟨5, 1, 0, 0, 31⟩) 1 addrs = .ok (.room 0 .shelf 0xFFFFF) addrs ∧ addrs.eccOf (some 0) .shelf = [] :=
  ⟨ready_of (by decide +kernel), rfl, rfl, by rfl, by decide +kernel⟩

theorem wit_StoredBytesAndNoOthers : Memory.wf [(5, 1), (7, 2)] = true := by decide

theorem wit_StoreElsewhereIsSent : RoomReady addrs 0 ∧
    decodeAddr 0 (memAddr (addrs.room 0).stew ⟨5, 2, 3, 0, 8⟩) 8 addrs = .ok (.room 1 .chest 8) addrs ∧ (Place.room 1 .chest 8).isLocal 0 = false ∧
    decodeAddr 0 (memAddr (addrs.room 0).stew ⟨5, 3, 3, 0, 8⟩) 8 addrs = .ok (.pantry 8) addrs ∧ (Place.pantry 8).isLocal 0 = false :=
  ⟨ready_of (by decide +kernel), by rfl, rfl, by rfl, rfl⟩

/-- A misaligned store is ADDRESS_FAULT, and its Steward stops (R263). -/
theorem test_misaligned_store_faults : ∃ t, exec (.st 0 ⟨5, 1, 3, 0, 4⟩) addrs = .next t ∧ (t.faults.map (fun f => f.code)) = [.addressFault] ∧
    (t.room 0).stew.running = false := ⟨_, rfl, by decide +kernel, by decide +kernel⟩

/-- A Steward at its second instruction, with a full and with an empty return stack, c0 to c3 of 0 to 3 and p1 set. -/
def branching (stack : List Nat) : State := runs 0 (fun w => { w with pc := 8, stack := stack, creg := #v[0, 1, 2, 3], preg := w.preg.set 1 true })

theorem wit_BranchAndCall : RoomReady (branching []) 0 ∧ branchAt ((branching []).room 0).stew ⟨0, 0, 48⟩ = (56 : Nat) ∧
    branchAt ((branching []).room 0).stew ⟨0, 0, -8⟩ = (0 : Nat) ∧ ((branching (List.replicate 7 16)).room 0).stew.stack.length < 8 :=
  ⟨ready_of (by decide +kernel), by decide +kernel, by decide +kernel, by decide +kernel⟩

theorem wit_Return : RoomReady (branching [16]) 0 ∧ ((branching [16]).room 0).stew.stack = 16 :: [] := ⟨ready_of (by decide +kernel), rfl⟩

theorem wit_ConditionalBranches : RoomReady (branching []) 0 ∧ regName 0x71 = some (.p 1) ∧ ((branching []).room 0).stew.read (.p 1) ≠ 0 ∧
    regName 9 = some (.s 9) ∧ ((branching []).room 0).stew.read (.s 9) = 0 :=
  ⟨ready_of (by decide +kernel), rfl, by decide +kernel, rfl, by decide +kernel⟩

theorem wit_LoopCounts : RoomReady (branching []) 0 ∧ regName 0x60 = some (.c 0) ∧ ((branching []).room 0).stew.creg.get 0 = 0 ∧
    ((branching []).room 0).stew.creg.get 1 = 1 ∧ ((branching []).room 0).stew.creg.get 2 ≠ 0 ∧ ((branching []).room 0).stew.creg.get 2 ≠ 1 :=
  ⟨ready_of (by decide +kernel), rfl, by decide, by decide, by decide, by decide⟩

/-- A target just before and just past the code, eight entries stacked, none, and one that leaves the code. -/
theorem wit_BranchesOutOfCodeAreIllegal : RoomReady (branching []) 0 ∧ branchAt ((branching []).room 0).stew ⟨0, 0, -16⟩ < 0 ∧
    64 ≤ branchAt ((branching []).room 0).stew ⟨0, 0, 56⟩ ∧ ((branching (List.replicate 8 16)).room 0).stew.stack.length = 8 ∧
    ((branching []).room 0).stew.stack = [] ∧ ((branching [64]).room 0).stew.stack = 64 :: [] :=
  ⟨ready_of (by decide +kernel), by decide +kernel, by decide +kernel, by decide +kernel, by decide +kernel, by decide +kernel⟩

/-! ## Format U -/

/-- An instruction under p0, which is 0, that would else swap the panes of an invalid pair. -/
theorem wit_PredicatedOff : RoomReady (on 0 id) 0 ∧
    (∀ row ∈ uRows, row.shape.ok (row.prep ⟨0, 0, 0, 7, 0, false, true, 0, 0⟩) = true) ∧
    ((on 0 id).room 0).stew.preg.get (Fin.ofNat 8 0) = false := ⟨ready_of (by decide +kernel), by decide, by decide⟩

/-- A queue field of 5 is reserved in every row. -/
theorem wit_WrongShapeIsIllegal : RoomReady (on 0 id) 0 ∧ ∀ row ∈ uRows, row.shape.ok (row.prep ⟨0, 0, 0, 5, 0, false, false, 0, 0⟩) = false :=
  ⟨ready_of (by decide +kernel), by decide⟩

/-- The same room with the trace of `trace` enabled. -/
def traced : State := (on 0 id).setReg Reg.studyTraceCtl 3

theorem wit_NopTraceAndFault : UReady (on 0 id) 0 (uimm 0) {} ∧ UReady traced 0 (uabc 15 0 0 0xFFFFFF) { ra := .s, imm := 24 } ∧
    traced.fld Reg.studyTraceCtl 0 1 = 1 ∧ traced.fld Reg.studyTraceCtl 1 1 = 1 ∧ traced.trace.length < 256 ∧
    (on 0 id).fld Reg.studyTraceCtl 0 1 = 0 ∧ UReady (on 0 id) 0 (uimm 0xFFFF) { imm := 16 } :=
  ⟨uready_of (by decide +kernel), uready_of (by decide +kernel), by decide +kernel, by decide +kernel, by decide, by decide +kernel,
   uready_of (by decide +kernel)⟩

/-- `fault` leaves its code and the deliberate bit in its capture (R270). -/
theorem test_fault_captures_its_code : ∃ t, exec (.fault 0 (uimm 0x1234)) (on 0 id) = .next t ∧
    t.faults.map (fun f => (f.code, f.capture.drop 1)) = [(.illegalInstruction, [0x1234, 1])] := ⟨_, rfl, by decide +kernel⟩

/-- A room of slot 0's job, whose logical channel 0 is physical channel 5. -/
def inJob : State := (on 0 (fun m => { m with job := some 0 })).setReg (rreg 0 Reg.roomChmap) 0xD

theorem wit_HaltArrives : UReady inJob 0 (uimm 0) ⟨.unused, .unused, .unused, 0⟩ ∧ roomBusy inJob 0 = false ∧ (inJob.room 0).job = some 0 ∧
    mapChan inJob 0 (inJob.jobs.get 0).desc.stepCh = some 5 ∧ (inJob.room 0).awaiting.get 5 = false :=
  ⟨uready_of (by decide +kernel), by decide +kernel, rfl, by decide +kernel, by decide⟩

/-- A Floor with an instruction under way, and with 16 more waiting. -/
def floorBusy (waits : List QEntry) : State :=
  on 0 (fun m => { m with queues := m.queues.set 0 { entries := waits, active := some ⟨7, .flMode (uimm 128), [], [], [], 0, none, true, 0⟩, posts := [(7, false)] } })

theorem wit_UnitInstructionQueues : (floorBusy []).up = true ∧ canIssue (floorBusy []) 0 = true ∧ ((floorBusy []).room 0).stew.held = false ∧
    roomDebug (floorBusy []) 0 = false ∧ (floorBusy []).fld (rreg 0 Reg.winSampCtl) 0 1 = 0 ∧ ((floorBusy []).room 0).stew.pc < 64 ∧
    (∀ q : Fin 5, q ≠ 0 → (((floorBusy []).room 0).queue q).entries = [] ∧ (((floorBusy []).room 0).queue q).active = none ∧ (((floorBusy []).room 0).queue q).beside = none) ∧
    (((floorBusy []).room 0).queue 0).active.isSome = true ∧ flModeRow.shape.ok (uimm 128) = true ∧ predOn ((floorBusy []).room 0) (uimm 128) = true ∧
    Reads (flModeRow.check 0 (uimm 128) (entryFor flModeRow (floorBusy []) 0 (uimm 128))) (floorBusy []) () ∧
    (((floorBusy []).room 0).queue 0).entries.length < 16 :=
  by and_intros <;> first | decide +kernel | rfl

theorem wit_FullQueueStalls : let s := floorBusy (List.replicate 16 ⟨7, .flMode (uimm 128), [], [], [], 0, none, false, 0⟩)
    s.up = true ∧ canIssue s 0 = true ∧ (s.room 0).stew.held = false ∧ roomDebug s 0 = false ∧ s.fld (rreg 0 Reg.winSampCtl) 0 1 = 0 ∧
    (s.room 0).stew.pc < 64 ∧ (∀ q : Fin 5, q ≠ 0 → ((s.room 0).queue q).entries = [] ∧ ((s.room 0).queue q).active = none ∧ ((s.room 0).queue q).beside = none) ∧
    ((s.room 0).queue 0).active.isSome = true ∧ ((s.room 0).queue 0).entries.length = 16 ∧
    (⟨.unused, .unused, .unused, 10⟩ : UShape).ok (uimm 0x340) = true ∧ predOn (s.room 0) (uimm 0x340) = true ∧
    FmtU.field (uimm 0x340) 2 5 = 16 ∧ FmtU.field (uimm 0x340) 7 3 = 6 ∧ FmtU.field (uimm 0x80) 7 3 = 1 := by decide +kernel

theorem wit_UnitInstructionCompletes : let s := floorBusy []
    s.up = true ∧ ((s.room 0).queue 0).active = some ⟨7, .flMode (uimm 128), [], [], [], 0, none, true, 0⟩ ∧
    (∀ p : Fin 5, ((s.room 0).queue p).entries = [] ∧ (p ≠ 0 → ((s.room 0).queue p).active = none ∧ ((s.room 0).queue p).beside = none)) ∧
    (s.room 0).stew.waiting = .nothing ∧ (s.room 0).stew.stepping = false ∧ (s.room 0).sampler.awaiting = [] ∧
    ((s.room 0).queue 0).posts = (7, false) :: [] := by decide +kernel

/-- The Floor's tally counts an instruction that posts once it is complete (R258). -/
theorem test_completion_counts : ∃ t, exec (.instructionComplete 0 (.queue 0)) (floorBusy []) = .next t ∧ ((t.room 0).queue 0).tally = 1 :=
  ⟨_, rfl, by decide +kernel⟩

theorem still_of {m : Room} (h : (decide (∀ q : Fin 5, (m.queue q).entries = [] ∧ (m.queue q).active = none ∧ (m.queue q).beside = none) &&
    decide (∀ ch, m.chan ch = none) && decide (m.stew.waiting = .nothing) && !m.stew.stepping) = true) : RoomStill m := by
  simp only [Bool.and_eq_true, decide_eq_true_eq, Bool.not_eq_true'] at h
  exact ⟨h.1.1.1, h.1.1.2, h.1.2, h.2⟩

theorem wit_FloorIdleRestoresCredits : up.up = true ∧ RoomStill ((on 0 id).room 0) := ⟨rfl, still_of (by decide +kernel)⟩

/-! ## The Floor -/

/-- The words of a d register. -/
def dOf (l : List Nat) : BitVec 256 := BitVec.ofNat 256 (l.foldr (fun x a => x + 2 ^ 32 * a) 0)

/-- Room 0, ready, with its first d registers, some registers of its slice, and its stores. -/
def unit (ds : List (List Nat)) (regs : List (Nat × Word)) (f : Room → Room) : State :=
  regs.foldl (fun s x => s.setReg (rreg 0 x.1) x.2)
    (on 0 (fun m => f { m with stew := { m.stew with dreg := ds.zipIdx.foldl (fun v x => v.setIfInBounds x.2 (dOf x.1)) m.stew.dreg } }))

/-- A unit's instruction that issues, from its checks. -/
theorem issues_of {row : UnitRow} {s : State} {r : RoomId} {u : FmtU}
    (h : (readyB s r && row.shape.ok (row.prep u) && predOn (s.room r) u && tallyOk (s.room r) (waitOf (s.room r) u)) = true)
    (ra : Reads (captureField (s.room r) (row.fis (row.prep u)) (row.prep u) row.shape.ra (row.prep u).ra) s (entryFor row s r u).ra)
    (rb : Reads (captureField (s.room r) (row.fis (row.prep u)) (row.prep u) row.shape.rb (row.prep u).rb) s (entryFor row s r u).rb)
    (rc : Reads (captureField (s.room r) (row.fis (row.prep u)) (row.prep u) row.shape.rc (row.prep u).rc) s (entryFor row s r u).rc)
    (ck : Reads (row.check r (row.prep u) (entryFor row s r u)) s ()) : Issues row s r u (entryFor row s r u) (begunFor row s r u) := by
  simp only [Bool.and_eq_true] at h
  exact ⟨ready_of h.1.1.1, h.1.1.2, h.1.2, h.2, ra, rb, rc, rfl, ck, rfl⟩

theorem upto_zero {P : Nat → Prop} : ∀ p < 0, P p := by intro p h; omega

theorem upto_succ {n : Nat} {P : Nat → Prop} (h : ∀ p < n, P p) (x : P n) : ∀ p < n + 1, P p := by
  intro p hp
  rcases Nat.lt_succ_iff_lt_or_eq.mp hp with l | rfl
  · exact h p l
  · exact x

/-- `fl.mode` of the largest shift and of ppg 1 and 6 (R79, R83). -/
theorem wit_FloorModeIsSet : UReady (on 0 id) 0 (uimm 0xC0) ⟨.unused, .unused, .unused, 10⟩ ∧ FmtU.field (uimm 0xC0) 2 5 = 16 ∧
    FmtU.field (uimm 0xC0) 7 3 = 1 ∧ FmtU.field (uimm 0x300) 7 3 = 6 := ⟨uready_of (by decide +kernel), by decide, by decide, by decide⟩

/-- A weight tile of INT8 in the Shelf at 0, its rows 16 bytes apart. -/
def loading : State := unit [[0, 1, 32, 16, 16]] [] (fun m => { m with shelf := [(0, 5), (16, 0xFF)] })

theorem wit_FloorLoadFillsTheShadow : let e := entryFor flLoadRow loading 0 (uimm 0)
    let s1 := begunFor flLoadRow loading 0 (uimm 0)
    let d := Desc.ofWords e.ra
    Issues flLoadRow loading 0 (uimm 0) e s1 ∧ Reads (floorFmt (.flLoad (uimm 0)) d) s1 .int8 ∧
    ∀ p < 32, Reads (loadScaled 0 d .int8 p 0 16) s1 (resOf (loadScaled 0 d .int8 p 0 16) s1 []) :=
  ⟨issues_of (by decide +kernel) (by rfl) (by rfl) (by rfl) (by rfl), by rfl, by
    repeat (first | exact upto_zero | refine upto_succ ?_ (by rfl))⟩

/-- A row of INT8 against the tile at rest into an INT32 row, direct. -/
def running : State := unit [[0, 1, 1, 16, 16], [0x1000, 3, 1, 32, 128]] [] (fun m => { m with shelf := [(0, 5), (1, 3)], floor := { m.floor with rest := ⟨some true, List.replicate 32 (List.replicate 16 ⟨.fin false 1 0, {}⟩)⟩ } })

theorem wit_FloorRunWritesItsResults : let u := uabc 0 1 0 0x80
    let e := entryFor flRunRow running 0 u
    let s1 := begunFor flRunRow running 0 u
    let a := Desc.ofWords e.ra
    let b := Desc.ofWords e.rb
    let t := (s1.floor 0).nextTile
    let s2 := Says.taken s1 0 0
    let out := resOf (passRows 0 a .int8 0 16 t (passInteger t (a.plainInt .int8) b true) 32 0 [0]) s2 []
    Issues flRunRow running 0 u e s1 ∧ flShift s1 0 = 0 ∧ u.imm.getLsbD 7 = true ∧ b.status = none ∧ enabledQuarters s1 0 ≠ 0 ∧
    (∀ k, (s1.floor 0).slots.get k = none) ∧ Reads (floorFmt (.flRun u) a) s1 .int8 ∧ Reads (activationForm (.flRun u) a 0) s1 (1, 16) ∧
    Reads (readMask 0 (.flRun u) a 1) s1 none ∧
    passRows 0 a .int8 0 16 t (passInteger t (a.plainInt .int8) b true) 32 0 [0] s2 = .ok out s2 ∧ Reads (b.format (.flRun u)) s2 .int32 ∧
    ∃ s3 s4 fl, recordRows 0 e.pc b.tag out s2 = .ok () s3 ∧
      writeRows 0 e.pc b .int32 (flSat s2 0) (flMaskDest s2 0) 1 32 (out.map (fun o => (o.1, o.2.map Prod.fst))) s3 = .ok fl s4 :=
  ⟨issues_of (by decide +kernel) (by rfl) (by rfl) (by rfl) (by rfl), by decide +kernel, by decide, by decide +kernel, by decide +kernel,
   by decide +kernel, by rfl, by rfl, by rfl, by rfl, by rfl, _, _, _, goes_unit (by decide +kernel), goes_ok {} (by decide +kernel)⟩
/-- Five and three ones sum to 8, for each of the 32 posts (R54). -/
theorem test_floor_run_sums : ∃ t, exec (.flRun 0 (uabc 0 1 0 0x80)) running = .next t ∧ (t.room 0).shelf.getN 0x1000 4 = 8 ∧
    (t.room 0).shelf.getN 0x107C 4 = 8 := ⟨_, rfl, by decide +kernel, by decide +kernel⟩

/-- A row in the normal form, and one under a window shift of 1 with two outputs. -/
theorem wit_FloorRowsAreSums : Reads (loadScaled 0 (Desc.ofWords [0, 1, 1, 16, 16]) .int8 0 0 16) running
      (resOf (loadScaled 0 (Desc.ofWords [0, 1, 1, 16, 16]) .int8 0 0 16) running []) ∧ min (Desc.ofWords [0, 1, 2, 0x1101, 16]).rows 32 ≠ 0 ∧
    Reads (loadScaled 0 (Desc.ofWords [0, 1, 2, 0x1101, 16]) .int8 0 0 (min 17 ((2 - 1) * 1 + 16))) running
      (resOf (loadScaled 0 (Desc.ofWords [0, 1, 2, 0x1101, 16]) .int8 0 0 17) running []) := ⟨by rfl, by decide, by rfl⟩

/-- The same pass into slot 2, with FL_MODE.ppg 1: the partial's rows are 128 bytes, its spans 0x1000. -/
def slotting : State := unit [[0, 1, 1, 16, 16], [0x1000, 3, 0x1000001, 32, 128, 0x1000]] [(Reg.flMode, 0x80)]
  (fun m => { m with shelf := [(0, 5), (1, 3)] })

theorem wit_FloorRunOpensASlot : let u := uabc 0 1 0 2
    let e := entryFor flRunRow slotting 0 u
    let s1 := begunFor flRunRow slotting 0 u
    let a := Desc.ofWords e.ra
    let b := Desc.ofWords e.rb
    let t := (s1.floor 0).nextTile
    let sl := newSlot (flMode s1 0) b true false
    let s2 := Says.taken s1 0 0
    let xs := resOf (loadScaled 0 a .int8 0 0 16) s2 []
    let res := normalRow t true xs (min b.cols 32) 0
    Issues flRunRow slotting 0 u e s1 ∧ u.imm.getLsbD 7 = false ∧ u.imm.getLsbD 3 = false ∧ flShift s1 0 = 0 ∧ a.rows = 1 ∧ a.mask = none ∧
    enabledQuarters s1 0 ≠ 0 ∧ (∀ k, (s1.floor 0).slots.get k = none) ∧ 1 ≤ sl.ppg ∧ (res.map Prod.fst).take sl.cols ≠ [] ∧
    passInteger t (a.plainInt .int8) b false = true ∧ Reads (floorFmt (.flRun u) a) s1 .int8 ∧ Reads (activationForm (.flRun u) a 0) s1 (1, 16) ∧
    Reads (b.format (.flRun u)) s1 .int32 ∧
    Reads (loadScaled 0 a .int8 0 0 16) s2 xs ∧ ∃ s3 s4, recordRows 0 e.pc b.tag [(0, res)] s2 = .ok () s3 ∧
      storeRaws 0 .int32 (sl.rowAddr 0 0) (((res.map Prod.fst).take sl.cols).map (partRaw true)) s3 = .ok () s4 :=
  by
  refine ⟨issues_of ?_ (by rfl) (by rfl) (by rfl) (by rfl), ?_, ?_, ?_, ?_, ?_, ?_, ?_, ?_, ?_, ?_, by rfl, by rfl, by rfl, by rfl, _, _, goes_unit ?_, goes_unit ?_⟩
  all_goals decide +kernel

/-- One row of 16 elements of INT8 against four rows of weights, into slot 1. -/
def thinning : State := unit [[0, 1, 1, 16, 16], [0x100, 1, 4, 16, 16], [0x1000, 3, 0x1000001, 4, 16, 0x1000]] [(Reg.flMode, 0x80)]
  (fun m => { m with shelf := [(0, 5), (1, 3), (0x110, 7)] })

theorem wit_FloorThinOpensASlot : let u := uabc 0 1 2 1
    let e := entryFor flThinRow thinning 0 u
    let s1 := begunFor flThinRow thinning 0 u
    let a := Desc.ofWords e.ra
    let b := Desc.ofWords e.rb
    let c := Desc.ofWords e.rc
    let sl := newSlot (flMode s1 0) c true true
    let s2 := takeThinRows 0 (a.plainInt .int8) .int8 s1
    let xs := resOf (loadScaled 0 a .int8 0 0 16) s2 []
    let ws := fun j => resOf (loadScaled 0 b .int8 j 0 16) s2 []
    let res : List (Val × List Ev) := (List.range b.rows).map (fun j => postGroup true ((ws j).take 16) (xs.take 16) 0)
    Issues flThinRow thinning 0 u e s1 ∧ u.imm.getLsbD 3 = false ∧ a.mask = none ∧ a.rows = 1 ∧ enabledQuarters s1 0 = 4 ∧
    (s1.floor 0).slots.get 1 = none ∧ 1 ≤ sl.ppg ∧ (res.map Prod.fst).take sl.cols ≠ [] ∧ (a.plainInt .int8 && b.plainInt .int8) = true ∧
    Reads (floorFmt (.flThin u) a) s1 .int8 ∧ Reads (floorFmt (.flThin u) b) s1 .int8 ∧ Reads (thinForm (.flThin u) a b) s1 (1, 16, b.rows) ∧
    Reads (c.format (.flThin u)) s1 .int32 ∧
    Reads (loadScaled 0 a .int8 0 0 16) s2 xs ∧ (∀ j < b.rows, Reads (loadScaled 0 b .int8 j 0 16) s2 (ws j)) ∧
    ∃ s3 s4, recordRows 0 e.pc c.tag [(0, res)] s2 = .ok () s3 ∧
      storeRaws 0 .int32 (sl.rowAddr 0 0) (((res.map Prod.fst).take sl.cols).map (partRaw true)) s3 = .ok () s4 :=
  by
  refine ⟨issues_of ?_ (by rfl) (by rfl) (by rfl) (by rfl), ?_, ?_, ?_, ?_, ?_, ?_, ?_, ?_, by rfl, by rfl, by rfl, by rfl, by rfl, ?tail, _, _, goes_unit ?_, goes_unit ?_⟩
  case tail => change ∀ j < 4, _; repeat (first | exact upto_zero | refine upto_succ ?_ (by rfl))
  all_goals decide +kernel

/-- The seven at weight 16 of the second row meets no element, so its sum is 7 × 5 (R80). -/
theorem test_thin_sums : ∃ t, exec (.flThin 0 (uabc 0 1 2 1)) thinning = .next t ∧ (t.room 0).shelf.getN 0x1004 4 = 35 := ⟨_, rfl, by decide +kernel⟩

/-- Slot 2 with one pass of one row of four columns. -/
def draining : State := unit [[0x2000, 3, 1, 4, 16]] [] (fun m => { m with shelf := [(0x1000, 9)], floor := { m.floor with slots := m.floor.slots.set 2 (some ⟨0x1000, 16, 0x1000, 1, 4, [], true, false, false, [], false, 1, 1, {}, false, 0⟩) } })

theorem wit_FloorDrainClosesTheSlot : let u := uabc 0 0 0 2
    let e := entryFor flDrainRow draining 0 u
    let s1 := begunFor flDrainRow draining 0 u
    let d := Desc.ofWords e.ra
    ∃ sl, (s1.floor 0).slots.get 2 = some sl ∧
    let spans := List.range sl.spans
    let parts := fun i sp => resOf (loadRaws 0 .int32 (sl.rowAddr sp i) sl.cols) s1 []
    let out : List RowOut := (if sl.cols = 0 then [] else sl.feeds sl.rows).map (fun i =>
      (i, (List.range sl.cols).map (fun c => combineSpans sl.integer (spans.map (fun sp => (parts i sp).getD c 0)))))
    Issues flDrainRow draining 0 u e s1 ∧ d.status = none ∧ Reads (d.format (.flDrain u)) s1 .int32 ∧
    Reads (loadRaws 0 .int32 (sl.rowAddr 0 0) sl.cols) s1 (parts 0 0) ∧
    sl.feeds sl.rows = [0] ∧ spans = [0] ∧ ∃ s2 s3 fl, recordRows 0 e.pc d.tag out s1 = .ok () s2 ∧
      writeRows 0 e.pc d .int32 (flSat s1 0) sl.maskDest sl.rows sl.cols (out.map (fun o => (o.1, o.2.map Prod.fst))) s2 = .ok fl s3 :=
  ⟨_, rfl, issues_of (by decide +kernel) (by rfl) (by rfl) (by rfl) (by rfl), by decide +kernel, by rfl, by rfl, by decide +kernel,
   by decide +kernel, _, _, _, goes_unit (by decide +kernel), goes_ok {} (by decide +kernel)⟩

/-- A drained slot is closed, and its partial is in the destination (R77). -/
theorem test_drain_writes : ∃ t, exec (.flDrain 0 (uabc 0 0 0 2)) draining = .next t ∧ (t.room 0).shelf.getN 0x2000 4 = 9 ∧
    (t.room 0).floor.slots.get 2 = none := ⟨_, rfl, by decide +kernel, by decide +kernel⟩

/-- `fl.mode` leaves its immediate in FL_MODE (R63). -/
theorem test_fl_mode : ∃ t, exec (.flMode 0 (uimm 0x1C0)) (on 0 id) = .next t ∧ t.reg (rreg 0 Reg.flMode) = 0x1C0 := ⟨_, rfl, by decide +kernel⟩

/-! ## The Stair -/

/-- Bytes with numbers of n bytes written at addresses. -/
def mem (l : List (Nat × Nat × Nat)) : Memory := l.foldl (fun m x => m.putN x.1 x.2.1 x.2.2) []

/-- A state of one row, one channel and one element of S16 in the Chest; x of 2.0 in BF16 and y in F32 in the Shelf; and an operand block
with a = 0.5, Δ = 1, B = 3 and C = 1, all of F32 (R267). -/
def stairing : State := unit [[0x200000, 11, 0x2000001, 0x10001, 64, 0, 0, 0x3000], [0, 8, 1, 1, 64], [0x100, 9, 1, 1, 64]] [] (fun m =>
  { m with shelf := mem [(0, 2, 0x4000), (0x3000, 4, 0x3100), (0x3004, 4, 0x3110), (0x3008, 4, 0x3120), (0x300C, 4, 0x3130), (0x3010, 16, 2 ^ 128 - 1), (0x303C, 4, 641), (0x3100, 4, 0x3F000000), (0x3110, 4, 0x3F800000), (0x3120, 4, 0x40400000), (0x3130, 4, 0x3F800000)], chest := mem [(0, 2, 0x4080)] })

/-- The next state is 0.5 × 4 + (1 × 2) × 3 = 8, which is the output too (R110). -/
theorem test_sc_step : ∃ t, exec (.scStep 0 (uabc 0 1 2 0)) stairing = .next t ∧ (t.room 0).chest.getN 0 2 = 0x4100 ∧
    (t.room 0).shelf.getN 0x100 4 = 0x41000000 := ⟨_, rfl, by decide +kernel, by decide +kernel⟩

theorem wit_StepUpdatesItsRows : ∃ t xf yf b p fs s2, let u := uabc 0 1 2 0
    let e := entryFor scStepRow stairing 0 u
    let s1 := begunFor scStepRow stairing 0 u
    let x := Desc.ofWords e.rb
    let y := Desc.ofWords e.rc
    Issues scStepRow stairing 0 u e s1 ∧ y.status = none ∧ Reads (stepPrep 0 (scStepRow.prep u) e) s1 (t, xf, yf, b, p) ∧
    Reads (rowMask 0 (blockWord b 5)) s1 0 ∧ Reads (rowMask 0 (blockWord b 6)) s1 0 ∧
    (List.range t.rows).mapM (maskedRow 0 e t y yf 0 0 (stepRow 0 false x xf t b p)) s1 = .ok fs s2 :=
  ⟨_, _, _, _, _, _, _, issues_of (by decide +kernel) (by rfl) (by rfl) (by rfl) (by rfl), by decide +kernel, by rfl, by rfl, by rfl,
   goes_ok [] (by decide +kernel)⟩

/-- One row with its elements read, for the gated and the selective form. -/
theorem wit_StepRowsAreRead : let t : Tensor := ⟨0x200000, 0, .s16, false, 1, 1, 1, 64, 0, none, 0x3000⟩
    let b := resOf (stairBlock 0 t) stairing []
    let x := Desc.ofWords [0, 8, 1, 1, 64]
    ∃ as xs ds bs cs, Reads (loadArray 0 .f32 (addrPlus (b.getD 0 0) 0) 1) stairing as ∧ Reads (loadScaled 0 x .bf16 0 0 1) stairing xs ∧
      Reads (loadArray 0 .f32 (addrPlus (b.getD 1 0) 0) 1) stairing ds ∧ Reads (loadArray 0 .f32 (addrPlus (b.getD 2 0) 0) 1) stairing bs ∧
      Reads (loadArray 0 .f32 (addrPlus (b.getD 3 0) 0) 1) stairing cs ∧ Reads (loadMaybe 0 (blockWord b 4) 1) stairing none :=
  ⟨_, _, _, _, _, by rfl, by rfl, by rfl, by rfl, by rfl, by rfl⟩

/-- A row that is made, and one that its reset writes as zeros. -/
theorem wit_StairRowsAreUpdated : let t : Tensor := ⟨0x200000, 0, .s16, false, 1, 1, 1, 64, 0, none, 0x3000⟩
    let y := Desc.ofWords [0x100, 9, 1, 1, 64]
    let s1 := stairing.count64 (rreg 0 Reg.scResets) 1
    let m : RowMade := ⟨[⟨(0x4100, 0), false, false, {}⟩], [.one], []⟩
    bitAt 1 0 = true ∧ bitAt 2 0 = false ∧ Reads (loadState 0 t 0) stairing [(0x4080, 0)] ∧
    Reads (pure m : Op RowMade) stairing m ∧ Reads (pure m : Op RowMade) s1 m ∧
    (∃ s2, storeState 0 t 0 (List.replicate t.count (0, 0)) s1 = .ok () s2) ∧
    (∃ s2 s3 fy, storeState 0 t 0 (m.els.map (fun x => x.el)) stairing = .ok () s2 ∧ putOutputs 0 y .f32 t.n 0 m.outs s2 = .ok fy s3) ∧
    ∃ s2 s3 fy, storeState 0 t 0 (m.els.map (fun x => x.el)) s1 = .ok () s2 ∧ putOutputs 0 y .f32 t.n 0 m.outs s2 = .ok fy s3 :=
  ⟨by decide, by decide, by rfl, rfl, rfl, ⟨_, goes_unit (by decide +kernel)⟩,
   ⟨_, _, _, goes_unit (by decide +kernel), goes_ok [] (by decide +kernel)⟩, ⟨_, _, _, goes_unit (by decide +kernel), goes_ok [] (by decide +kernel)⟩⟩

/-- The same operands with a state of one mode (two elements) for `sc.modal`, and histories of S32 for `sc.fir` with two taps and `sc.ema`. -/
def filtering (fmt w3 : Nat) : State := unit [[0x200000, fmt, 0x2000001, w3, 64, 0, 0, 0x3000], [0, 8, 1, 1, 64], [0x100, 9, 1, 1, 64]] [] (fun m =>
  { m with shelf := mem [(0, 2, 0x4000), (0x3000, 4, 0x3100), (0x3004, 4, 0x3110), (0x3008, 32, 2 ^ 256 - 1), (0x3028, 4, 2 ^ 32 - 1), (0x3100, 4, 0x3F000000), (0x3110, 4, 0x3F800000)] })

theorem wit_FiltersUpdateTheirRows :
    (∃ t xf yf b ws cs fs s2, let s := filtering 11 0x20001
      let u := uabc 0 1 2 1
      let e := entryFor scModalRow s 0 u
      let s1 := begunFor scModalRow s 0 u
      Issues scModalRow s 0 u e s1 ∧ (Desc.ofWords e.rc).status = none ∧ Reads (modalPrep 0 u e) s1 (t, xf, yf, b) ∧
      Reads (rowMask 0 (blockWord b 5)) s1 0 ∧ Reads (rowMask 0 (blockWord b 6)) s1 0 ∧ Reads (loadArray 0 .f32 (b.getD 0 0) (t.ch * 2 * 1)) s1 ws ∧
      Reads (loadArray 0 .f32 (b.getD 1 0) (t.ch * 2 * 1)) s1 cs ∧ Reads (loadMaybe 0 (blockWord b 2) t.ch) s1 none ∧
      (List.range t.rows).mapM (maskedRow 0 e t (Desc.ofWords e.rc) yf 0 0 (modalRow 0 (Desc.ofWords e.rb) xf t 1 ws cs none)) s1 = .ok fs s2) ∧
    (∃ t xf yf a ws fs s2, let s := filtering 12 0x10001
      let u := uabc 0 1 2 2
      let e := entryFor scFirRow s 0 u
      let s1 := begunFor scFirRow s 0 u
      Issues scFirRow s 0 u e s1 ∧ (Desc.ofWords e.rc).status = none ∧ Reads (firPrep 0 u e) s1 (t, xf, yf, a) ∧
      Reads (loadArray 0 .f32 a (t.ch * 2)) s1 ws ∧
      (List.range t.rows).mapM (maskedRow 0 e t (Desc.ofWords e.rc) yf 0 0 (firRow 0 (Desc.ofWords e.rb) xf t 2 ws)) s1 = .ok fs s2) ∧
    (∃ t xf yf a ws fs s2, let s := filtering 12 0x10001
      let u := uabc 0 1 2 0
      let e := entryFor scEmaRow s 0 u
      let s1 := begunFor scEmaRow s 0 u
      Issues scEmaRow s 0 u e s1 ∧ (Desc.ofWords e.rc).status = none ∧ Reads (emaPrep 0 u e) s1 (t, xf, yf, a) ∧
      Reads (loadArray 0 .f32 a t.ch) s1 ws ∧
      (List.range t.rows).mapM (maskedRow 0 e t (Desc.ofWords e.rc) yf 0 0 (emaRow 0 (Desc.ofWords e.rb) xf t ws)) s1 = .ok fs s2) ∧
    ∃ xs, Reads (loadScaled 0 (Desc.ofWords [0, 8, 1, 1, 64]) .bf16 0 0 1) stairing xs :=
  ⟨⟨_, _, _, _, _, _, _, _, issues_of (by decide +kernel) (by rfl) (by rfl) (by rfl) (by rfl), by decide +kernel, by rfl, by rfl, by rfl, by rfl,
    by rfl, by rfl, goes_ok [] (by decide +kernel)⟩,
   ⟨_, _, _, _, _, _, _, issues_of (by decide +kernel) (by rfl) (by rfl) (by rfl) (by rfl), by decide +kernel, by rfl, by rfl,
    goes_ok [] (by decide +kernel)⟩,
   ⟨_, _, _, _, _, _, _, issues_of (by decide +kernel) (by rfl) (by rfl) (by rfl) (by rfl), by decide +kernel, by rfl, by rfl,
    goes_ok [] (by decide +kernel)⟩, ⟨_, by rfl⟩⟩

/-- A first average of 2 with α = 0.5 is 1 (R117). -/
theorem test_sc_ema : ∃ t, exec (.scEma 0 (uabc 0 1 2 0)) (filtering 12 0x10001) = .next t ∧ (t.room 0).chest.getN 0 4 = 0x3F800000 ∧
    (t.room 0).shelf.getN 0x100 4 = 0x3F800000 := ⟨_, rfl, by decide +kernel, by decide +kernel⟩

/-- A chunk of 16 positions, one head, one channel and one element per channel. -/
def chunking : State := unit [[0x200000, 11, 0x2000001, 0x10001, 64, 0, 0, 0x3000], [0, 8, 16, 1, 64], [0x1000, 9, 16, 1, 64]] [] (fun m =>
  { m with shelf := mem [(0x3000, 4, 0x3100), (0x3004, 4, 0x3200), (0x3008, 4, 0x3300), (0x300C, 4, 0x3400), (0x3010, 8, 2 ^ 64 - 1), (0x3018, 4, 0x3500), (0x301C, 4, 0x4000), (0x303C, 4, 646)] })

theorem wit_ChunkPhases :
    (∃ t b p c all bs g fs s2, let u := uabc 0 1 2 64
      let e := entryFor scChunkPrepRow chunking 0 u
      let s1 := begunFor scChunkPrepRow chunking 0 u
      Issues scChunkPrepRow chunking 0 u e s1 ∧ Reads (prepChecks 0 (scChunkPrepRow.prep u) e) s1 (t, b, p, c) ∧ t.status = none ∧
      Reads (match blockWord b 5 with | some a => loadNat 0 a 32 | none => pure 0) s1 0 ∧
      Reads (loadArray 0 .f32 (b.getD 0 0) (c.t * c.heads)) s1 all ∧ Reads (loadArray 0 p.b (b.getD 2 0) (c.t * c.n)) s1 bs ∧
      Reads (loadArray 0 .f32 (b.getD 6 0) (c.t * c.t)) s1 g ∧
      (List.range c.heads).mapM (fun h => (List.range c.t).mapM (prepRow 0 e t c (b.getD 7 0) 0 all bs g h)) s1 = .ok fs s2) ∧
    (∃ t xf yf b p c old lams dd fs s2, let u := uabc 0 1 2 65
      let e := entryFor scChunkCarryRow chunking 0 u
      let s1 := begunFor scChunkCarryRow chunking 0 u
      Issues scChunkCarryRow chunking 0 u e s1 ∧ (Desc.ofWords e.rc).status = none ∧
      Reads (carryChecks 0 (scChunkCarryRow.prep u) e) s1 (t, xf, yf, b, p, c) ∧ Reads (loadState 0 t 0) s1 old ∧
      Reads (loadArray 0 .f32 (c.lamAt (b.getD 7 0)) (c.heads * c.t)) s1 lams ∧ Reads (loadMaybe 0 (blockWord b 4) c.ch) s1 dd ∧
      (List.range c.t).mapM (carryRow 0 e t xf yf b p c (old.map (repEl t)) lams dd) s1 = .ok fs s2) ∧
    (∃ t b p c old lams ps s2, let u := uabc 0 1 2 66
      let e := entryFor scChunkStateRow chunking 0 u
      let s1 := begunFor scChunkStateRow chunking 0 u
      Issues scChunkStateRow chunking 0 u e s1 ∧ Reads (stateChecks 0 (scChunkStateRow.prep u) e) s1 (t, b, p, c) ∧ t.status = none ∧
      Reads (loadArray 0 .f32 (c.lamAt (b.getD 7 0)) (c.heads * c.t)) s1 lams ∧ Reads (loadArray 0 .f32 (b.getD 6 0) (c.ch * c.n)) s1 ps ∧
      Reads (loadState 0 t 0) s1 old ∧ storeState 0 t 0 (old.map id) s1 = .ok () s2) :=
  ⟨⟨_, _, _, _, _, _, _, _, _, issues_of (by decide +kernel) (by rfl) (by rfl) (by rfl) (by rfl), by rfl, by rfl, by rfl, by rfl, by rfl, by rfl,
    goes_ok [] (by decide +kernel)⟩,
   ⟨_, _, _, _, _, _, _, _, _, _, _, issues_of (by decide +kernel) (by rfl) (by rfl) (by rfl) (by rfl), by decide +kernel, by rfl, by rfl, by rfl, by rfl,
    goes_ok [] (by decide +kernel)⟩,
   ⟨_, _, _, _, _, _, _, _, issues_of (by decide +kernel) (by rfl) (by rfl) (by rfl) (by rfl), by rfl, by rfl, by rfl, by rfl, by rfl,
    goes_unit (by decide +kernel)⟩⟩
theorem wit_ChunkCarryForms : let c : Chunk := ⟨16, 1, 1, 1, 1⟩
    let y := Desc.ofWords [0x1000, 9, 16, 1, 64]
    ∃ xs cs yi, Reads (loadScaled 0 (Desc.ofWords [0, 8, 16, 1, 64]) .bf16 15 0 c.ch) chunking xs ∧
      Reads (loadArray 0 .f32 (addrPlus 0x3400 (4 * 15 * c.n)) c.n) chunking cs ∧ Reads (loadArray 0 .f32 (addrPlus 0x3500 (4 * 15 * c.ch)) c.ch) chunking yi ∧
      ∃ s2 fy, putOutputs 0 y .f32 c.n 15 [.one] chunking = .ok fy s2 := ⟨_, _, _, by rfl, by rfl, by rfl, _, _, goes_ok [] (by decide +kernel)⟩

/-- A compensated state of S24 whose pair of 1.0 and residue 1 is at a multiple of 192 bytes, with its residues at 0x300. -/
def folding (imm : Nat) : State := unit [[0x200000, 0x4A, 0x2000001, 0x10001, 192, 0x200300, 0, 0x3000], [0x4000, 0, 2, 64, 64]]
  [(Reg.scFold, BitVec.ofNat 32 imm)] (fun m => { m with chest := mem [(0, 3, 0x3F8000), (0x300, 1, 1)] })

theorem wit_FoldMakesPairsCanonical :
    (∃ t fs s2, let s := folding 16
      let u := uabc 0 0 0 2
      let e := entryFor scFoldRow s 0 u
      let s1 := begunFor scFoldRow s 0 u
      Issues scFoldRow s 0 u e s1 ∧ Reads (foldPrep 0 u e) s1 t ∧ (t.comp && !(u.imm.getLsbD 1 && stepOf s1 0 % foldPeriod s1 0 != 0)) = true ∧
      t.status = none ∧ (List.range t.rows).mapM (foldRow 0 e t false) s1 = .ok fs s2) ∧
    (∃ t, let s := stairing
      let u := uabc 0 0 0 0
      let e := entryFor scFoldRow s 0 u
      let s1 := begunFor scFoldRow s 0 u
      Issues scFoldRow s 0 u e s1 ∧ Reads (foldPrep 0 u e) s1 t ∧ (t.comp && !(u.imm.getLsbD 1 && stepOf s1 0 % foldPeriod s1 0 != 0)) = false) ∧
    ∃ s4, let t : Tensor := ⟨0x200000, 0x200300, .s24, true, 1, 1, 1, 192, 0, none, 0x3000⟩
      Reads (loadState 0 t 0) (folding 16) [(0x3F8000, 1)] ∧ storeState 0 t 0 [(0x3F8000, 0)] (folding 16) = .ok () s4 :=
  ⟨⟨_, _, _, issues_of (by decide +kernel) (by rfl) (by rfl) (by rfl) (by rfl), by rfl, by decide +kernel, by rfl, goes_ok [] (by decide +kernel)⟩,
   ⟨_, issues_of (by decide +kernel) (by rfl) (by rfl) (by rfl) (by rfl), by rfl, by decide +kernel⟩, _, by rfl, goes_unit (by decide +kernel)⟩

/-- A periodic fold that is not due leaves the pair, and a plain one with drop makes its residue 0 (R125, R126). -/
theorem test_sc_fold : ∃ t, exec (.scFold 0 (uabc 0 0 0 1)) (folding 16) = .next t ∧ (t.room 0).chest.getN 0x300 1 = 0 :=
  ⟨_, rfl, by decide +kernel⟩

/-- The S16 state of `stairing` exported to 0x4000. -/
def exporting : State := unit [[0x200000, 11, 0x2000001, 0x10001, 64, 0, 0, 0x3000], [0x4000, 0, 2, 64, 64]] [] (fun m =>
  { m with chest := mem [(0, 2, 0x4080)] })

theorem wit_ExportWritesAnImage : ∃ t g w rows b s2 s3, let s := exporting
    let u := uabc 0 1 0 0
    let e := entryFor scExportRow s 0 u
    let s1 := begunFor scExportRow s 0 u
    Issues scExportRow s 0 u e s1 ∧ Reads (exportPrep 0 u e) s1 (t, g, w) ∧ g.status = none ∧ Reads (loadState 0 t 0) s1 [(0x4080, 0)] ∧ t.rows = 1 ∧
    (List.range t.rows).mapM (exportRow 0 e t w) s1 = .ok rows s2 ∧ Reads (stairBlock 0 t) s2 b ∧
    let payload := rows.flatMap (fun l => t.fmt.pack (l.map (fun x => x.el.1))) ++ (if w then rows.flatten.map (fun x => BitVec.ofInt 8 x.el.2) else [])
    let head := imageHeader t 0 0 (b.getD 14 0) (b.getD 13 0) (stepOf s2 0) payload.length w
      (w && rows.flatten.all (fun x => (storeEl t (repEl t x.el).v {}).el == x.el))
    storeAt 0 g.base (head ++ bytesOfNat 4 (crc32c (head ++ payload)) ++ payload) s2 = .ok () s3 :=
  ⟨_, _, _, _, _, _, _, issues_of (by decide +kernel) (by rfl) (by rfl) (by rfl) (by rfl), by rfl, by rfl, by rfl, by rfl, goes_ok [] (by decide +kernel), by rfl, goes_unit (by decide +kernel)⟩

/-- The image begins with its magic and version (R128). -/
theorem test_sc_export : ∃ t, exec (.scExport 0 (uabc 0 1 0 0)) exporting = .next t ∧ (t.room 0).shelf.getN 0x4000 4 = 0x4D495453 ∧
    (t.room 0).shelf.getN 0x4004 2 = 1 ∧ (t.room 0).shelf.getN 0x4040 2 = 0x4080 := ⟨_, rfl, by decide +kernel, by decide +kernel, by decide +kernel⟩

/-- An image of one S16 element at 0x4000; its CRC is right or is 0. -/
def importing (sound : Bool) : State :=
  let head := imageHeader ⟨0x200000, 0, .s16, false, 1, 1, 1, 64, 0, none, 0x3000⟩ 0 0 0 0 0 2 false false
  let body := bytesOfNat 2 0x4180
  unit [[0x200000, 11, 0x2000001, 0x10001, 64, 0, 0, 0x3000], [0x4000, 0, 2, 64, 64]] [] (fun m =>
    { m with shelf := Memory.putBytes [] 0x4000 (head ++ bytesOfNat 4 (if sound then crc32c (head ++ body) else 0) ++ body) })

theorem wit_ImportChecksTheImage : let u := uabc 0 1 0 0
    let mine (s : State) (c0 : Nat) (t : Tensor) (g : Desc) (h : List Byte) : Prop :=
      let e := entryFor scImportRow s 0 u
      let s1 := begunFor scImportRow s 0 u
      Issues scImportRow s 0 u e s1 ∧ Reads (importPrep 0 u e) s1 (t, g) ∧ t.status = none ∧ Reads (loadAt 0 g.base 64) s1 h ∧
        importCode t g u.imm.toNat h = c0
    (∃ t g h, mine exporting 1 t g h) ∧
    (∃ t g h p s2, let s1 := begunFor scImportRow (importing true) 0 u
      mine (importing true) 0 t g h ∧ Reads (loadAt 0 (addrPlus g.base 64) (imagePayload t h)) s1 p ∧
      crc32c (h.take 0x3C ++ p) = opNat h 0x3C 4 ∧ (List.range t.rows).forM (importRow 0 (entryFor scImportRow (importing true) 0 u) t (importEls t h p)) s1 = .ok () s2 ∧
      ∃ s4, storeState 0 t 0 ((importEls t h p).map (fun x => x.el)) s1 = .ok () s4) ∧
    ∃ t g h p s2, let s1 := begunFor scImportRow (importing false) 0 u
      mine (importing false) 0 t g h ∧ Reads (loadAt 0 (addrPlus g.base 64) (imagePayload t h)) s1 p ∧
      crc32c (h.take 0x3C ++ p) ≠ opNat h 0x3C 4 ∧ (List.range t.rows).forM (importRow 0 (entryFor scImportRow (importing false) 0 u) t (List.replicate (t.rows * t.count) ⟨(0, 0), false, false, {}⟩)) s1 =
        .ok () s2 :=
  ⟨⟨_, _, _, issues_of (by decide +kernel) (by rfl) (by rfl) (by rfl) (by rfl), by rfl, by rfl, by rfl, by decide +kernel⟩,
   ⟨_, _, _, _, _, ⟨issues_of (by decide +kernel) (by rfl) (by rfl) (by rfl) (by rfl), by rfl, by rfl, by rfl, by decide +kernel⟩, by rfl,
    by decide +kernel, goes_unit (by decide +kernel), _, goes_unit (by decide +kernel)⟩,
   ⟨_, _, _, _, _, ⟨issues_of (by decide +kernel) (by rfl) (by rfl) (by rfl) (by rfl), by rfl, by rfl, by rfl, by decide +kernel⟩, by rfl,
    by decide +kernel, goes_unit (by decide +kernel)⟩⟩

/-- A sound image is stored, one whose CRC is wrong sets the state to zero with result 4 (R130). -/
theorem test_sc_import : (∃ t, exec (.scImport 0 (uabc 0 1 0 0)) (importing true) = .next t ∧ (t.room 0).chest.getN 0 2 = 0x4180) ∧
    ∃ t, exec (.scImport 0 (uabc 0 1 0 0)) (importing false) = .next t ∧ t.reg (rreg 0 Reg.scImportStatus) = 0x10004 :=
  ⟨⟨_, rfl, by decide +kernel⟩, ⟨_, rfl, by decide +kernel⟩⟩

/-! ## The Lamp -/

/-- One row of two BF16 elements, 1 and −2, at 0, an F32 output at 0x100, and an operand block at 0x3000 with nothing in it: bias and scale
of the row are absent (R268); two zeros at 0x400. -/
def lamping (regs : List (Nat × Word)) (lamp : Memory) : State :=
  unit [[0, 8, 1, 2, 64], [0x100, 9, 1, 2, 64], [0x3000], [0x200, 9, 1, 2, 64], [0x400, 8, 1, 2, 64]] regs (fun m =>
    { m with shelf := mem [(0, 2, 0x3F80), (2, 2, 0xC000), (0x3000, 16, 2 ^ 128 - 1)], lamp := lamp })

/-- The bytes of a bank: its 33 knots the smallest subnormals in order, its values and slopes 0 (R137). -/
def bank (at_ : Nat) : Memory := (List.range 32).map (fun k => (at_ + 4 * (k + 1), BitVec.ofNat 8 (k + 1)))

theorem wit_EvalAppliesItsFunction : let u := uabc 0 1 2 0xD
    let tabled : State := lamping [(Reg.lmTblt + 12, 0x50002)] (bank 0xC00)
    let ut := uabc 0 1 2 0xB3
    (∃ b x fl s2, let s := lamping [] []
      let e := entryFor lmEvalRow s 0 u
      let s1 := begunFor lmEvalRow s 0 u
      let d := Desc.ofWords e.ra
      let o := Desc.ofWords e.rb
      Issues lmEvalRow s 0 u e s1 ∧ Reads (evalPrep 0 u e) s1 (d, o, .bf16, .f32) ∧ o.status = none ∧ FmtU.field u 0 4 = 13 ∧
      Reads (lampBlock 0 e.rc) s1 b ∧ (lampArg 0 b 0 1 false .pz s1 = .ok ⟨[], false, .pz⟩ s1) ∧
      (lampArg 0 b 1 1 false .one s1 = .ok ⟨[], false, .one⟩ s1) ∧ (lampArg 0 b 2 1 false .one s1 = .ok ⟨[], false, .one⟩ s1) ∧ blockWord b 3 = none ∧
      Reads (loadScaled 0 d .bf16 0 0 d.cols) s1 x ∧ lampWrite 0 e d.tag o .f32 false [x.map (fun q => (q.v, q.fl))] s1 = .ok fl s2) ∧
    (∃ t, let e := entryFor lmEvalRow tabled 0 ut
      let s1 := begunFor lmEvalRow tabled 0 ut
      Issues lmEvalRow tabled 0 ut e s1 ∧ FmtU.field ut 0 4 = 3 ∧ Reads (tableCheck 0 3 (ut.imm.getLsbD 4) (FmtU.field ut 5 16)) s1 () ∧
      Reads (loadBank 0 3 (s1.fld (rreg 0 Reg.lmTblt + 12) 0 1)) s1 t) :=
  ⟨⟨_, _, _, _, issues_of (by decide +kernel) (by rfl) (by rfl) (by rfl) (by rfl), by rfl, by decide +kernel, by decide, by rfl, by rfl, by rfl, by rfl,
    by decide +kernel, by rfl, goes_ok {} (by decide +kernel)⟩,
   ⟨_, issues_of (by decide +kernel) (by rfl) (by rfl) (by rfl) (by rfl), by decide, by rfl, by rfl⟩⟩

/-- The reciprocals of 1 and −2 (R140). -/
theorem test_lm_eval : ∃ t, exec (.lmEval 0 (uabc 0 1 2 0xD)) (lamping [] []) = .next t ∧ (t.room 0).shelf.getN 0x100 4 = 0x3F800000 ∧
    (t.room 0).shelf.getN 0x104 4 = 0xBF000000 := ⟨_, rfl, by decide +kernel, by decide +kernel⟩

theorem wit_LampRowsAreWritten : let s := lamping [] []
    let o := Desc.ofWords [0x100, 9, 1, 2, 64]
    ∃ s2, storeRaws 0 .f32 (o.rowAddr 0) ([Val.one, .nz].map (fun v => (convert .f32 false v).1)) s = .ok () s2 := ⟨_, goes_unit (by decide +kernel)⟩

theorem wit_SincosWritesBoth : ∃ x fs s2 fc s3, let s := lamping [] []
    let u := uabc 4 1 3 0
    let e := entryFor lmSincosRow s 0 u
    let s1 := begunFor lmSincosRow s 0 u
    let d := Desc.ofWords e.ra
    let so := Desc.ofWords e.rb
    let co := Desc.ofWords e.rc
    Issues lmSincosRow s 0 u e s1 ∧ Reads (sincosPrep 0 u e) s1 (d, so, co, .bf16, .f32, .f32) ∧ so.status = none ∧ co.status = none ∧
    Reads (loadScaled 0 d .bf16 0 0 d.cols) s1 x ∧ lampWrite 0 e d.tag so .f32 false [x.map (sincosEl false)] s1 = .ok fs s2 ∧
    lampWrite 0 e d.tag co .f32 false [x.map (fun x => ((sincosEl true x).1, {}))] s2 = .ok fc s3 :=
  ⟨_, _, _, _, _, issues_of (by decide +kernel) (by rfl) (by rfl) (by rfl) (by rfl), by rfl, by decide +kernel, by decide +kernel, by rfl,
   goes_ok {} (by decide +kernel), goes_ok {} (by decide +kernel)⟩

/-- The sine of 0 is 0 and its cosine 1 (R144). -/
theorem test_lm_sincos : ∃ t, exec (.lmSincos 0 (uabc 4 1 3 0)) (lamping [] []) = .next t ∧ (t.room 0).shelf.getN 0x100 8 = 0 ∧
    (t.room 0).shelf.getN 0x200 8 = 0x3F8000003F800000 := ⟨_, rfl, by decide +kernel, by decide +kernel⟩

theorem wit_StatisticsOfRows : ∃ b x fs s2, let s := lamping [] []
    let u := uabc 0 1 2 0
    let e := entryFor lmStatRow s 0 u
    let s1 := begunFor lmStatRow s 0 u
    let d := Desc.ofWords e.ra
    let o := Desc.ofWords e.rb
    Issues lmStatRow s 0 u e s1 ∧ Reads (statPrep 0 u e) s1 (d, o, .bf16, .f32) ∧ o.status = none ∧ d.mask = none ∧ d.rows = 1 ∧
    Reads (lampBlock 0 e.rc) s1 b ∧ Reads (loadScaled 0 d .bf16 0 0 d.cols) s1 x ∧
    ([statOne 0 false x].zipIdx.mapM (fun p => statWrite 0 e d.tag o .f32 p.1 p.2)) s1 = .ok fs s2 :=
  ⟨_, _, _, _, issues_of (by decide +kernel) (by rfl) (by rfl) (by rfl) (by rfl), by rfl, by decide +kernel, by decide +kernel, by decide +kernel,
   by rfl, by rfl, goes_ok [] (by decide +kernel)⟩

/-- The sum of 1 and −2 is −1, and the sum of their squares 5 (R150). -/
theorem test_lm_stat : (∃ t, exec (.lmStat 0 (uabc 0 1 2 0)) (lamping [] []) = .next t ∧ (t.room 0).shelf.getN 0x100 4 = 0xBF800000) ∧
    ∃ t, exec (.lmStat 0 (uabc 0 1 2 1)) (lamping [] []) = .next t ∧ (t.room 0).shelf.getN 0x100 4 = 0x40A00000 :=
  ⟨⟨_, rfl, by decide +kernel⟩, ⟨_, rfl, by decide +kernel⟩⟩

/-- Two parts at 0: the INT32 values 7 and −9, which are also the parts of a triple each. -/
def reducing (fmt : Nat) : State := unit [[0, fmt, 1, 2, 64], [0x100, fmt, 1, 1, 64]] [] (fun m => { m with shelf := mem [(0, 4, 7), (4, 4, 2 ^ 32 - 9)] })

theorem wit_ReductionOfParts :
    (∃ bs s2, let s := reducing 9
      let u := uabc 0 1 0 0x42
      let e := entryFor lmRedRow s 0 u
      let s1 := begunFor lmRedRow s 0 u
      let d := Desc.ofWords e.ra
      let o := Desc.ofWords e.rb
      Issues lmRedRow s 0 u e s1 ∧ Reads (redPrep 0 u e) s1 (d, o, .f32) ∧ o.status = none ∧ u.imm.getLsbD 6 = true ∧ FmtU.field u 0 5 = 2 ∧
      Reads (loadAt 0 d.base (2 * 12)) s1 bs ∧ storeAt 0 o.base (redTriples bs 2).1 s1 = .ok () s2) ∧
    (∃ xs s2, let s := reducing 3
      let u := uabc 0 1 0 0x22
      let e := entryFor lmRedRow s 0 u
      let s1 := begunFor lmRedRow s 0 u
      let d := Desc.ofWords e.ra
      let o := Desc.ofWords e.rb
      Issues lmRedRow s 0 u e s1 ∧ Reads (redPrep 0 u e) s1 (d, o, .int32) ∧ o.status = none ∧ u.imm.getLsbD 5 = true ∧
      Reads (loadRaws 0 .int32 d.base 2) s1 xs ∧ storeNat 0 o.base 4 (2 ^ 32 - 2) s1 = .ok () s2) ∧
    ∃ xs cv s2, let s := reducing 9
      let u := uabc 0 1 0 2
      let e := entryFor lmRedRow s 0 u
      let s1 := begunFor lmRedRow s 0 u
      let d := Desc.ofWords e.ra
      let o := Desc.ofWords e.rb
      Issues lmRedRow s 0 u e s1 ∧ Reads (redPrep 0 u e) s1 (d, o, .f32) ∧ o.status = none ∧ u.imm.getLsbD 6 = false ∧ u.imm.getLsbD 5 = false ∧
      Reads (loadOpds 0 .f32 d.base 2) s1 xs ∧ storeVals 0 .f32 false o.base [Val.one] s1 = .ok cv s2 :=
  ⟨⟨_, _, issues_of (by decide +kernel) (by rfl) (by rfl) (by rfl) (by rfl), by rfl, by decide +kernel, by decide, by decide, by rfl,
    goes_unit (by decide +kernel)⟩,
   ⟨_, _, issues_of (by decide +kernel) (by rfl) (by rfl) (by rfl) (by rfl), by rfl, by decide +kernel, by decide, by rfl, goes_unit (by decide +kernel)⟩,
   ⟨_, _, _, issues_of (by decide +kernel) (by rfl) (by rfl) (by rfl) (by rfl), by rfl, by decide +kernel, by decide, by decide, by rfl,
    goes_ok [] (by decide +kernel)⟩⟩

/-- 7 − 9 = −2 (R97). -/
theorem test_lm_red : ∃ t, exec (.lmRed 0 (uabc 0 1 0 0x22)) (reducing 3) = .next t ∧ (t.room 0).shelf.getN 0x100 4 = 0xFFFFFFFE :=
  ⟨_, rfl, by decide +kernel⟩

/-- Table 3 with bank 1 written, which is sound. -/
theorem wit_LampSwapMakesTheOtherBankActive : ∃ tab, let s := lamping [] (bank 0xE00)
    let u := uimm 3
    let s1 := s.begun 0 2 (entryOf s 0 (.lmSwap u) u [] [] [])
    UReady s 0 u ⟨.unused, .unused, .unused, 3⟩ ∧ s.fld (rreg 0 Reg.lmTblt + 12) 0 1 = 0 ∧ loadBank 0 3 1 s1 = .ok tab s1 ∧ tab.ok = true :=
  ⟨_, uready_of (by decide +kernel), by decide +kernel, by rfl, by decide +kernel⟩

/-- The swap makes bank 1 active and loaded, in epoch 1 (R145). -/
theorem test_lm_swap : ∃ t, exec (.lmSwap 0 (uimm 3)) (lamping [] (bank 0xE00)) = .next t ∧ t.reg (rreg 0 Reg.lmTblt + 12) = 0x10003 :=
  ⟨_, rfl, by decide +kernel⟩

/-! ## The Parlour -/

/-- A room of slot 0's job, with everything that the Parlour's instructions read in its Chest: an attention block at 0x200000 (head dimension
64, one query row, output F32, causal), a list of one page, number 7, at 0x200100, whose next position is 5, a query and a position of
zeros; and a Larder at 0x10000 in DRAM with one class, pages 7 and 8, of which 7 is RESIDENT (R154, R163, R167). -/
def paging (shelf : Memory) : State :=
  let s := unit [[0x200000, 0, 0x3000001], [0x200500, 8, 1, 64, 128], [0x200600, 9, 1, 64, 256], [0x200100, 0, 1], [0x200A00, 0, 1]] [] (fun m =>
    { m with job := some 0, shelf := shelf, chest := mem [(1, 2, 0x101), (3, 2, 0x901), (8, 4, 0x3F800000), (0x10, 4, 0x200100), (0x14, 4, 0x200200), (0x18, 4, 0x200300), (0x1C, 4, 0x200400), (0x100, 2, 1), (0x102, 2, 4), (0x104, 1, 1), (0x108, 8, 5), (0x110, 4, 7)] })
  { s with jobs := s.jobs.set 0 { (s.jobs.get 0) with st := .running, desc := { (s.jobs.get 0).desc with larder := 0x10000 } }
           dram := mem [(0x10007, 1, 1), (0x10008, 8, 0x20000), (0x10020, 8, 7 + 2 * 2 ^ 24 + 257 * 2 ^ 48), (0x20076, 1, 1)]
           thr := { s.thr with larders := [{ addr := 0x10000, free := [[0x40000]] }] } }

/-- Setting a page's token count in its Shelf copy, wherever that lies. -/
theorem setTokens_none {r : RoomId} {list page n : Nat} {s : State} (h : s.eccOf (some r) .shelf = []) : setTokens r list page n s = .ok ()
    (let s1 := s.setMem (some r) .shelf ((s.mem (some r) .shelf).putBytes (copyOff list page + 6) (bytesOfNat 1 n))
     match roomLarder s1 r with
     | some h => setPageEntry h page { (pageEntry s1 h page) with count := n % 256 } s1
     | none => s1) := by
  simp only [setTokens, storeCopy, bind, EStateM.bind, storeBytes_none h (by decide)]
  rfl

/-- The first position of the only page, whose copy is all zeros: base 0, no token. -/
theorem wit_PagesetAdvances : ∃ a pl x s2 s3 s4, let s := paging []
    let u := uabc 3 4 0 0x24000
    let e := entryFor paPagesetAdvanceRow s 0 u
    let s1 := begunFor paPagesetAdvanceRow s 0 u
    let ld := Desc.ofWords e.ra
    let o := Desc.ofWords e.rb
    Issues paPagesetAdvanceRow s 0 u e s1 ∧ Reads (pagesetPrep 0 (paPagesetAdvanceRow.prep u) e) s1 (a, pl, ld, o) ∧ o.status = none ∧ a.w = 0 ∧
    pl.next % 64 ≠ 0 ∧ Reads (copyHdrs 0 ld.base pl.pages) s1 [(7, x)] ∧ x.base ≤ pl.next ∧ pl.next < x.base + 64 ∧
    setTokens 0 ld.base 7 (pl.next - x.base + 1) s1 = .ok () s2 ∧
    storeList 0 ld.base { pl with next := (pl.next + 1) % 2 ^ 64, pages := [7] } s2 = .ok () s3 ∧
    storeAt 0 o.base (bytesOfNat 4 0xFFFFFF ++ bytesOfNat 4 0xFFFFFF ++ bytesOfNat 4 0xFFFFFF ++ bytesOfNat 4 0) s3 = .ok () s4 :=
  ⟨_, _, _, _, _, _, issues_of (by decide +kernel) (by rfl) (by rfl) (by rfl) (by rfl), by rfl, by decide +kernel, by decide +kernel, by decide +kernel,
   by rfl, by decide +kernel, by decide +kernel, setTokens_none (by decide +kernel), goes_unit (by decide +kernel), goes_unit (by decide +kernel)⟩

/-- A page of 64 tokens, at base 0 and at base 64: at query position 5 its first six keys are live, or none. -/
def met (base : Nat) : MetPage := ⟨0, 7, ⟨pageMagic, 1, 2, 64, 0, base, 0, 7, 0⟩⟩

theorem wit_AttendSkipsDeadPages : ∃ a : Attn, a.q = 1 ∧
    (∀ j < 64, (List.range 64).filter (keyLive a (met 64).hdr 5) = [] ∧ j < 64) ∧
    (List.range 64).filter (keyLive a (met 0).hdr 5) = [0, 1, 2, 3, 4, 5] ∧
    Reads (loadToken 0 a.list (met 0) a.dim false 5) (paging []) (resOf (loadToken 0 a.list (met 0) a.dim false 5) (paging []) []) ∧
    Reads (loadToken 0 a.list (met 0) a.dim true 5) (paging []) (resOf (loadToken 0 a.list (met 0) a.dim true 5) (paging []) []) :=
  ⟨⟨64, 1, 1, true, false, false, .bf16, .f32, 0, 0, 0, 0x3F800000, 0, 0x200100, 0x200200, 0x200300, 0x200400⟩, rfl,
   fun j h => ⟨by decide +kernel, h⟩, by decide +kernel, by rfl, by rfl⟩

theorem bytes_eq_of {m : Memory} {bs : List Byte} {a : Nat} (h : ∀ i (l : i < bs.length), m.get (a + i) = bs[i]) : m.bytes a bs.length = bs := by
  induction bs generalizing a with
  | nil => rfl
  | cons b t ih =>
    have h0 := h 0 (by simp)
    have ht : Memory.bytes m (a + 1) t.length = t := ih (fun i l => by
      have := h (i + 1) (by simpa using l)
      simpa [Nat.add_assoc, Nat.add_comm 1 i] using this)
    simpa [Memory.bytes, ht] using h0

/-- What has been written reads back. -/
theorem bytes_written (m : Memory) (a : Nat) (bs : List Byte) : Memory.bytes (Memory.putBytes m a bs) a bs.length = bs :=
  bytes_eq_of (fun _ l => Memory.get_putBytes_in l)

/-- What lies behind what has been written stays. -/
theorem bytes_behind (m : Memory) (bs : List Byte) {a b : Nat} (n : Nat) (h : a + bs.length ≤ b) :
    Memory.bytes (Memory.putBytes m a bs) b n = m.bytes b n := by
  induction n generalizing b with
  | zero => rfl
  | succ n ih => simp only [Memory.bytes, Memory.get_putBytes_out bs (.inr h), ih (Nat.le_succ_of_le h)]

/-- The page's copy holds a header, wherever it lies, and the Shelf else the bytes of a memory. -/
def pageCopied (list : Nat) (m : Memory) (h : PageHdr) : State := paging (Memory.putBytes m (copyOff list 7) h.bytes)

theorem header_length (h : PageHdr) : h.bytes.length = 64 := by simp [PageHdr.bytes, bytesOfNat]

theorem header_reads (h : PageHdr) (m : Memory) (list : Nat) (s : State) (e : s.eccOf (some 0) .shelf = [])
    (x : s.mem (some 0) .shelf = Memory.putBytes m (copyOff list 7) h.bytes) : loadCopy 0 list 7 0 64 s = .ok h.bytes s := by
  rw [loadCopy, loadBytes_none e, x, Nat.add_zero]
  have := bytes_written m (copyOff list 7) h.bytes
  rw [header_length h] at this
  rw [this]

/-- A copy lies below the last 256 bytes of the Shelf. -/
theorem copy_below (list page : Nat) : copyOff list page + 64 ≤ 0xFFF00 := by
  have h : 64 * ((Store.shelf.size - pageMax) / 64) + 64 ≤ 0xFFF00 := by decide
  have := Nat.mod_lt (Config.pageCopy list page) (Nat.succ_pos ((Store.shelf.size - pageMax) / 64))
  simp only [copyOff, Nat.succ_eq_add_one] at this ⊢
  omega

/-- A list of one page, number 7, in the last 256 bytes of the Shelf, whose next position is 5. -/
def shelved : Memory := mem [(0xFFF00, 2, 1), (0xFFF02, 2, 4), (0xFFF04, 1, 1), (0xFFF08, 8, 5), (0xFFF10, 4, 7)]

/-- The attention block of `paging` with that list. -/
def attn (list : Nat) : Attn := ⟨64, 1, 1, true, false, false, .bf16, .f32, 0, 0, 0, 0x3F800000, 0, list, 0x200200, 0x200300, 0x200400⟩

theorem place_reads (h : PageHdr) (n a : Nat) (s : State) (e : s.eccOf (some 0) .shelf = []) (l : 0xFFF00 ≤ a)
    (x : s.mem (some 0) .shelf = Memory.putBytes shelved (copyOff 0xFFF00 7) h.bytes)
    (d : decodeAddr 0 a n s = .ok (.room 0 .shelf a) s) : loadAt 0 a n s = .ok (shelved.bytes a n) s := by
  simp only [loadAt, bind, EStateM.bind, d, loadPlace]
  rw [loadBytes_none e, x, bytes_behind _ _ n (by rw [header_length]; exact Nat.le_trans (copy_below _ _) l)]

theorem list_reads (f : Fis) (h : PageHdr) (s : State) (e : s.eccOf (some 0) .shelf = [])
    (x : s.mem (some 0) .shelf = Memory.putBytes shelved (copyOff 0xFFF00 7) h.bytes)
    (d : decodeAddr 0 0xFFF00 16 s = .ok (.room 0 .shelf 0xFFF00) s)
    (d' : decodeAddr 0 0xFFF10 4 s = .ok (.room 0 .shelf 0xFFF10) s) : loadList 0 f 0xFFF00 s = .ok ⟨1, 4, 1, false, 5, [7]⟩ s := by
  have h1 := place_reads h 16 0xFFF00 s e (by decide) x d
  have h2 := place_reads h 4 0xFFF10 s e (by decide) x d'
  have b1 : shelved.bytes 0xFFF00 16 = [1, 0, 4, 0, 1, 0, 0, 0, 5, 0, 0, 0, 0, 0, 0, 0] := by decide +kernel
  have b2 : shelved.bytes 0xFFF10 4 = [7, 0, 0, 0] := by decide +kernel
  rw [b1] at h1
  rw [b2] at h2
  unfold loadList
  simp only [bind, EStateM.bind, h1]
  have n : opNat [(1 : Byte), 0, 4, 0, 1, 0, 0, 0, 5, 0, 0, 0, 0, 0, 0, 0] 0 2 = 1 := by decide
  have a : addrPlus 0xFFF00 16 = 0xFFF10 := by decide
  simp only [n, a, Nat.mul_one]
  rw [if_neg (by decide), if_neg (by decide)]
  simp only [EStateM.bind, h2]
  rfl

theorem page_met (s : State) (x : PageHdr) (list : Nat) (mm : Memory) (b : pageHdrOf x.bytes = x) (e : s.eccOf (some 0) .shelf = [])
    (m : s.mem (some 0) .shelf = Memory.putBytes mm (copyOff list 7) x.bytes) (p : pageResident s (roomLarder s 0) 7 = true)
    (ok : (decide (x.magic = pageMagic) && tagForm x.tag x.form && decide (0 < x.count) && decide (x.count ≤ 64) && decide (headDim x.dim = some 64)) = true) :
    meetPage 0 (attn list) (7, 0) s = .ok (⟨0, 7, x⟩, false) s := by
  simp only [Bool.and_eq_true, decide_eq_true_eq] at ok
  have h := header_reads x mm list s e m
  obtain ⟨⟨⟨⟨o1, o2⟩, o3⟩, o4⟩, o5⟩ := ok
  have n1 : ¬ (x.magic ≠ pageMagic ∨ (!tagForm x.tag x.form) = true ∨ x.count = 0 ∨ 64 < x.count ∨ headDim x.dim ≠ some (attn list).dim) := by
    simp [o1, o2, o5, attn]; omega
  simp only [meetPage, bind, EStateM.bind, get, getThe, MonadStateOf.get, EStateM.get, p, Bool.not_true, Bool.false_eq_true, if_false]
  have h' : loadCopy 0 (attn list).list 7 0 64 s = .ok x.bytes s := h
  simp only [h', b, n1, if_false]
  rfl

/-- The page's copy in the Shelf, with the list in the Shelf too, as `pa.attend` needs it (R154). -/
def attending (h : PageHdr) : State :=
  (pageCopied 0xFFF00 shelved h).modRoom 0 (fun m => { m with chest := m.chest.putN 0x10 4 0xFFF00 })

/-- The query's position is 0, and the page's tokens are those of positions 64 to 127: the row meets no key, and its output is that of no
key (R155, R157). -/
theorem wit_AttendMeetsItsPages : ∃ s2 fs s3, let s := attending (met 64).hdr
    let u := uabc 0 1 2 0
    let e := entryFor paAttendRow s 0 u
    let s1 := begunFor paAttendRow s 0 u
    let q := Desc.ofWords e.rb
    let o := Desc.ofWords e.rc
    let qs := resOf (loadOpds 0 .bf16 (q.rowAddr 0) 64) s1 []
    let a := attn 0xFFF00
    Issues paAttendRow s 0 u e s1 ∧ Reads (attendPrep 0 u e) s1 (a, q, o) ∧ o.status = none ∧
    Reads (loadList 0 (.paAttend u) a.list) s1 ⟨1, 4, 1, false, 5, [7]⟩ ∧
    Reads (loadOpds 0 .bf16 (q.rowAddr 0) 64) s1 qs ∧ Reads (loadNat 0 (addrPlus a.pos 0) 8) s1 0 ∧
    [7].zipIdx.foldlM (meetNext 0 a (readOpd .f32 a.theta) [qs] [0]) ([{}], [], 0) s1 = .ok ([{ pages := [none] }], [met 64], 0) s2 ∧
    [({ pages := [none] } : AttnRow)].zipIdx.mapM (fun x => attendOut 0 e a o x.1 x.2) s2 = .ok fs s3 := by
  refine ⟨(begunFor paAttendRow (attending (met 64).hdr) 0 (uabc 0 1 2 0)).count64 (rreg 0 Reg.paPagesSkipped) 1, _, _, issues_of (by decide +kernel) (by rfl) (by rfl) (by rfl) (by rfl), by rfl, by decide +kernel, list_reads _ (met 64).hdr _ (by decide +kernel) (by rfl) (by rfl) (by rfl), by rfl, by rfl, ?_,
    goes_ok [] (by decide +kernel)⟩
  simp only [List.zipIdx_cons, List.zipIdx_nil, List.foldlM_cons, List.foldlM_nil, bind, EStateM.bind, meetNext]
  rw [page_met _ (met 64).hdr 0xFFF00 shelved (by decide +kernel) (by decide +kernel) (by rfl) (by decide +kernel) (by decide +kernel)]
  rfl

/-- A page of BF16 without tokens is narrowed to E4M3 without scales, as page 8. -/
theorem wit_PagesetNarrows : let hd : PageHdr := ⟨pageMagic, 1, 2, 0, 0, 0, 0, 7, 0⟩
    let s := pageCopied 0x200100 [] hd
    let u := uabc 3 4 0 0x24001
    let e := entryFor paPagesetNarrowRow s 0 u
    let s1 := begunFor paPagesetNarrowRow s 0 u
    let ld := Desc.ofWords e.ra
    let o := Desc.ofWords e.rb
    let dst := addrPlus o.base 0x40
    let v := paPagesetNarrowRow.prep u
    ∃ p s2 s3 s4 s5, Issues paPagesetNarrowRow s 0 u e s1 ∧ Reads (pagesetPrep 0 v e) s1 (attn 0x200100, ⟨1, 4, 1, false, 5, [7]⟩, ld, o) ∧ o.status = none ∧
      FmtU.field v 1 12 = 0 ∧ FmtU.field v 13 3 = 2 ∧ FmtU.field v 16 2 = 2 ∧ Reads (loadCopy 0 ld.base 7 0 64) s1 hd.bytes ∧ pageHdrOf hd.bytes = hd ∧
      hd.tag < 2 ∧ tagForm hd.tag hd.form = true ∧ headDim hd.dim = some (attn 0x200100).dim ∧
      takeFor 0 ld.base 0 (attn 0x200100).dim 2 2 hd.base hd.rest hd.count s1 = .ok p s2 ∧
      storeAt 0 dst ({ hd with tag := 2, form := 2, number := p } : PageHdr).bytes s2 = .ok () s3 ∧ min 64 hd.count = 0 ∧
      storeNat 0 (addrPlus ld.base 16) 4 p s3 = .ok () s4 ∧
      storeAt 0 o.base (bytesOfNat 4 0xFFFFFF ++ bytesOfNat 4 p ++ bytesOfNat 4 0xFFFFFF ++ bytesOfNat 4 0) s4 = .ok () s5 := by
  refine ⟨_, _, _, _, _, issues_of (by decide +kernel) (by rfl) (by rfl) (by rfl) (by rfl), by rfl, by decide +kernel, by decide, by decide, by decide,
    header_reads _ [] _ _ (by decide +kernel) (by rfl), by decide +kernel, by decide, by decide, by decide, goes_ok 0 (by decide +kernel),
    goes_unit (by decide +kernel), by decide, goes_unit (by decide +kernel), goes_unit (by decide +kernel)⟩


/-! ## The Dumbwaiter -/

/-- An instruction of the Floor, which its unit begins. -/
theorem wit_UnitInstructionBegins : ∃ s2, Issues flModeRow (on 0 id) 0 (uimm 0xC0) (entryFor flModeRow (on 0 id) 0 (uimm 0xC0)) (begunFor flModeRow (on 0 id) 0 (uimm 0xC0)) ∧
    beginUnit 0 (entryFor flModeRow (on 0 id) 0 (uimm 0xC0)) (begunFor flModeRow (on 0 id) 0 (uimm 0xC0)) = .ok () s2 :=
  ⟨_, issues_of (by decide +kernel) (by rfl) (by rfl) (by rfl) (by rfl), goes_unit (by decide +kernel)⟩

/-- A room at step time 5 with the program `END` at 0x1000, a0 naming it, a1 a status word, a2 room 1's Shelf, a3 the Pantry at 64, a4
1 KiB into a Shelf, and s1, s2 of 512 and 64. -/
def dwRoom (f : Room → Room) : State := on 0 (fun m => f { m with stepTime := 5, shelf := mem [(0, 8, 0x0807060504030201)], stew := { m.stew with areg := ((((m.stew.areg.set 0 0x1000).set 1 0x2000).set 2 0x02000000).set 3 0x40000040).set 4 0x400, sreg := (m.stew.sreg.set 1 512).set 2 64 } })

/-- A deadline of this moment and one already past. -/
theorem wit_LaunchIsQueued : RoomReady (dwRoom id) 0 ∧ (⟨.a, .a, .imm 3, 24⟩ : UShape).ok (uabc 0 1 3 5) = true ∧ predOn ((dwRoom id).room 0) (uabc 0 1 3 5) = true ∧
    checkAt 0 0x1000 16 (dwRoom id) = .ok () (dwRoom id) ∧ checkAt 0 0x2000 4 (dwRoom id) = .ok () (dwRoom id) ∧ ((dwRoom id).room 0).stepTime ≤ 5 :=
  ⟨ready_of (by decide +kernel), by decide, by decide +kernel, by rfl, by rfl, by decide⟩

theorem wit_LateLaunchBreaches : RoomReady (dwRoom id) 0 ∧ (⟨.a, .a, .imm 3, 24⟩ : UShape).ok (uabc 0 1 3 4) = true ∧ predOn ((dwRoom id).room 0) (uabc 0 1 3 4) = true ∧
    checkAt 0 0x1000 16 (dwRoom id) = .ok () (dwRoom id) ∧ checkAt 0 0x2000 4 (dwRoom id) = .ok () (dwRoom id) ∧ 4 < ((dwRoom id).room 0).stepTime :=
  ⟨ready_of (by decide +kernel), by decide, by decide +kernel, by rfl, by rfl, by decide⟩

/-- The launch waits in the queue with its channel free. -/
def launching : State := (dwRoom id).modQueue 0 4 (fun q => { q with entries := [⟨0, .dwLaunch (uabc 0 1 3 9), [0x1000], [0x2000], [3], 0, none, false, 0⟩] })

theorem wit_LaunchStarts : ∃ e prog, launching.up = true ∧ launchReady (launching.room 0) = some e ∧ e.op = .dwLaunch (uabc 0 1 3 9) ∧
    bitAt (e.rc.headD 0) 2 = false ∧ fetchProg 0 e.op 64 (e.ra.headD 0) [] (launching.modQueue 0 4 (fun q => { q with entries := q.entries.tail })) =
      .ok prog (launching.modQueue 0 4 (fun q => { q with entries := q.entries.tail })) :=
  ⟨_, [.end_], by decide +kernel, rfl, rfl, by decide, by rfl⟩

/-- A launch on channel 3. -/
def launched (l : Launch) : State := dwRoom (fun m => { m with chans := m.chans.set 3 (some l) })

theorem wit_LaunchCompletes : let l : Launch := { id := 0, pc := 8, prog := [.end_], status := 0x2000, deadline := 9, roles := 0, finished := true }
    (launched l).up = true ∧ ((launched l).room 0).chan 3 = some l ∧ launchLanded (launched l) 0 l = true ∧
    decodeAddr 0 l.status 4 (launched l) = .ok (.room 0 .shelf 0x2000) (launched l) ∧ (launched l).eccOf (some 0) .shelf = [] ∧
    ((launched l).room 0).sampler.awaiting = [] ∧ l.slotHeld = false :=
  ⟨by decide +kernel, by rfl, by decide +kernel, by rfl, by decide +kernel, by decide +kernel, rfl⟩

/-- The launch that waits starts and, having nothing to move, completes (R182, R186). -/
theorem test_launch_runs : ∃ t, exec (.dwLaunchStart 0) launching = .next t ∧ ((t.room 0).chan 3).map (fun l => l.finished) = some true ∧
    ((t.room 0).queue 4).entries = [] := ⟨_, rfl, by decide +kernel, by decide +kernel⟩

/-- No launch on the channels of the mask, and one. -/
theorem wit_DwWaitWaitsForItsChannels : let l : Launch := { id := 0, pc := 8, prog := [.end_], status := 0x2000, deadline := 9, roles := 0 }
    UReady (launched l) 0 (uimm 7) { imm := 4 } ∧ launchesOn ((launched l).room 0) 7 = false ∧ UReady (launched l) 0 (uimm 15) { imm := 4 } ∧
    launchesOn ((launched l).room 0) 15 = true :=
  ⟨uready_of (by decide +kernel), by decide +kernel, uready_of (by decide +kernel), by decide +kernel⟩

/-- Pane pair 15. -/
def paned : State := dwRoom (fun m => { m with panes := List.replicate 15 0 ++ [0x200000400000] })

theorem wit_DwSwapExchangesThePanes : ∃ n, UReady paned 0 (uimm 15) ⟨.unused, .unused, .unused, 4⟩ ∧
    paneAddr (paned.room 0) (paned.room 0).roles 15 true = some n ∧ ∀ ch, (paned.room 0).chan ch = none :=
  ⟨_, uready_of (by decide +kernel), by rfl, by decide +kernel⟩

/-- 512 bytes to another room and 64 to the Pantry. -/
theorem wit_PutIsSent : let s1 (u : FmtU) (b n : Nat) := (dwRoom id).taken 0 (entryOf (dwRoom id) 0 (.dwPut u) u [0x1000] [b] [n])
    UReady (dwRoom id) 0 (uabc 0 2 1 0) ⟨.a, .a, .s, 0⟩ ∧ checkAt 0 0x1000 512 (dwRoom id) = .ok () (dwRoom id) ∧
    checkAt 0 0x02000000 512 (dwRoom id) = .ok () (dwRoom id) ∧
    (∃ bs, loadAt 0 0x1000 512 (s1 (uabc 0 2 1 0) 0x02000000 512) = .ok bs (s1 (uabc 0 2 1 0) 0x02000000 512) ∧ bs.length = 512) ∧
    decodeAddr 0 0x02000000 512 (s1 (uabc 0 2 1 0) 0x02000000 512) = .ok (.room 1 .shelf 0) (s1 (uabc 0 2 1 0) 0x02000000 512) ∧
    (Place.room 1 .shelf 0).isLocal 0 = false ∧ checkAt 0 0x40000040 64 (dwRoom id) = .ok () (dwRoom id) ∧
    decodeAddr 0 0x40000040 64 (s1 (uabc 0 3 2 0) 0x40000040 64) = .ok (.pantry 64) (s1 (uabc 0 3 2 0) 0x40000040 64) :=
  ⟨uready_of (by decide +kernel), by rfl, by rfl, ⟨_, by rfl, by decide +kernel⟩, by rfl, rfl, by rfl, by rfl⟩

/-- Thirty-two addends of 8 bytes, the largest count. -/
theorem wit_AddIsSent : let u := uabc 0 2 0 0x3F
    let s1 := (dwRoom id).taken 0 (entryOf (dwRoom id) 0 (.dwAdd u) u [0x1000] [0x02000000] [])
    UReady (dwRoom id) 0 u ⟨.a, .a, .unused, 6⟩ ∧ checkAt 0 0x1000 256 (dwRoom id) = .ok () (dwRoom id) ∧
    checkAt 0 0x02000000 256 (dwRoom id) = .ok () (dwRoom id) ∧ (∃ bs, loadAt 0 0x1000 256 s1 = .ok bs s1) ∧
    decodeAddr 0 0x02000000 256 s1 = .ok (.room 1 .shelf 0) s1 :=
  ⟨uready_of (by decide +kernel), by rfl, by rfl, ⟨_, by rfl⟩, by rfl⟩

/-- The put is sent as two remote writes of 256 bytes (R196). -/
theorem test_put_is_two_writes : ∃ t, exec (.dwPut 0 (uabc 0 2 1 0)) (dwRoom id) = .next t ∧ t.hall.map (fun o => (o.room, o.off)) = [(some 1, 0), (some 1, 256)] :=
  ⟨_, rfl, by decide +kernel⟩

/-- Group 15 is map entry 2, with rooms 1 and 31. -/
def grouped : State := (((dwRoom id).setReg (rreg 0 Reg.roomGrpvalid) 0x8000).setReg (rreg 0 Reg.roomGrpmap + 4) 0x20000000).setReg (Reg.hallMcastGroupg + 8) 0x80000002

theorem wit_MulticastStarts : UReady grouped 0 (uabc 3 4 2 15) ⟨.a, .a, .s, 4⟩ ∧ bitAt (grouped.reg (rreg 0 Reg.roomGrpvalid)).toNat 15 = true ∧
    decodeAddr 0 0x40000040 64 grouped = .ok (.pantry 64) grouped ∧ bitsOf 0x40000040 0 30 = 64 ∧ (∀ t, mcastDest 0x400 64 t = .ok 0x400 t) ∧
    groupRooms grouped (grouped.fld (rreg 0 Reg.roomGrpmap + 4) 28 4) = [{ room := 1 }, { room := 31 }] :=
  ⟨uready_of (by decide +kernel), by decide +kernel, by rfl, by decide, fun _ => rfl, by decide +kernel⟩

/-- A launch that wants a line. -/
def wanting : State := { launched { id := 4, pc := 0, prog := [], status := 0x2000, deadline := 9, roles := 0, want := [4, 5] } with ports := (up.ports.set 0 { creditRq := 1 }) }

theorem wit_ReadTagIsGranted : ∃ port l x, wanting.up = true ∧ 0 < (wanting.ports.get port).creditRq ∧ (wanting.ports.get port).reads = [] ∧
    tagTarget wanting false port = some (0, 3) ∧ (wanting.room 0).chan 3 = some l ∧ readWanted wanting 0 3 port = some x :=
  ⟨0, _, 4, by decide +kernel, by decide +kernel, by decide +kernel, by decide +kernel, by rfl, by decide +kernel⟩

theorem wit_DeadlineBreaches : let l : Launch := { id := 0, pc := 8, prog := [.end_], status := 0x2000, deadline := 9, roles := 0 }
    (launched l).up = true ∧ ((launched l).room 0).chan 3 = some l ∧ l.stopped = false ∧ l.deadline ≤ 9 ∧ ((launched l).room 0).stepTime ≤ 9 :=
  ⟨by decide +kernel, by rfl, rfl, by decide, by decide⟩

/-! ## The Hall -/

/-- A Hall with operations on their way. -/
def halled (l : List HallOp) : State := { up with hall := l }

theorem halled_still (l : List HallOp) : (halled l).still :=
  fun r => still_of (m := up.room r) (by revert r; decide +kernel)

/-- A write to the last bytes of a Shelf, and one to the Pantry behind an operation that has been applied. -/
theorem wit_RemoteWriteLands : let o : HallOp := { src := 0, room := some 31, store := .shelf, off := 0xFFFFE, act := .write [1, 2], owner := .store, pc := 0 }
    let p : HallOp := { src := 0, room := none, store := .pantry, off := 0, act := .write [1, 2], owner := .entry 3, pc := 0 }
    (halled [o, p]).up = true ∧ (halled [o, p]).still ∧ hallFirst [o, p] 0 = true ∧ hallFirst [{ o with done := true }, p] 1 = true ∧ o.hub = false ∧
    (halled [o, p]).eccOf o.room o.store = [] ∧ (o.room = none ↔ o.store = .pantry) ∧ (p.room = none ↔ p.store = .pantry) :=
  ⟨by decide +kernel, halled_still _, by decide, by decide, rfl, by decide +kernel, by decide, by decide⟩

theorem wit_RemoteAddAdds : let o : HallOp := { src := 0, room := some 31, store := .parlour, off := 8, act := .add [1, 2] true, owner := .entry 0, pc := 0 }
    (halled [o]).up = true ∧ (halled [o]).still ∧ (halled [o]).hall[0]? = some o ∧ hallFirst [o] 0 = true ∧ o.hub = false ∧ (halled [o]).eccOf o.room o.store = [] ∧
    (o.room = none ↔ o.store = .pantry) :=
  ⟨by decide +kernel, halled_still _, rfl, by decide, rfl, by decide +kernel, by decide⟩

/-- A remote add wraps (R197). -/
theorem test_remote_add_wraps : addWords 4 [3] [0xFFFFFFFF] = [2, 0, 0, 0] := by decide +kernel

theorem wit_ReadReturnReads : let o : HallOp := { src := 0, room := some 31, store := .shelf, off := 8, act := .read 4, owner := .launch 0, pc := 0 }
    (halled [o]).up = true ∧ (halled [o]).still ∧ hallFirst [o] 0 = true ∧ o.hub = false ∧ (halled [o]).eccOf o.room o.store = [] :=
  ⟨by decide +kernel, halled_still _, by decide, rfl, by decide +kernel⟩

theorem wit_AcknowledgementCompletes : let o : HallOp := { src := 0, room := some 31, store := .shelf, off := 8, act := .write [1], owner := .entry 3, pc := 0, done := true }
    let s := (halled [o, { o with owner := .entry 2 }]).modQueue 0 4 (fun q => { q with posts := [(3, false), (4, false)] })
    s.up = true ∧ s.still ∧ s.hall[0]? = some o ∧ (∀ x ∈ s.hall.eraseIdx 0, ¬ (x.src = o.src ∧ x.owner = .entry 3)) ∧ (s.room o.src).sampler.awaiting = [] ∧
    ((s.room o.src).queue 4).posts = (3, false) :: [(4, false)] :=
  ⟨by decide +kernel, fun r => still_of (by revert r; decide +kernel), rfl, by decide +kernel, by decide +kernel, by decide +kernel⟩

/-- A multicast to two rooms, of which one lags by the greatest lag at which another packet goes out. -/
def casting (sent acked : Nat) : State := { up with mcasts := [{ id := 1, src := 0, owner := .launch 0, pc := 0, from_ := .bytes [1, 2, 3], store := .shelf, off := 0, size := 0x20000, sent := sent, recv := [{ room := 1, sent := sent, acked := sent }, { room := 2, sent := sent, acked := acked }] }] }

theorem wit_MulticastPacketIsSent : ∃ m b, (casting 0xFFFF 0).up = true ∧ (casting 0xFFFF 0).mcasts[0]? = some m ∧ m.from_ = .bytes b ∧ m.sent < m.size ∧
    (∀ x ∈ (casting 0xFFFF 0).mcasts, x.id = m.id → x = m) ∧ (m.recv.any (fun x => !x.detached)) = true ∧
    (∀ x ∈ m.recv, x.detached = false → m.sent - x.acked < 0x10000) :=
  ⟨_, _, by decide +kernel, rfl, rfl, by decide +kernel, by decide +kernel, by decide +kernel, by decide +kernel⟩

theorem wit_SlowReceiverIsDetached : ∃ m x, (casting 0x10000 0).up = true ∧ (casting 0x10000 0).mcasts[0]? = some m ∧
    (∀ y ∈ (casting 0x10000 0).mcasts, y.id = m.id → y = m) ∧ x ∈ m.recv ∧ x.room = 2 ∧ x.detached = false ∧ m.sent - x.acked = 0x10000 :=
  ⟨_, { room := 2, sent := 0x10000, acked := 0 }, by decide +kernel, rfl, by decide +kernel, by decide +kernel, rfl, rfl, by decide +kernel⟩

theorem wit_PantryRegionIsReleased : ∃ m, (casting 0x20000 0x20000).up = true ∧ (casting 0x20000 0x20000).still ∧ (casting 0x20000 0x20000).mcasts[0]? = some m ∧
    m.owner = .launch 0 ∧ ∀ x ∈ m.recv, m.size ≤ x.acked :=
  ⟨_, by decide +kernel, fun r => still_of (m := up.room r) (by revert r; decide +kernel), rfl, rfl, by decide +kernel⟩

/-- A corrected word, and patrol over a sound word, one with one bit in error and one with two. -/
def patrolled (x : List (Nat × Nat × Nat)) : State := (on 0 (fun m => { m with ecc := x, rewrites := [(0, 7)] })).setReg (rreg 0 Reg.roomEccCtl) 1

theorem wit_CorrectedWordIsRewritten : (patrolled [(0, 7, 1)]).up = true ∧ (0, 7) ∈ ((patrolled [(0, 7, 1)]).room 0).rewrites := by decide +kernel

theorem wit_PatrolReadsTheNextWord : (patrolled []).up = true ∧ (patrolled []).fld (rreg 0 Reg.roomEccCtl) 0 1 = 1 ∧ ((patrolled []).room 0).power = .on ∧
    ((patrolled []).room 0).patrol < 0x20000 ∧ ((patrolled []).eccOf (some 0) .shelf).lookup 0 = none ∧
    ((patrolled [(0, 0, 1)]).eccOf (some 0) .shelf).lookup 0 = some 1 ∧ ((patrolled [(0, 0, 2)]).eccOf (some 0) .shelf).lookup 0 = some 2 := by
  decide +kernel

/-! ## Barriers -/

/-- Room 0, whose logical channel 7 is channel 7, with or without an arrival on it. -/
def arriving (b : Bool) : State := (on 0 (fun m => { m with awaiting := m.awaiting.set 7 b })).setReg (rreg 0 Reg.roomChmap) 0xF0000000

theorem wit_ArrivalTogglesTheSense : UReady (arriving false) 0 (uimm 15) { imm := 4 } ∧ mapChan (arriving false) 0 7 = some 7 ∧
    ((arriving false).room 0).awaiting.get 7 = false ∧ UReady (arriving true) 0 (uimm 7) { imm := 4 } ∧ ((arriving true).room 0).awaiting.get 7 = true :=
  ⟨uready_of (by decide +kernel), by decide +kernel, by decide +kernel, uready_of (by decide +kernel), by decide +kernel⟩

/-- A split arrival goes on and a plain one waits (R207, R271). -/
theorem test_arrivals : (∃ t, exec (.syArrive 0 (uimm 15)) (arriving false) = .next t ∧ (t.room 0).stew.pc = 8 ∧ (t.room 0).sense.get 7 = true) ∧
    ∃ t, exec (.syArrive 0 (uimm 7)) (arriving false) = .next t ∧ (t.room 0).stew.waiting = .release 7 false :=
  ⟨⟨_, rfl, by decide +kernel, by decide +kernel⟩, ⟨_, rfl, by decide +kernel⟩⟩

/-- Channel 7 of room 0 and the Porch, of which the Porch has arrived and the room with a given sense; room 0 waits for the release. A job
whose step barrier it may be runs with room 0. -/
def gathered (sense : Bool) (slot : Option SlotId) : State :=
  let s := runs 0 (fun w => { w with waiting := .release 7 false, stall := .barrier })
  (s.modRoom 0 (fun m => { m with sense := m.sense.set 7 sense, awaiting := m.awaiting.set 7 true })).modBar 7 (fun _ => { e := true, members := 0x100000001, porch := true, arrived := true, slot := slot })

theorem wit_BarrierReleases : (gathered true none).up = true ∧ barMissing (gathered false none) 7 ≠ 0 ∧ releases (gathered true none) 7 = true ∧
    stepJob (gathered true none) 7 = none ∧ ((gathered true none).bar 7).members.getLsbD 0 = true ∧
    ((gathered true none).room 0).stew.waiting = .release 7 false := by decide +kernel

/-- The same with a running job whose step barrier the channel is, in a step. -/
def stepping (sense : Bool) : State := { gathered sense (some 2) with jobs := up.jobs.set 2 { st := .running, chans := [7], rooms := [some 0], inStep := true, number := 5, step := 9, ckpts := [{ step := 9, streams := [(4095, 77)] }] } }

theorem wit_StepBarrierEndsTheStep : (stepping true).up = true ∧ releases (stepping true) 7 = true ∧ stepJob (stepping true) 7 = some 2 ∧
    ((stepping true).job 2).inStep = true ∧ 0 ∈ ((stepping true).job 2).physical := by decide +kernel

/-- A limit with a member missing, and none. -/
theorem wit_WatchdogExpires : let s := (stepping false).setReg (Reg.landBarnWdog + 0xE0) 1
    s.up = true ∧ (s.bar 7).slot = some 2 ∧ s.reg (Reg.landBarnWdog + 0xE0) ≠ 0 ∧ (s.bar 7).arrived = true ∧ barMissing s 7 ≠ 0 ∧
    (s.job 2).st = .running ∧ (s.job 2).debug = false ∧ (s.setReg (Reg.landBarnWdog + 0xE0) 0).reg (Reg.landBarnWdog + 0xE0) = 0 := by decide +kernel

/-- A checkpoint of one stream, in the Ledger's last entry. -/
def checkpointed : State := ((((stepping false).setLed 4095 Led.state Led.READY).setLed 4095 Led.job 5).setLed 4095 Led.kind 0).setLed 4095 Led.attic 0x10000

theorem wit_CheckpointCommits : checkpointed.up = true ∧ (checkpointed.job 2).ckpts = [{ step := 9, streams := [(4095, 77)] }] ∧ (checkpointed.job 2).ending = none ∧
    ckptDone checkpointed { step := 9, streams := [(4095, 77)] } = true ∧
    ckptDone (launched { id := 4, pc := 0, prog := [], status := 0x2000, deadline := 9, roles := 0 }) { step := 9, streams := [], launches := [(0, 4)] } = false ∧
    checkpointed.jobOf 4095 = some 2 ∧ checkpointed.led 4095 Led.state ≠ Led.FAULTED := by decide +kernel

/-! ## Sync words -/

/-- Handle 1023 of context 0 bound to word 16383, a counter, a flag, a claim or ABANDONED; s1 is −1. -/
def bound (v : Word64) : State :=
  let s := runs 0 (fun w => { w with sreg := w.sreg.set 1 0xFFFFFFFFFFFFFFFF })
  { s with land := { s.land with keyring := [(1023, 0x7FFF)], words := [(16383, v)] } }

theorem wit_SyncOperationsAreSent : UReady (bound 0) 0 (uimm 0x3FF) { imm := 10 } ∧ UReady (bound 0) 0 (withImm (uabc 0 1 0 0x3FF) 10 1 0) { rb := .s, imm := 11 } ∧
    UReady (bound 0) 0 (withImm (uabc 0 1 0 0x3FF) 10 1 1) { rb := .s, imm := 11 } ∧ roomCtx (bound 0) 0 = 0 ∧ sget 0 (bound 0).land.krEcc 1023 < 2 ∧
    (bound 0).keyWord 0 1023 = some 16383 ∧ UReady (bound 0) 0 (uimm 0) { imm := 10 } ∧ (bound 0).keyWord 0 0 = none :=
  ⟨uready_of (by decide +kernel), uready_of (by decide +kernel), uready_of (by decide +kernel), by decide +kernel, by decide +kernel, by decide +kernel,
   uready_of (by decide +kernel), by decide +kernel⟩

/-- `sy.add` of −1 is sent with its sign (R214). -/
theorem test_add_is_signed : ∃ t, exec (.syAdd 0 (uabc 0 1 0 0x3FF)) (bound 0) = .next t ∧ (t.land.ops.map (fun o => (o.word, o.act))) = [(16383, .add (-1))] :=
  ⟨_, rfl, by decide +kernel⟩

/-- Room 0 with its slot 15 in a state. -/
def slotted (x : WSlot) : State := (bound (mkWord 1 0 hostJob 5)).setSlot 0 15 x

theorem wit_WatchIsSentAndArmsItsSlot : let v := withImm (uabc 1 0 0 0x3FFF) 16 1 0
    UReady (slotted .empty) 0 v { ra := .s, rc := .s, imm := 17 } ∧ FmtU.field v 10 4 = 15 ∧ FmtU.field v 0 10 = 1023 ∧
    sget 0 (slotted .empty).land.krEcc 1023 < 2 ∧ (slotted .empty).keyWord 0 1023 = some 16383 ∧ ((slotted .empty).room 0).slots.get 15 ≠ .armed ∧
    UReady (slotted .armed) 0 v { ra := .s, rc := .s, imm := 17 } ∧ ((slotted .armed).room 0).slots.get 15 = .armed :=
  ⟨uready_of (by decide +kernel), by decide +kernel, by decide +kernel, by decide +kernel, by decide +kernel, by decide +kernel, uready_of (by decide +kernel), by decide +kernel⟩

theorem wit_WatchCancelAnswers : let v := withImm (uabc 1 0 2 0x3FFF) 16 1 1
    UReady (slotted .empty) 0 v { ra := .s, rc := .s, imm := 17 } ∧ ((slotted .empty).room 0).slots.get 15 = .empty ∧
    UReady (slotted (.wake 5 1)) 0 v { ra := .s, rc := .s, imm := 17 } ∧ ((slotted (.wake 5 1)).room 0).slots.get 15 ≠ .empty ∧
    ((slotted (.wake 5 1)).room 0).slots.get 15 ≠ .armed ∧ UReady (slotted .armed) 0 v { ra := .s, rc := .s, imm := 17 } :=
  ⟨uready_of (by decide +kernel), by decide +kernel, uready_of (by decide +kernel), by decide +kernel, by decide +kernel, uready_of (by decide +kernel)⟩

/-- `sy.wait` on slot 15 with each content, and on a barrier with and without an arrival. -/
theorem wit_WaitTakesTheWake : let v := withImm (uabc 0 0 2 15) 4 1 0
    let w := withImm (uabc 0 0 2 0xE0) 4 1 1
    UReady (slotted (.wake 7 1)) 0 v { rc := .s, imm := 8 } ∧ ((slotted (.wake 7 1)).room 0).slots.get 15 = .wake 7 1 ∧
    UReady (slotted .empty) 0 v { rc := .s, imm := 8 } ∧ UReady (slotted (.coming 7 1)) 0 v { rc := .s, imm := 8 } ∧
    UReady (slotted .armed) 0 v { rc := .s, imm := 8 } ∧ UReady (arriving false) 0 w { rc := .s, imm := 8 } ∧
    mapChan (arriving false) 0 (FmtU.field w 5 3) = some 7 ∧ UReady (arriving true) 0 w { rc := .s, imm := 8 } :=
  ⟨uready_of (by decide +kernel), by decide +kernel, uready_of (by decide +kernel), uready_of (by decide +kernel), uready_of (by decide +kernel),
   uready_of (by decide +kernel), by decide +kernel, uready_of (by decide +kernel)⟩

/-- A wake is taken with its status and leaves its slot empty (R221). -/
theorem test_wait_takes : ∃ t, exec (.syWait 0 (uabc 0 0 2 15)) (slotted (.wake 7 1)) = .next t ∧ (t.room 0).stew.read (.s 2) = 0x100000007 ∧
    (t.room 0).slots.get 15 = .empty := ⟨_, rfl, by decide +kernel, by decide +kernel⟩

/-- No write on its way, and one in the Hall. -/
theorem wit_FenceWaitsForItsClasses : let s := { on 0 id with hall := [{ src := 0, room := some 1, store := .shelf, off := 0, act := .write [1], owner := .store, pc := 0 }] }
    UReady (on 0 id) 0 (uimm 7) { imm := 3 } ∧ fenceBusy (on 0 id) 0 7 = false ∧ UReady s 0 (uimm 2) { imm := 3 } ∧ fenceBusy s 0 2 = true :=
  ⟨uready_of (by decide +kernel), by decide +kernel, uready_of (by decide +kernel), by decide +kernel⟩

/-- A counter at each end of its range, a flag and a claim (R215). -/
theorem wit_SyncWordArithmetic : wordKind (mkWord 1 0 hostJob 5) = 1 ∧ wordValue (mkWord 1 0 hostJob 0xFFFFFFFE) < 2 ^ 32 - 1 ∧
    wordValue (mkWord 3 0 hostJob 0xFFFFFFFF) = 2 ^ 32 - 1 ∧ wordKind (mkWord 2 0 hostJob 1) = 2 ∧ wordKind (mkWord 3 0 hostJob 5) = 3 ∧
    (wordValue (mkWord 1 0 hostJob 5) : Int) + (-5) = 0 ∧ (2 : Int) ^ 32 ≤ wordValue (mkWord 1 0 hostJob 0xFFFFFFFF) + 1 ∧
    (wordValue (mkWord 1 0 hostJob 5) : Int) + (-6) < 0 := by decide +kernel

/-- An operation that reaches a word which holds a value. -/
def reaching (v : Word64) (d : SyncDo) : State := { bound v with land := { (bound v).land with ops := [⟨0, 1023, 16383, d, 0, 0⟩] } }

/-- One on a counter in range, past each end, on a flag with the wrong operation, and on an ABANDONED word. -/
theorem wit_SyncOperationIsApplied : let s := reaching (mkWord 1 0 hostJob 5) .signal
    s.up = true ∧ s.land.ops[0]? = some ⟨0, 1023, 16383, .signal, 0, 0⟩ ∧ syncFirst s.land.ops 0 = true ∧ syncEcc s 16383 < 2 ∧ s.land.watches = [] ∧
    wordAbandoned (s.word 16383) = false ∧ (syncResult (s.word 16383) .signal).2 = .done ∧ (syncResult (s.word 16383) (.add (-6))).2 = .low ∧
    (syncResult (s.word 16383) (.add 0xFFFFFFFF)).2 = .high ∧ (syncResult (s.word 16383) (.set 1)).2 = .kindError ∧
    wordAbandoned (wordSet (s.word 16383) 58) = true := by decide +kernel

/-- A watch whose condition holds and one whose condition does not. -/
theorem wit_WatchReachesItsWord : let s := reaching (mkWord 1 0 hostJob 5) (.watch 15 0 5)
    s.up = true ∧ s.land.ops[0]? = some ⟨0, 1023, 16383, .watch 15 0 5, 0, 0⟩ ∧ syncFirst s.land.ops 0 = true ∧ syncEcc s 16383 < 2 ∧ s.land.watches = [] ∧
    wordAbandoned (s.word 16383) = false ∧ wordKind (s.word 16383) ≠ 3 ∧ condHolds 0 (wordValue (s.word 16383)) 5 = true ∧
    condHolds 0 (wordValue (s.word 16383)) 6 = false := by decide +kernel

theorem wit_WakeReachesItsSlot : (slotted (.coming 7 1)).up = true ∧ ((slotted (.coming 7 1)).room 0).slots.get 15 = .coming 7 1 := by decide +kernel

/-- The host's operations on a handle that is not bound, and on a word of each outcome; a bind of each answer and an unbind. -/
theorem wit_HostSync : let s := bound (mkWord 1 31 hostJob 5)
    Bound s 0 1023 16383 ∧ s.land.watches = [] ∧ wordAbandoned (s.word 16383) = false ∧ s.keyWord 0 5 = none ∧ wordAbandoned (wordSet (s.word 16383) 58) = true ∧
    findWord s 31 = some 15872 :=
  ⟨⟨by decide +kernel, by decide +kernel, by decide +kernel⟩, by decide +kernel, by decide +kernel, by decide +kernel, by decide +kernel, by decide +kernel⟩

theorem sget_filled {α : Type} (d v : α) (n : Nat) : ∀ a x : Nat, a ≤ x → x < a + n → sget d ((List.range' a n).map (fun w => (w, v))) x = v := by
  induction n with
  | zero => intro a x h g; omega
  | succ n ih =>
    intro a x h g
    simp only [List.range'_succ, List.map_cons, sget]
    by_cases e : x = a
    · simp [e]
    · have : ¬ x < a := by omega
      simp only [e, this, if_false]
      exact ih (a + 1) x (by omega) (by omega)

/-- A Landing whose every word is in use: no word is free (R212). -/
def filled : State := { up with land := { up.land with words := (List.range' 0 16384).map (fun w => (w, mkWord 1 0 hostJob 0)) } }

theorem wit_HostBindsAndUnbinds_full : findWord filled 0 = none := by
  simp only [findWord, List.findSome?_eq_none_iff]
  intro k hk
  have hk : k < 32 := by
    simp only [slicesFrom, List.mem_flatMap, List.mem_filter, List.mem_range] at hk
    obtain ⟨_, _, h, _⟩ := hk
    exact h
  simp only [freeIn, List.find?_eq_none, List.mem_map, List.mem_range]
  rintro x ⟨i, hi, rfl⟩
  have : filled.word (k * 512 + i) = mkWord 1 0 hostJob 0 := sget_filled _ _ _ _ _ (by omega) (by omega)
  rw [this]
  decide

/-- A host slot that is armed, and one that is not on a word whose condition holds or does not. -/
theorem wit_HostSlotsArmAndCancel : let s := bound (mkWord 1 31 hostJob 5)
    s.fld (wslotKey 0 63 Reg.landHWslotsCtl) 16 1 = 0 ∧ (s.setFld (wslotKey 0 63 Reg.landHWslotsCtl) 16 1 1).fld (wslotKey 0 63 Reg.landHWslotsCtl) 16 1 = 1 ∧
    Bound s 0 1023 16383 ∧ s.land.watches = [] ∧ wordAbandoned (s.word 16383) = false ∧ wordKind (s.word 16383) ≠ 3 ∧
    condHolds 3 (wordValue (s.word 16383)) 0 = true ∧ condHolds 1 (wordValue (s.word 16383)) 0 = false :=
  ⟨by decide +kernel, by decide +kernel, ⟨by decide +kernel, by decide +kernel, by decide +kernel⟩, by decide +kernel, by decide +kernel, by decide +kernel,
   by decide +kernel, by decide +kernel⟩

/-! ## Threshold -/

/-- A running job of context 0 with room 0, numbered 5, in slot 2, with arguments for a command of class `cls` and an Attic record at
0x10000; its Attic header checks. -/
def threshold (cls : Nat) (f : State → State) : State :=
  let head := mem [(0x10000, 4, 0x43545441), (0x10004, 2, 1), (0x10006, 2, 7)]
  let s := { upWith [(ctxKey 0 Reg.thrCmdArga, BitVec.ofNat 32 (5 + 2 ^ 19 * cls)), (ctxKey 0 (Reg.thrCmdArga + 4), 0x10000)] with
    dram := head.putN 0x1003C 4 (crc32c (head.bytes 0x10000 0x3C)), jobs := up.jobs.set 2 { st := .running, number := 5, rooms := [some 0], desc := { rooms := 1 }, sched := { rows := 1 } } }
  f s

/-- One that OPEN and RESTORE admit. -/
theorem wit_OpenTakesAFreeEntry : let s := threshold 2 id
    s.thr.cmds.get 0 = none ∧ jobWith s 0 (openArgs 0 s).job = some 2 ∧ openRefusal (openArgs 0 s) false (some 2) s = none ∧
    openRefusal (openArgs 0 s) true (some 2) s = none ∧ (openArgs 0 s).duplex = false := by decide +kernel

/-- One that fails the check of class LIVE, one of no job, a reserved op, and a command while another waits. -/
theorem wit_RefusedCommandsAnswer : let s := threshold 0 id
    s.thr.cmds.get 0 = none ∧ openRefusal (openArgs 0 s) false (jobWith s 0 (openArgs 0 s).job) s = some 4 ∧
    openRefusal (openArgs 0 s) true (jobWith s 0 (openArgs 0 up).job) s = some 7 ∧ bitsOf (6 : Word).toNat 0 4 = 6 ∧
    ((threshold 0 (fun s => s.modThr (fun t => { t with cmds := t.cmds.set 0 (some ⟨3, 1⟩) }))).thr.cmds.get 0).isSome = true := by decide +kernel

/-- The Ledger's last entry in a state, of context 0 and the job, of BACKGROUND. -/
def streaming (st : Nat) (f : State → State) : State :=
  threshold 2 (fun s => f ([(Led.state, st), (Led.job, 5), (Led.kind, 2), (Led.attic, 0x10000)].foldl (fun s x => s.setLed 4095 x.1 x.2) s))

theorem sound_of {s : State} (h : s.thr.ledgerEcc = []) (i : Nat) : Says.sound s i := by simp [Says.sound, h]

/-- Of a free entry, one of another context, one that is idle and one that is ACTIVE. -/
theorem wit_CloseFreesTheEntry : let s (st : Nat) := streaming st id
    (s 1).thr.cmds.get 0 = none ∧ (s 1).thr.ledgerEcc = [] ∧ (s 0).led 4095 Led.state = Led.FREE ∧ (s 1).led 4095 Led.state = Led.IDLE ∧
    (s 1).led 4095 Led.ctx = 0 ∧ (s 1).unit 4095 = [4095] ∧ (s 3).led 4095 Led.state = Led.ACTIVE ∧ (s 3).unit 4095 = [4095] := by decide +kernel

theorem wit_ParkGoesToTheCellar : let s (st : Nat) := streaming st id
    (s 4).thr.cmds.get 0 = none ∧ (s 4).thr.ledgerEcc = [] ∧ (s 4).led 4095 Led.state = Led.PARKED ∧ (s 4).led 4095 Led.ctx = 0 ∧ (s 4).unit 4095 = [4095] ∧
    Led.PARKED ≠ Led.FREE ∧ Led.IDLE ≠ Led.FREE := by decide +kernel

/-- CLOSE of an idle entry and of one of another context (R231). -/
theorem test_close : (∃ t, exec (.close 0 0xFFF) (streaming 1 id) = .next t ∧ t.led 4095 Led.state = Led.FREE) ∧
    ∃ t, exec (.close 1 0xFFF) (streaming 1 id) = .next t ∧ t.reg (ctxKey 1 Reg.thrCmdStatus) = BitVec.ofNat 32 (1 + 2 * 7 + 32 * 4095) :=
  ⟨⟨_, rfl, by decide +kernel⟩, ⟨_, rfl, by decide +kernel⟩⟩

/-- A feed that is accepted, one of a parked stream, and one that its bucket does not cover. -/
theorem wit_FeedAppendsOrCounts : let s (st b : Nat) := streaming st (fun s => (s.setReg (Reg.thrClasscCfg + 0x20) 0xFFF00).modThr (fun t => { t with bucket := t.bucket.set 2 b }))
    (s 1 16).thr.ledgerEcc = [] ∧ feedResult 0 4095 1 (s 1 16) = 0 ∧ feedResult 0 4095 1 (s 4 16) = 5 ∧ feedResult 0 4095 1 (s 1 15) = 2 := by decide +kernel

/-- Room 31 fenced, off and on, with and without a job and with its self-test under way. -/
def fencing (f : Thr → Thr) : State := { (on 31 id).modThr f with fenced := 0x80000000 }

theorem wit_FenceAndUnfence : let s := fencing (fun t => { t with faultFence := 0x80000000 })
    s.fenced.getLsbD 31 = true ∧ s.chim.thermal.getLsbD 31 = false ∧ (s.room 31).power ≠ .off ∧ (0x80000000 : Word).getLsbD 31 = true := by decide +kernel

theorem wit_SelfTestDecides : let s := fencing (fun t => { t with readmit := t.readmit.set 31 .selfTest })
    s.up = true ∧ s.thr.readmit.get 31 = .selfTest ∧ (s.room 31).power = .on ∧ s.thr.faultFence.getLsbD 31 = false ∧ s.chim.thermal.getLsbD 31 = false := by
  decide +kernel

theorem wit_LoadedRoomJoins : let s := threshold 2 (fun s => (s.modThr (fun t => { t with readmit := t.readmit.set 31 .load, joins := t.joins.set 31 (some 2) })).modJob 2 (fun b => { b with rooms := [some 0, none, none] }))
    s.up = true ∧ s.thr.readmit.get 31 = .load ∧ s.thr.joins.get 31 = some 2 ∧ (s.job 2).rooms.findIdx? Option.isNone = some 1 := by decide +kernel

/-- Before ready and after it. -/
theorem wit_ThresholdTicks : up.up = true ∧ up.ready = true ∧ (up.setReg Reg.porchStatus 0).up = true ∧ (up.setReg Reg.porchStatus 0).ready = false := by decide +kernel

/-- A window of 100 ticks that began at 1,000: it is due at 1,100 with no grace. -/
theorem wit_WindowBecomesDue : let s := streaming 1 (fun s => (((s.setLed 4095 Led.kind 6).setLed 4095 Led.origin 1000).setLed 4095 Led.winLen 100).setReg Reg.thrWinGrace 0)
    s.up = true ∧ s.windowed 4095 = true ∧ s.led 4095 Led.state = Led.IDLE ∧ 4095 ∉ s.thr.noOrigin ∧
    winDueAt s 4095 (s.led 4095 Led.window + (s.dueOf 4095).length) = 1100 := by decide +kernel

/-- At the tick at which it is due the stream is READY, and a tick earlier it is not (R229, R245). -/
theorem test_window : let s := streaming 1 (fun s => (((s.setLed 4095 Led.kind 6).setLed 4095 Led.origin 1000).setLed 4095 Led.winLen 100).setReg Reg.thrWinGrace 0)
    (∃ t, exec (.windowDue 0xFFF (1100 ^^^ (1100 >>> 1))) s = .next t ∧ t.led 4095 Led.state = Led.READY) ∧
    ∃ t, exec (.windowDue 0xFFF (1099 ^^^ (1099 >>> 1))) s = .next t ∧ t.led 4095 Led.state = Led.IDLE := ⟨⟨_, rfl, by decide +kernel⟩, ⟨_, rfl, by decide +kernel⟩⟩

/-- A copy of stream 4095's state from row 3 of room 0 to row 0 of room 1. -/
theorem wit_StatesAreCopied : let s := streaming 3 (fun s => s.modJob 2 (fun b => { b with waitCopy := true, rooms := [some 0, some 1], copies := [⟨4095, 0, 3, 1, 0⟩] }))
    s.up = true ∧ (s.job 2).waitCopy = true ∧ 0 ∈ (s.job 2).physical ∧ (s.job 2).copies = [⟨4095, 0, 3, 1, 0⟩] ∧ s.partner 4095 = none := by decide +kernel

/-- A Larder at 0x40000 of one class of one page, spilled, with one slot free. -/
theorem wit_SpilledPageReturns : let s := threshold 2 (fun s => { (s.modThr (fun t => { t with larders := [{ addr := 0x40000, free := [[0x60000]] }] })).modJob 2 (fun b => { b with desc := { b.desc with larder := 0x40000 } }) with dram := mem [(0x40006, 1, 1), (0x40007, 1, 1), (0x40008, 8, 0x50000), (0x40020, 8, 1 * 2 ^ 24 + 70 * 2 ^ 48), (0x50000, 6, 0x70000), (0x50006, 1, 3)] })
    let h := larderHdr s (s.job 2).desc.larder
    s.up = true ∧ (s.job 2).st.live = true ∧ (s.job 2).desc.larder ≠ 0 ∧ pageClass s h 0 = some 0 ∧ (pageEntry s h 0).state = 3 ∧ s.freeSlots h.addr 0 ≠ [] := by
  decide +kernel

/-! ## The Porch -/

/-- The images of a job of one room and one channel: descriptor, step program, schedule and an empty sync table, with their CRCs; and a
submission ring at 0x50000 with entries of tag 0x1234: a SUBMIT, an END of job 5, an ABORT, a PREEMPT and a RESUME of it, a reserved op and
an END of job 6. -/
def images : Memory :=
  [(0x10000, 74), (0x10001, 79), (0x10002, 66), (0x10003, 68), (0x10004, 1), (0x1000A, 2), (0x10012, 3), (0x1001A, 4), (0x1003C, 1), (0x1003E, 1), (0x100FC, 124), (0x100FD, 208), (0x100FE, 24), (0x100FF, 41), (0x20000, 70), (0x20001, 73), (0x20002, 83), (0x20003, 80), (0x20004, 1), (0x20006, 1), (0x20008, 88), (0x2003C, 173), (0x2003D, 15), (0x2003E, 154), (0x2003F, 101), (0x20040, 80), (0x20044, 8), (0x20056, 1), (0x30000, 83), (0x30001, 67), (0x30002, 72), (0x30003, 68), (0x30004, 1), (0x30006, 1), (0x30007, 1), (0x3000C, 1), (0x30010, 1), (0x3003C, 32), (0x3003D, 202), (0x3003E, 89)] ++
  [(0x3003F, 8), (0x50002, 1), (0x50008, 52), (0x50009, 18), (0x5000C, 1), (0x50022, 1), (0x50028, 52), (0x50029, 18), (0x5002C, 2), (0x50030, 5), (0x50042, 1), (0x50048, 52), (0x50049, 18), (0x5004C, 3), (0x50050, 5), (0x50062, 1), (0x50068, 52), (0x50069, 18), (0x5006C, 4), (0x50070, 5), (0x50082, 1), (0x50088, 52), (0x50089, 18), (0x5008C, 5), (0x50090, 5), (0x500A2, 1), (0x500A8, 52), (0x500A9, 18), (0x500AC, 6), (0x500C2, 1), (0x500C8, 52), (0x500C9, 18), (0x500CC, 2), (0x500D0, 6)]

/-- The words that the images are made of. -/
theorem images_words : images =
  mem ([(0x10000, 4, 0x44424F4A), (0x10004, 2, 1), (0x10008, 8, 0x20000), (0x10010, 8, 0x30000), (0x10018, 8, 0x40000), (0x1003C, 4, 0x10001), (0x100FC, 4, 689492092), (0x20000, 4, 0x50534946), (0x20004, 3, 0x10001), (0x20008, 4, 0x58), (0x2003C, 4, 1704595373), (0x20040, 8, 0x800000050), (0x20050, 8, 0x0001000000000000), (0x30000, 4, 0x44484353), (0x30004, 4, 0x1010001), (0x3000C, 4, 1), (0x30010, 2, 1), (0x3003C, 4, 140102176)] ++
    [(1, 0), (2, 5), (3, 5), (4, 5), (5, 5), (6, 0), (2, 6)].zipIdx.map (fun x => (0x50000 + 32 * x.2, 20, 0x10000 + 0x1234 * 2 ^ 64 + x.1.1 * 2 ^ 96 + x.1.2 * 2 ^ 128))) := by decide +kernel

/-- Queue 15, enabled, with an entry of its ring at its head; and job 5 of that queue in slot 2. -/
def porching (entry : Nat) (st : JobState) : State :=
  { upWith [(Reg.porchQqCfg + 0x3C0, 0x204), (Reg.porchQqSbase + 0x3C0, 0x50000), (Reg.porchQqCbase + 0x3C0, 0x60000), (Reg.porchQqHead + 0x3C0, BitVec.ofNat 32 entry), (Reg.porchQqTail + 0x3C0, BitVec.ofNat 32 (entry + 1)), (Reg.porchRestartLimit, 0xFFFF), (Reg.thrPortBudget, 0xFFFFFFFF)] with
    dram := images, ports := Vector.replicate 4 { creditRq := 1 }, rooms := up.rooms.set 1 { power := .on }, jobs := up.jobs.set 2 { st := st, number := 5, queue := 15, rooms := [some 1], chans := [7], desc := { addr := 0x10000, rooms := 1, prog := 0x20000, sched := 0x30000, sync := 0x40000 } } }

theorem foldl_chunk {α β : Type} {f : α → β → α} {l : List β} {a b : α} (n : Nat) (h : (l.take n).foldl f a = b) : l.foldl f a = (l.drop n).foldl f b := by
  rw [← h, ← List.foldl_append, List.take_append_drop]

theorem bytes_split (m : Memory) (n k : Nat) : ∀ a, m.dbytes a (n + k) = m.dbytes a n ++ m.dbytes (a + n) k := by
  induction n with
  | zero => intro a; simp [Memory.dbytes]
  | succ n ih => intro a; rw [Nat.add_right_comm, Memory.dbytes, ih]; simp [Memory.dbytes, Nat.add_comm, Nat.add_left_comm]

/-- The CRC of a region after more bytes of it. -/
theorem crc_on {m : Memory} {a c d : Nat} (n k : Nat) (h : (m.dbytes a n).foldl crc32cByte c = d) :
    (m.dbytes a (n + k)).foldl crc32cByte c = (m.dbytes (a + n) k).foldl crc32cByte d := by
  rw [bytes_split, List.foldl_append, h]

theorem descriptor_crc_0 : (images.dbytes (0x10000) 32).foldl crc32cByte 0xFFFFFFFF = 2731441390 := by decide +kernel

theorem descriptor_crc_1 : (images.dbytes (0x10000 + 32) 32).foldl crc32cByte 2731441390 = 1189293996 := by decide +kernel

theorem descriptor_crc_2 : (images.dbytes (0x10000 + 32 + 32) 32).foldl crc32cByte 1189293996 = 2655536749 := by decide +kernel

theorem descriptor_crc_3 : (images.dbytes (0x10000 + 32 + 32 + 32) 32).foldl crc32cByte 2655536749 = 3567005228 := by decide +kernel

theorem descriptor_crc_4 : (images.dbytes (0x10000 + 32 + 32 + 32 + 32) 32).foldl crc32cByte 3567005228 = 4091430737 := by decide +kernel

theorem descriptor_crc_5 : (images.dbytes (0x10000 + 32 + 32 + 32 + 32 + 32) 32).foldl crc32cByte 4091430737 = 776896515 := by decide +kernel

theorem descriptor_crc_6 : (images.dbytes (0x10000 + 32 + 32 + 32 + 32 + 32 + 32) 32).foldl crc32cByte 776896515 = 1759727479 := by decide +kernel

theorem descriptor_crc_7 : (images.dbytes (0x10000 + 32 + 32 + 32 + 32 + 32 + 32 + 32) 28).foldl crc32cByte 1759727479 = 3605475203 := by decide +kernel

/-- The CRC of each image (R128), 32 bytes at a time. -/
theorem descriptor_crc : ∀ n, n = 252 → (images.dbytes 0x10000 n).foldl crc32cByte 0xFFFFFFFF = 3605475203 := by
  intro n h
  obtain rfl : n = 32 + (32 + (32 + (32 + (32 + (32 + (32 + 28)))))) := h
  rw [crc_on 32 _ descriptor_crc_0, crc_on 32 _ descriptor_crc_1, crc_on 32 _ descriptor_crc_2, crc_on 32 _ descriptor_crc_3, crc_on 32 _ descriptor_crc_4, crc_on 32 _ descriptor_crc_5, crc_on 32 _ descriptor_crc_6, descriptor_crc_7]

theorem crc_of_descriptor : crc32c (images.dbytes 0x10000 0xFC ++ images.dbytes (0x10000 + 0xFC + 4) (0x100 - 0xFC - 4)) = 689492092 := by
  have e : images.dbytes (0x10000 + 0xFC + 4) (0x100 - 0xFC - 4) = [] := rfl
  rw [e, List.append_nil, crc32c, descriptor_crc _ rfl]
  rfl

theorem crc_of_program : crc32c (images.dbytes 0x20000 0x3C ++ images.dbytes (0x20000 + 0x3C + 4) (0x58 - 0x3C - 4)) = 1704595373 := by
  generalize hl : images.dbytes 0x20000 0x3C ++ images.dbytes (0x20000 + 0x3C + 4) (0x58 - 0x3C - 4) = l
  have h1 : (l.take 32).foldl crc32cByte 0xFFFFFFFF = 4174905278 := by rw [← hl]; decide +kernel
  have h2 : ((l.drop 32).take 32).foldl crc32cByte 4174905278 = 2296998472 := by rw [← hl]; decide +kernel
  have h3 : (((l.drop 32).drop 32)).foldl crc32cByte 2296998472 = 2590371922 := by rw [← hl]; decide +kernel
  simp only [crc32c, foldl_chunk 32 h1, foldl_chunk 32 h2, h3]
  rfl

theorem crc_of_schedule : crc32c (images.dbytes 0x30000 0x3C ++ images.dbytes (0x30000 + 0x3C + 4) (0x44 - 0x3C - 4)) = 140102176 := by
  generalize hl : images.dbytes 0x30000 0x3C ++ images.dbytes (0x30000 + 0x3C + 4) (0x44 - 0x3C - 4) = l
  have h1 : (l.take 32).foldl crc32cByte 0xFFFFFFFF = 960203471 := by rw [← hl]; decide +kernel
  have h2 : ((l.drop 32)).foldl crc32cByte 960203471 = 4154865119 := by rw [← hl]; decide +kernel
  simp only [crc32c, foldl_chunk 32 h1, h2]
  rfl

/-- The hub's reads of a memory with none of its writes on their way. -/
theorem hub_quiet (s : State) (h : s.dram = images) (w : s.hubFlight ++ s.hubWrites = []) : s.dbytes = images.dbytes := by
  funext k n
  rw [State.dbytes, State.hubDram, w, h]
  rfl

/-- The images check (R278). -/
theorem images_ok (s : State) (h : s.dram = images) (w : s.hubFlight ++ s.hubWrites = []) : imagesOk s 0x10000 = true := by
  have hs := hub_quiet s h w
  have hn : s.dnum = ({ up with dram := images } : State).dnum := by
    funext k n
    rw [State.dnum, State.dnum, hs, hub_quiet _ rfl (by decide +kernel)]
  have p : (jobDesc s 0x10000).prog = 0x20000 := by rw [jobDesc, hn]; decide +kernel
  have q : (jobDesc s 0x10000).sched = 0x30000 := by rw [jobDesc, hn]; decide +kernel
  have n : progSize s 0x20000 = 0x58 := by rw [progSize, hn]; decide +kernel
  have g : 0x40 + 4 * s.dnum (0x30000 + 6) 1 = 0x44 := by rw [hn]; decide +kernel
  have d1 : imageOk s 0x10000 0x44424F4A 0xFC 0x100 = true := by
    simp only [imageOk, Bool.and_eq_true, hs, crc_of_descriptor, hn]; decide +kernel
  have d2 : imageOk s 0x20000 0x50534946 0x3C 0x58 = true := by
    simp only [imageOk, Bool.and_eq_true, hs, crc_of_program, hn]; decide +kernel
  have d3 : imageOk s 0x30000 0x44484353 0x3C 0x44 = true := by
    simp only [imageOk, Bool.and_eq_true, hs, crc_of_schedule, hn]; decide +kernel
  simp only [imagesOk, p, q, n, g, d1, d2, d3, Bool.true_and]
  have je : jobDesc s = jobDesc { up with dram := images } := by funext a; unfold jobDesc; rw [hn]
  have ce : schedOf s = schedOf { up with dram := images } := by funext a; unfold schedOf; rw [hn]
  have re : roomImage s = roomImage { up with dram := images } := by funext a l; unfold roomImage; rw [hn]
  have fe : fieldsOk s = fieldsOk { up with dram := images } := by funext d c; unfold fieldsOk progSize; rw [hn, re]
  have te : syncTable s = syncTable { up with dram := images } := by
    have e : syncEntry s = syncEntry { up with dram := images } := by funext a i; unfold syncEntry; rw [hn]
    funext a; unfold syncTable; rw [hn, e]
  have se : syncSound s = syncSound { up with dram := images } := by funext a r; unfold syncSound; rw [hn, te]
  rw [je, ce, re, fe, se]
  decide +kernel

/-- A tail at the ring's size and one past it. -/
theorem wit_DoorbellMovesTheTail : let s (n : Nat) := (porching 0 .free).setFld (Says.qk 15 Reg.porchQqTail) 0 16 n
    qWaiting (s 16) 15 = 16 ∧ qSize (s 16) 15 = 16 ∧ qWaiting (s 17) 15 = 17 ∧ (Says.qk 15 Reg.porchQqTail) = Reg.porchQqTail + 0x3C0 := by decide +kernel

/-- A reserved op, an entry of no job, one of a job in another state, images that do not check, and images refused by a later check. -/
theorem wit_BadEntriesAreAnswered : (porching 5 .free).up = true ∧ (porching 5 .free).canRead = true ∧ up.canRead = false ∧ nextQueue (porching 5 .free) = some 15 ∧ (headEntry (porching 5 .free) 15).op = 6 ∧
    (headEntry (porching 0 .free) 15).bad = false ∧ imagesOk up 0x10000 = false ∧
    (let s := (porching 0 .free).setReg Reg.thrPortBudget 0
     jobRefusal s 15 (jobDesc s 0x10000) (schedOf s 0x30000) (currentReserves s) noNumber true = some Res.bandwidth) ∧
    entryJob (porching 6 .running) 15 (headEntry (porching 6 .running) 15) = none ∧
    entryJob (porching 4 .running) 15 (headEntry (porching 4 .running) 15) = some 2 := by decide +kernel

theorem wit_SubmitAdmitsAJob : let s := porching 0 .free
    s.up = true ∧ s.canRead = true ∧ nextQueue s = some 15 ∧ (headEntry s 15).op = 1 ∧ (headEntry s 15).bad = false ∧ (headEntry s 15).addr = 0x10000 ∧ s.dram = images ∧ s.hubFlight ++ s.hubWrites = [] ∧
    jobRefusal s 15 (jobDesc s 0x10000) (schedOf s 0x30000) (currentReserves s) noNumber ((List.finRange 8).any (fun j => (s.job j).st == .free)) = none := by
  decide +kernel

theorem wit_EndAndPreemptAreNoted : let s := porching 1
    (s .running).up = true ∧ (s .running).canRead = true ∧ nextQueue (s .running) = some 15 ∧ (headEntry (s .running) 15).op = 2 ∧ (headEntry (porching 3 .restarting) 15).op = 4 ∧
    entryJob (s .running) 15 (headEntry (s .running) 15) = some 2 ∧ entryJob (s .restarting) 15 (headEntry (s .restarting) 15) = some 2 ∧
    ((s .running).job 2).st = .running ∧ ((s .restarting).job 2).st = .restarting := by decide +kernel

theorem wit_AbortFreesTheSlot : let s := porching 2 .preempted
    s.up = true ∧ s.canRead = true ∧ nextQueue s = some 15 ∧ (headEntry s 15).op = 3 ∧ (headEntry s 15).bad = false ∧ entryJob s 15 (headEntry s 15) = some 2 ∧
    1 ∈ (s.job 2).physical := by decide +kernel

theorem wit_ResumeLoadsAgain : let s := porching 4 .preempted
    s.up = true ∧ s.canRead = true ∧ nextQueue s = some 15 ∧ (headEntry s 15).op = 5 ∧ (headEntry s 15).bad = false ∧ entryJob s 15 (headEntry s 15) = some 2 ∧ (s.job 2).st = .preempted ∧
    (s.job 2).desc.addr = 0x10000 ∧ s.dram = images ∧ s.hubFlight ++ s.hubWrites = [] ∧
    jobRefusal s 15 (jobDesc s 0x10000) (schedOf s 0x30000) (s.job 2).reserves (s.job 2).number true = none := by decide +kernel

/-- PREEMPT of a job that runs is noted for its step, and END of one that is PREEMPTED is answered with 0x20 (R284, R289). -/
theorem test_preempt : ∃ t, exec .preempt (porching 3 .running) = .next t ∧ (t.job 2).endReq = some ⟨true, 0x1234, 0⟩ := ⟨_, rfl, by decide +kernel⟩

/-- Rooms that are on and one that is not; after the load no fault waits. -/
theorem wit_LoadedJobRuns : let s := porching 0
    (s .loading).up = true ∧ canLoad (s .loading) 2 = true ∧ faultsOf (loadJob 2 (decide (0 < ((s .loading).job 2).next)) (s .loading)) 2 = [] ∧
    canLoad (s .restarting) 2 = true ∧ faultsOf (loadJob 2 true (s .restarting)) 2 = [] ∧
    canLoad ((s .loading).modRoom 1 (fun m => { m with power := .off })) 2 = false := by decide +kernel

theorem wit_FaultRestartsTheJob : let e : FaultEvent := { code := .illegalInstruction, source := 1, room := some 1, slot := some 2, ledger := 0xFFFF, pc := 8, capture := [7] }
    let s := { porching 0 .running with faults := [e] }
    s.up = true ∧ s.faults = [e] ∧ e.slot = some 2 ∧ (s.job 2).st.live = true ∧ e.code ≠ .sramUncorrectable := by decide +kernel

/-- No room free, and many. -/
theorem wit_HeldRestartTakesARoom : let s := (porching 0 .restarting).modJob 2 (fun b => { b with rooms := [some 1, none], noRoom := true })
    s.up = true ∧ (s.job 2).st = .restarting ∧ (s.job 2).noRoom = true ∧ freeRooms s ≠ [] ∧ lacking s 2 = 1 ∧ freeRooms { s with fenced := 0xFFFFFFFF } = [] := by
  decide +kernel

/-- A disabled queue and an enabled one, and a held completion. -/
theorem wit_QueueRegistersAreWritten : let s := porching 0 .free
    s.fld (Says.qk 15 Reg.porchQqCfg) 9 1 = 1 ∧ up.fld (Says.qk 15 Reg.porchQqCfg) 9 1 = 0 ∧
    (let x : Compl := { tag := 1, number := 5, result := 0 }
     let s1 := s.modPorchQ 15 (fun y => { y with held := [x] })
     (s1.porch.queues.get 15).held = [x] ∧ qRoom s1 15 = true ∧ qRoom (s1.setFld (Says.qk 15 Reg.porchQqCtail) 0 16 16) 15 = false) := by decide +kernel

theorem wit_ContextIsReset : (0x3F : Word).getLsbD 5 = true ∧ bitsOf (0x3F : Word).toNat 0 5 = 31 ∧ (0x1F : Word).getLsbD 5 = false := by decide

theorem wit_InterruptCausesAreCleared : up.fld (Reg.porchIrqvCfg + 0xE0) 0 1 = 0 := by decide +kernel

/-! ## The Cellar -/

/-- A free Cellar whose part of 65,536 sectors holds some bytes, with the arguments of a command; slot A has booted, and every port has a
read-request credit. -/
def cellar (flash : Memory) (a0 a1 : Word) (f : State → State) : State :=
  f (({ upWith [(Reg.celStatus, 1), (Reg.celPart, 0x10000), (Reg.celCmdArga, a0), (Reg.celCmdArga + 4, a1)] with ports := Vector.replicate 4 { creditRq := 1 } } : State).modCel (fun c => { c with flash := flash, slot := some 0 }))

theorem cellarFree_of {s : State} (h : (decide (s.fld Reg.celStatus 0 1 = 1) && s.cel.active.isNone && s.cel.waiting.isEmpty && s.cel.steps.isEmpty &&
    s.cel.todo.isEmpty && !s.cel.issued) = true) : Says.CellarFree s := by
  simp only [Bool.and_eq_true, decide_eq_true_eq, Option.isNone_iff_eq_none, List.isEmpty_iff, Bool.not_eq_true'] at h
  obtain ⟨⟨⟨⟨⟨a, b⟩, c⟩, d⟩, e⟩, f⟩ := h
  exact ⟨a, b, c, d, e, f⟩

theorem flashBytes_blank (a n : Nat) : flashBytes [] a n = List.replicate n flashEmpty := by
  simp only [flashBytes, flashByte, sget]
  exact List.map_const' .. |>.trans (by rw [List.length_range])

theorem dataRead_blank (sec w : Nat) : dataRead [] sec w = .erased := by
  simp only [dataRead, flashBytes_blank, wordRead]
  exact if_pos (by decide +kernel)

theorem clean_blank (sec w : Nat) : (dataRead [] sec w).clean = true := by rw [dataRead_blank]; rfl

theorem namedSlot_blank : namedSlot [] = 0 := by
  have h : bootPointer [] = none := bestPointer_none (fun x hx => by
    obtain ⟨p, _, rfl⟩ := List.mem_map.mp hx
    exact dataRead_blank p.1 p.2)
  rw [namedSlot, h]
  rfl

theorem slotInUse_blank (a0 a1 : Word) (slot : Nat) : slotInUse (cellar [] a0 a1 id) slot = (some 0 == some slot || 0 == slot) := by
  have h := slotInUse_clean (s := cellar [] a0 a1 id) rfl (fun sec w _ _ => clean_blank sec w) slot
  rw [h, show (cellar [] a0 a1 id).cel.flash = [] from rfl, namedSlot_blank]
  rfl

/-- A blank slot does not check. -/
theorem checkSlot_blank (a0 a1 : Word) : (checkSlot 1 (readPointer (cellar [] a0 a1 id)).2).1 = false := by
  have p := readPointer_clean (s := cellar [] a0 a1 id) rfl (fun sec w _ _ => clean_blank sec w)
  have e : placeRead (cellar [] a0 a1 id).cel.flash (slotBase 1) 0 = .erased := by
    rw [placeRead_data _ _ _ (by decide)]; exact dataRead_blank _ _
  have r := readWord_clean (s := cellar [] a0 a1 id) rfl (sec := slotBase 1) (w := 0) (by rw [e]; rfl)
  simp only [p, checkSlot, checkImage, r, e, WordRead.data?, Option.bind_none]

theorem wit_BusyCellarTakesNoCommand : (cellar [] 0 0 (fun s => s.modCel (fun c => { c with active := some (.cmd 1 1 0 0 0) }))).cel.active = some (.cmd 1 1 0 0 0) := rfl

/-- Arguments just out of range and at its ends, the slot that booted and the other, and before and after a mount. -/
theorem wit_CellarRefusesAtOnce : let s (a0 a1 : Word) := cellar [] a0 a1 id
    Says.CellarFree (s 2 32) ∧ 1 < Says.arg (s 2 32) 0 ∧ slotInUse (s 0 32) 0 = true ∧ slotInUse (s 1 32) 1 = false ∧
    (checkSlot 1 (readPointer (s 1 32)).2).1 = false ∧ (s 1 32).canRead = true:=
  ⟨cellarFree_of (by decide +kernel), by decide +kernel, by rw [slotInUse_blank]; rfl, by rw [slotInUse_blank]; rfl, checkSlot_blank _ _, by decide +kernel⟩

theorem wit_CellarRefusesAtOnce_bounds : let s (a0 a1 : Word) := cellar [] a0 a1 id
    (Says.arg (s 1 31) 1 < 32 ∧ Says.arg (s 1 32) 1 = 32 ∧ Says.arg (s 1 3670016) 1 = 1024 * sectorWords * 32 ∧ 64 * sectorWords * 32 < Says.arg (s 1 229377) 1) ∧
    (Says.arg (s 0 0x11FFFF) 1 < 16 * (s 0 0).sectors + 0x20000 ∧ (s 0 0).mounted = false ∧ (s 0x10000 0).sectors ≤ Says.arg (s 0x10000 0) 0) ∧
    (cellar [] 5 0 (fun s => s.orReg Reg.celStatus 2)).mounted = true ∧ liveAnchor (cellar [] 5 0 (fun s => s.orReg Reg.celStatus 2)) 5 = none := by
  decide +kernel

theorem wit_SlotCommandsBegin : let s (a0 a1 : Word) := cellar [] a0 a1 id
    Says.CellarFree (s 1 32) ∧ Says.arg (s 1 32) 0 = 1 ∧ slotInUse (s 1 32) 1 = false ∧ Says.arg (s 1 32) 1 = 32 ∧ wordBlank [] (slotBase 1) 0 = true ∧
    Says.arg (s 0 229376) 1 = 64 * sectorWords * 32 ∧ (s 1 32).canRead = true :=
  ⟨cellarFree_of (by decide +kernel), by decide +kernel, by rw [slotInUse_blank]; rfl, by decide +kernel⟩

/-- A journal sector of the pool with its records, an anchor of one word in it, and a Keepsake that is mounted. -/
def keepsake (f : Cellar → Cellar) : State :=
  let d : List Byte := (List.range 32).map (BitVec.ofNat 8)
  let w (m : Memory) (a : Nat) (bs : List Byte) := flashProgram m a bs
  let m := w (w (w (w [] (4096 * 2178) (healthRecord 2178 7 900 0 false 0)) (4096 * 2178 + 32) (useRecord 2178 4 0 1)) (wordAt 2178 1) d) (parityAt 2178 1) (wordParity (wordAt 2178 1) d)
  let r : CelRec := { type := 0x12, id := 5, seq := 1, index := 9, words := 1, crc := crc32c d, time := 0, arg := 32, places := [(2178, 0), (2178, 1)] }
  cellar m 5 0 (fun s => (((s.orReg Reg.celStatus 0x42).setReg Reg.celScrub 0x00010001).setReg Reg.celWallclock 90000).modCel (fun c => f { c with recs := [r] }))

theorem wit_JournalCommandsRun : let s := keepsake (fun c => { c with jpos := some (2178, 2) })
    Says.CellarFree s ∧ s.mounted = true ∧ 16 * (cellar [] 0 0x120000 id).sectors + 0x20000 ≤ Says.arg (cellar [] 0 0x120000 id) 1 ∧
    (∃ (r : CelRec) (ds : List (List Byte)), liveAnchor s 5 = some r ∧ r.dataPlaces.map (fun p => (placeRead s.cel.flash p.1 p.2).data?) = ds.map some ∧ crc32c ds.flatten = r.crc) ∧
    s.cel.jpos = some (2178, 2) ∧ wordBlank s.cel.flash 2178 2 = true ∧ Says.arg s 0 < s.sectors :=
  ⟨cellarFree_of (by decide +kernel), by decide +kernel, by decide +kernel,
   ⟨_, [(List.range 32).map (BitVec.ofNat 8)], by rfl, by decide +kernel, by decide +kernel⟩, by decide +kernel, by decide +kernel, by decide +kernel⟩

/-- A word whose two low bits have flipped still reads, with two bits corrected (R312). -/
theorem test_two_bits_corrected : (let s := keepsake id
    match dataRead (sset 0xFF s.cel.flash (wordAt 2178 1) 3) 2178 1 with | .good d n => decide (d.take 2 = [0, 1] ∧ n = 2) | _ => false) = true := by decide +kernel

theorem wit_PartCompletes : let s := keepsake (fun c => { c with issued := true, steps := [.erase 2179 1, .answer 0] })
    s.up = true ∧ s.cel.issued = true ∧ s.cel.suspended = false ∧ s.cel.steps = .erase 2179 1 :: [.answer 0] ∧
    (keepsake (fun c => { c with issued := true, steps := [.prog 0 [1], .answer 0] })).cel.steps = .prog 0 [1] :: [.answer 0] := by decide +kernel

/-- A journal sector that holds nothing, and a live anchor whose words read. -/
theorem wit_KeepsakeIsKept : let s := keepsake id
    let e := keepsake (fun c => { c with recs := [] })
    s.up = true ∧ s.celIdle = true ∧ (cellar [] 0 0 id).celIdle = false ∧ e.celIdle = true ∧
    ((journalSectors e).filter (fun x => !e.isRetired x && (match e.cel.jpos with | some p => p.1 != x | none => true))).find?
      (fun x => !e.cel.recs.any (fun r => r.places.any (fun p => p.1 == x))) = some 2178 ∧
    s.fld Reg.celScrub 0 1 = 1 ∧ s.fld Reg.celStatus 6 1 = 1 ∧ (cellar [] 0 0 id).fld Reg.celStatus 6 1 = 0 := by decide +kernel

/-- The words of an anchor that patrol reads. -/
theorem wit_KeepsakeIsKept_reads : let s := keepsake (fun c => { c with recs := c.recs.map (fun r => { r with places := [(2178, 1)] }) })
    s.mounted = true ∧ s.fld Reg.celScrub 0 1 = 1 ∧ ∀ r ∈ s.cel.recs, ∀ p ∈ r.places, ∃ d n, placeRead s.visibleFlash p.1 p.2 = .good d n := by
  refine ⟨by decide +kernel, by decide +kernel, ?_⟩
  have h : ∀ r ∈ (keepsake (fun c => { c with recs := c.recs.map (fun r => { r with places := [(2178, 1)] }) })).cel.recs, ∀ p ∈ r.places,
      (match placeRead (keepsake id).visibleFlash p.1 p.2 with | .good _ _ => true | _ => false) = true := by decide +kernel
  intro r hr p hp
  have := h r hr p hp
  split at this
  · exact ⟨_, _, by assumption⟩
  · cases this

/-- A sector whose record reads, and one whose number has 17 bits. -/
theorem wit_HealthRecordIsCaptured : (∃ d, placeRead (keepsake id).visibleFlash 2178 sectorWords = .good d 0) ∧ bitsOf (0x10002 : Word).toNat 0 17 = 65538 :=
  ⟨⟨(healthRecord 2178 7 900 0 false 0).take 28, by decide +kernel⟩, by decide⟩

/-! ## The Chimney -/

/-- The Chimney with its loops running; room 0 holds a running job. -/
def chimney (f : State → State) : State :=
  f ({ (on 0 (fun m => { m with job := some 2 })).setReg Reg.chimStatus 1 with jobs := up.jobs.set 2 { st := .running, number := 5, rooms := [some 0] } })

theorem wit_DroopsAreCounted : (chimney id).up = true ∧ ((chimney id).room 0).power = .on ∧ (2 : Fin 3) ≠ 0 ∧
    ((chimney (fun s => s.modRoom 0 (fun m => { m with power := .retain }))).room 0).power ≠ .on := by decide +kernel

/-- A droop is counted up to its limit (R339). -/
theorem test_droop_saturates : ∃ t, exec (.droopStretch 0 2) (chimney (fun s => s.setReg (statKey 0) 0xFFFFE000)) = .next t ∧ t.reg (statKey 0) = 0xFFFFE000 :=
  ⟨_, rfl, by decide +kernel⟩

theorem wit_RoomLoopsStep : (chimney id).up = true ∧ (chimney id).loopsRun = true ∧ up.loopsRun = false ∧ ((chimney id).room 0).power = .on := by decide +kernel

/-- Nine hot readings and ten; a room that the Chimney holds; power above the limit for 10 ms and a tick less. -/
theorem wit_HeatFencesARoom : let s (n : Nat) := chimney (fun s => { s with chim := { s.chim with hot := s.chim.hot.set 0 n, overTicks := 100 * n } })
    (s 9).chim.hot.get 0 < 10 ∧ 10 ≤ (s 10).chim.hot.get 0 ∧ (s 10).chim.thermal.getLsbD 0 = false ∧ (s 9).chim.overTicks < 1000 ∧ 1000 ≤ (s 10).chim.overTicks ∧
    busyRoom (s 10) 0 = true ∧ (s 10).thr.fenceDue.getLsbD 0 = false := by decide +kernel

/-- A room cool for 100 ms whose fence has taken effect, with and without a fault fence, and one whose fence is only decided. -/
theorem wit_CoolRoomIsReleased : let s (fenced fault : BitVec 32) := chimney (fun s => { s.modThr (fun t => { t with faultFence := fault }) with fenced := fenced, chim := { s.chim with cool := s.chim.cool.set 0 1000, thermal := 1 } })
    1000 ≤ (s 1 0).chim.cool.get 0 ∧ (s 1 0).chim.thermal.getLsbD 0 = true ∧ (s 1 0).fenced.getLsbD 0 = true ∧ (s 1 0).thr.faultFence.getLsbD 0 = false ∧
    ((s 1 0).room 0).power ≠ .off ∧ (s 1 1).thr.faultFence.getLsbD 0 = true ∧ (s 0 0).fenced.getLsbD 0 = false ∧ (chimney id).chim.cool.get 0 < 1000 := by decide +kernel

/-- Three seconds without an estimate. -/
theorem wit_SkinLoopHoldsItsCeiling : let s := chimney (fun s => { s with chim := { s.chim with skinAge := 3 } })
    s.up = true ∧ s.loopsRun = true ∧ 3 ≤ s.chim.skinAge ∧ s.chim.stale = false := by decide +kernel

/-- A claim above CHIM_PACE and one below it. -/
theorem wit_BiasAndPacing : let s := chimney (fun s => (s.setReg Reg.chimPace 5).setReg Reg.thrPortClaimed 0x00040002)
    s.loopsRun = true ∧ s.fld Reg.chimPace 0 16 < s.fld Reg.thrPortClaimed 0 16 + s.fld Reg.thrPortClaimed 16 16 ∧ s.chim.paceHeld = false ∧
    up.loopsRun = false := by decide +kernel

/-- A reading past the range, and one at the emergency threshold. -/
theorem wit_SensorIsRead : (chimney id).up = true ∧ (chimney id).loopsRun = true ∧ (2400 : Int) < 2401 ∧ (-641 : Int) < -640 := by decide +kernel

/-- Room 1 idle for the limit and a millisecond less, retained with a job, off, and fenced or not. -/
theorem wit_PowerStatesChange : let s (n : Nat) (p : Power) (j : Option SlotId) : State := ((chimney (fun s => { s with chim := { s.chim with idle := s.chim.idle.set 1 n } })).modRoom 1 (fun m => { m with power := p, job := j })).setReg Reg.chimCtl 0x00640000
    (s 100 .on none).up = true ∧ (s 100 .on none).fld Reg.chimCtl 16 16 ≠ 0 ∧ (s 100 .on none).fld Reg.chimCtl 16 16 ≤ (s 100 .on none).chim.idle.get 1 ∧
    ((s 100 .on none).room 1).power = .on ∧ ((s 100 .on none).room 1).job = none ∧ (s 100 .on none).thr.joins.get 1 = none ∧
    (s 100 .on none).thr.readmit.get 1 = .no ∧ (s 100 .on none).hall = [] ∧ (s 99 .on none).chim.idle.get 1 < (s 99 .on none).fld Reg.chimCtl 16 16 ∧
    ((s 0 .retain (some 2)).room 1).power = .retain ∧ ((s 0 .retain (some 2)).room 1).job.isSome = true ∧ ((s 0 .off none).room 1).power = .off ∧
    ({ s 0 .on none with fenced := 2 } : State).fenced.getLsbD 1 = true ∧ (s 0 .on none).fenced.getLsbD 1 = false ∧ (4 : Word).getLsbD 2 = true := by
  simp only; and_intros <;> decide +kernel

/-! ## The Window and the Study -/

theorem wit_Chimney_rest : up.up = true ∧ (up.setReg Reg.winMeterCtl 0xFFFFFF).fld Reg.winMeterCtl 0 24 ≠ 0 ∧ (up.setReg Reg.winMeterCtl 0).fld Reg.winMeterCtl 0 24 = 0 := by
  decide +kernel

/-- The sampler disabled, and a write that enables it with a seed of 0. -/
theorem wit_CountersAndSamplerAreSet : up.fld (rreg 31 Reg.winSampCtl) 0 1 = 0 ∧ (1 : Word).getLsbD 0 = true ∧ bitsOf (1 : Word).toNat 16 16 = 0 := by decide +kernel

/-- No dump in progress; the dump disabled, enabled with room for a snapshot, and with none; and a record of the dump before that waits
for its tag, or for its answer. -/
theorem wit_SnapshotsAreDumped : let s := (up.setReg Reg.winDumpCtl 0x00010015)
    let h : HubWrite := ⟨5, ⟨32, [some 1]⟩⟩
    (dumpPending s = false ∧ s.fld Reg.winDumpCtl 0 1 = 1 ∧ s.fld Reg.winDumpCtl 16 16 ≠ 0 ∧ up.fld Reg.winDumpCtl 0 1 = 0 ∧ up.fld Reg.winDumpCtl 16 16 = 0) ∧
    dumpPending { up with hubWrites := [h], win := { up.win with dumping := [(5, 32)] } } = true ∧
    dumpPending { up with ports := up.ports.set 2 { writes := [{ tag := 3, room := none, line := 32, ctx := 5 }] }, win := { up.win with dumping := [(5, 32)] } } = true ∧
    dumpPending { up with hubWrites := [h], win := { up.win with dumping := [(6, 32)] } } = false := by
  decide +kernel

/-- Room 0 of a job in debug, held, with s31 selected; and a room of no job. -/
def studied : State := chimney (fun s => ((s.modJob 2 (fun b => { b with debug := true })).modStew 0 (fun w => { w with held := true })).setReg Reg.studyRegSel (BitVec.ofNat 32 (31 * 32)))

theorem wit_StudyHaltsAndSteps : roomDebug studied 0 = true ∧ roomDebug studied 1 = false ∧ roomDebug (chimney id) 0 = false := by decide +kernel

theorem wit_StudyReadsRegisters : studyTarget studied = some (0, .s 31) ∧ studyTarget up = none ∧ studied.hold = [] := by decide +kernel

/-- A handle that is not bound, a free word, an ABANDONED one and one that is not, forced and not. -/
theorem wit_StudySetsAWord : let s (v : Word64) (sel : Word) := (bound v).setReg Reg.studySyncSel sel
    studyWord (s 0 0x4000) = none ∧ studyWord (s 0 0x3FFF) = some 16383 ∧ wordKind ((s 0 0x3FFF).word 16383) = 0 ∧
    wordKind ((s (wordSet (mkWord 1 0 hostJob 5) 58) 0x3FFF).word 16383) ≠ 0 ∧ wordAbandoned ((s (wordSet (mkWord 1 0 hostJob 5) 58) 0x3FFF).word 16383) = true ∧
    (s 0 0x3FFF).fld Reg.studySyncSel 20 1 = 0 ∧ (s 0 0x103FFF).fld Reg.studySyncSel 20 1 = 1 ∧ (s (mkWord 1 0 hostJob 5) 0x3FFF).land.watches = [] ∧
    wordAbandoned ((s (mkWord 1 0 hostJob 5) 0x3FFF).word 16383) = false := by decide +kernel

theorem wit_OverflowIsTraced : let s := { up.setReg Reg.studyTraceCtl 0x21 with win := { up.win with traceDrop := 3 } }
    s.win.traceDrop ≠ 0 ∧ s.trace.length < 256 ∧ s.fld Reg.studyTraceCtl 5 1 = 1 ∧ up.win.traceDrop = 0 := by decide +kernel

theorem test_overflow_record : ∃ t, exec .traceOverflowRecord { up.setReg Reg.studyTraceCtl 0x21 with win := { up.win with traceDrop := 3 } } = .next t ∧
    t.trace.map (fun r => (r.type, r.aux)) = [(5, 3)] ∧ t.win.traceDrop = 0 := ⟨_, rfl, by decide +kernel, by decide +kernel⟩

/-- A record whose first byte goes out, one whose last does, and a full queue behind which records were dropped. -/
theorem wit_TraceLeavesByItsPins : let x : TraceRec := ⟨3, 2, 1, 5, 7⟩
    let s (n d sent : Nat) : State := { up.setReg Reg.studyTraceCtl 0x21 with trace := List.replicate n x, win := { up.win with traceDrop := d, traceSent := sent } }
    (s 1 0 0).up = true ∧ (s 1 0 0).pending = [] ∧ (s 0 0 0).trace = [] ∧ (s 1 0 0).trace = x :: [] ∧ (s 1 0 22).win.traceSent < 23 ∧
    (s 256 4 23).win.traceSent = 23 ∧ (s 256 4 23).trace = x :: List.replicate 255 x ∧ (s 256 4 23).win.traceDrop ≠ 0 ∧ (s 256 4 23).trace.length = 256 ∧
    (s 256 4 23).fld Reg.studyTraceCtl 5 1 = 1 := by decide +kernel

/-- Byte 0 of a record is its type and goes out with trc_sync (R360, R372). -/
theorem test_trace_byte_0 : ∃ t, step { up with trace := [⟨3, 2, 1, 5, 7⟩] } = .next t ∧ t.trc = ⟨3, true⟩ ∧ t.win.traceSent = 1 :=
  ⟨_, rfl, by decide +kernel, by decide +kernel⟩

/-! ## Control accesses -/

/-- A block that is up and ready, with power in every room. -/
def lit : State := { up with rooms := Vector.replicate 32 { power := .on } }

/-- Every register that a statement writes or reads is served in a block that is up. -/
theorem wit_Serves_writes : ∀ off ∈ ([Reg.landHSignal, Reg.landHAdd, Reg.landHSet, Reg.landHUnbind, Reg.landHBind, Reg.landBarPorch, Reg.landHWslotsCtl + 0x7E0, Reg.thrCmd, Reg.thrFeed, Reg.thrFence, Reg.thrUnfence, Reg.thrLedgerSel, Reg.porchCtxReset, Reg.porchWarmReset, Reg.porchQqTail + 0x3C0, Reg.porchQqCfg + 0x3C0, Reg.porchQqChead + 0x3C0, Reg.porchIrqvStatus + 0xE0, Reg.celCmd, Reg.celHealthSel, Reg.chimSkin, ctlKey 31, rreg 31 Reg.winCtl, rreg 31 Reg.winSampCtl, rreg 31 Reg.flCtl, rreg 31 Reg.flCredit, rreg 31 Reg.roomExcCtl, rreg 31 Reg.roomNumStatus, Reg.winSnap, Reg.studyDbgJobs, Reg.studyRoomnRun + 0x7C0, Reg.studyRegData, Reg.studySyncGo] : List Nat),
    Serves lit 0 off true := by
  intro off h
  apply serves_of
  revert off
  decide +kernel

theorem wit_Serves_reads : ∀ off ∈ ((Says.readRows 0).map Prod.snd ++ [rreg 31 Reg.flCredit, Reg.porchJobjStatus + 0x1C0, rreg 31 Reg.roomExcInfo, Reg.landHWordh + 8 * 1023, Reg.studyRegData, Reg.celWallclock] : List Nat),
    Serves lit 0 off false := by
  intro off h
  apply serves_of
  revert off
  decide +kernel

theorem wit_Serves_plain : ∀ off ∈ Says.plainRegs ++ Says.plainRoomRegs.map (rreg 31), Serves lit 0 off true := by
  intro off h
  apply serves_of
  revert off
  decide +kernel

/-- Nothing held, and a captured word. -/
theorem wit_WideReadsAreHeld : up.hold = [] ∧ ({ up with hold := [(holdKey 0 (Reg.celWallclock + 4), 7)] } : State).hold.lookup (holdKey 0 (Reg.celWallclock + 4)) = some 7 ∧
    Bound (bound (mkWord 1 0 hostJob 5)) 0 1023 16383 := ⟨rfl, by decide +kernel, ⟨by decide +kernel, by decide +kernel, by decide +kernel⟩⟩

/-- An unaligned access, a byte of a word, a block that is not ready, a context that may not, a room that is off, and a block that is down. -/
theorem wit_RefusedAccessesChangeNothing : up.up = true ∧ (2 : Nat) % 4 ≠ 0 ∧ (1 : BitVec 4) ≠ 0xF ∧ (up.setReg Reg.porchStatus 0).up = true ∧
    (up.setReg Reg.porchStatus 0).ready = false ∧ servedEarly Reg.thrCmd = false ∧ permitted up 31 (Reg.porchQqCfg + 0x3C0) false = false ∧
    permitted up 31 (Reg.porchQqHead + 0x3C0) false = false ∧ roomOfOffset (rreg 31 Reg.winCtl) = some (31, Reg.winCtl) ∧ (up.room 31).power = .off ∧ (lit.room 31).power ≠ .off ∧
    ({} : State).up = false := by decide +kernel

theorem wit_RetainedRoomIsServed : let s := up.modRoom 31 (fun m => { m with power := .retain })
    s.up = true ∧ (s.room 31).power = .retain ∧ refuses s 0 (rreg 31 Reg.roomNumStatus) 0xF false = false ∧ refuses s 0 (rreg 31 Reg.flEvent) 0xF true = false ∧ Reg.flEvent ∈ Says.plainRoomRegs ∧ s.hold = [] ∧
    (up.room 31).power ≠ .retain := by decide +kernel

/-! ## The memory ports -/

/-- A launch on channel 3 of room 0 that has a read of a line outstanding with three beats of it. -/
def reading (n : Nat) (drain : Bool) : State :=
  let l : Launch := { id := 4, pc := 0, prog := [], status := 0x2000, deadline := 9, roles := 0, flight := [5] }
  let u : TagUse := { tag := 255, room := some 0, ch := 3, launch := 4, line := 5, beats := List.replicate n (List.replicate 32 0), drain := drain }
  { launched l with ports := up.ports.set 0 { reads := [u], writes := [{ tag := 127, room := some 0, ch := 3, launch := 4, line := 5, bytes := [none, some 7] }], creditWd := 32, creditRq := 31, beatsDue := 1 } }

theorem wit_ReadBeatsLand : Says.Steady (reading 3 false) ∧ (∀ u ∈ ((reading 3 false).ports.get 0).reads, u.tag ≠ 254) ∧
    (∃ u, ((reading 3 false).ports.get 0).reads.find? (fun x => x.tag == 255) = some u ∧ u.room = some 0 ∧ u.beats.length = 3 ∧ u.drain = false ∧ u.bad = 0 ∧
      ∃ l, ((reading 3 false).room 0).chan u.ch = some l ∧ l.id = u.launch) ∧
    (∃ u, ((reading 3 true).ports.get 0).reads.find? (fun x => x.tag == 255) = some u ∧ u.drain = true) ∧
    (∃ u, ((reading 0 false).ports.get 0).reads.find? (fun x => x.tag == 255) = some u ∧ u.beats.length = 0) :=
  ⟨⟨by decide +kernel, by decide +kernel⟩, by decide +kernel, ⟨_, by rfl, by decide +kernel, by decide +kernel, by decide +kernel, by decide +kernel, _, by rfl, by decide +kernel⟩, ⟨_, by rfl, by decide +kernel⟩, ⟨_, by rfl, by decide +kernel⟩⟩

theorem wit_WriteAnswersLand : Says.Steady (reading 0 false) ∧ (∀ u ∈ ((reading 0 false).ports.get 0).writes, u.tag ≠ 0) ∧
    ∃ u, ((reading 0 false).ports.get 0).writes.find? (fun x => x.tag == 127) = some u ∧ u.drain = false :=
  ⟨⟨by decide +kernel, by decide +kernel⟩, by decide +kernel, ⟨_, by rfl, by decide +kernel⟩⟩

/-- Only the enabled byte of the line is written (R188). -/
theorem test_write_enables : (({ tag := 0, room := some 0, ch := 3, launch := 4, line := 5, bytes := [none, some 7] } : TagUse).bytes.filter Option.isSome).length = 1 := by decide

theorem wit_CreditsComeBack : 32 ≤ ((reading 0 false).ports.get 0).creditWd ∧ ((reading 0 false).ports.get 0).creditRq < 32 ∧ (up.ports.get 0).creditWd < 32 ∧
    0 < ((reading 0 false).ports.get 0).beatsDue ∧ (up.ports.get 0).beatsDue = 0 ∧ ({} : State).up = false := by decide +kernel

/-- A launch that has a line to write. -/
theorem wit_WriteTagIsGranted : let l : Launch := { id := 4, pc := 0, prog := [], status := 0x2000, deadline := 9, roles := 0, writes := [⟨4, [none, some 7]⟩] }
    let s : State := { launched l with ports := up.ports.set 0 { creditWq := 1 } }
    s.up = true ∧ 0 < (s.ports.get 0).creditWq ∧ (s.ports.get 0).writes = [] ∧ tagTarget s true 0 = some (0, 3) ∧ (s.room 0).chan 3 = some l ∧
    writeWanted s 0 3 0 = some ⟨4, [none, some 7]⟩ ∧ hubWanted s 0 = none := ⟨by decide +kernel, by decide +kernel, by decide +kernel, by decide +kernel, by rfl, by decide +kernel⟩

/-- A write of the hub with no room's waiting for the port. -/
theorem wit_WriteTagIsGranted_hub : let s : State := { up with ports := up.ports.set 0 { creditWq := 1 }, hubWrites := [⟨5, ⟨4, [some 1]⟩⟩] }
    s.up = true ∧ 0 < (s.ports.get 0).creditWq ∧ (s.ports.get 0).writes = [] ∧ hubWanted s 0 = some ⟨5, ⟨4, [some 1]⟩⟩ ∧ tagTarget s true 0 = none := by
  decide +kernel

/-- Outstanding writes of the hub and of a stopped job. -/
theorem wit_WriteAnswersLand_hub : let u (r : Option RoomId) (d : Bool) : TagUse := { tag := 9, room := r, line := 4, ctx := 5, bytes := [some 1], drain := d }
    let s (r : Option RoomId) (d : Bool) : State := { up with ports := up.ports.set 1 { writes := [u r d] } }
    Says.Steady (s none false) ∧ ((s none false).ports.get 1).writes.find? (fun x => x.tag == 9) = some (u none false) ∧
    Says.Steady (s (some 3) true) ∧ ((s (some 3) true).ports.get 1).writes.find? (fun x => x.tag == 9) = some (u (some 3) true) :=
  ⟨⟨by decide +kernel, by decide +kernel⟩, by decide +kernel, ⟨by decide +kernel, by decide +kernel⟩, by decide +kernel⟩

/-- A warm reset with tags outstanding and without, a start-up that waits, and a port with and without tags. -/
theorem wit_Resets : let f : BootFacts := ⟨true, 8192, 0, 0, 0, 0, 0xFFFFFFFF, true⟩
    let s : State := { reading 0 false with pins := { cold := false, startup := some f } }
    (reading 0 false).up = true ∧ ((reading 0 false).ports.get 0).reads ≠ [] ∧ (∀ p, (up.ports.get p).reads = [] ∧ (up.ports.get p).writes = []) ∧
    s.pins.startup = some f ∧ (s.ports.get 0).reads ≠ [] ∧ (∀ p, p ≠ 0 → (s.ports.get p).reads = [] ∧ (s.ports.get p).writes = []) ∧
    (0xD00D : Word).toNat % 2 ^ 16 = 0xD00D := by decide +kernel

/-! ## A part with a boot image -/

theorem xor_step {r q a b : Nat} (ha : a < 2) (hb : b < 2) : 2 * (r ^^^ q) + (a ^^^ b) = (2 * r + a) ^^^ (2 * q + b) := by
  apply Nat.eq_of_testBit_eq
  intro i
  have hab : a ^^^ b < 2 ^ 1 := Nat.xor_lt_two_pow ha hb
  rw [Nat.testBit_xor, show 2 * (r ^^^ q) + (a ^^^ b) = 2 ^ 1 * (r ^^^ q) + (a ^^^ b) from rfl, show 2 * r + a = 2 ^ 1 * r + a from rfl, show 2 * q + b = 2 ^ 1 * q + b from rfl,
    Nat.testBit_two_pow_mul_add _ hab, Nat.testBit_two_pow_mul_add _ (show a < 2 ^ 1 from ha), Nat.testBit_two_pow_mul_add _ (show b < 2 ^ 1 from hb)]
  split <;> simp [Nat.testBit_xor]

/-- One step of the code's division. -/
theorem bch_xor {x y : Nat} (hx : x < 2 ^ 19) (hy : y < 2 ^ 19) :
    (if 2 ^ 18 ≤ x ^^^ y then (x ^^^ y) ^^^ bchGen else x ^^^ y) = (if 2 ^ 18 ≤ x then x ^^^ bchGen else x) ^^^ (if 2 ^ 18 ≤ y then y ^^^ bchGen else y) := by
  have t (z : Nat) (hz : z < 2 ^ 19) : 2 ^ 18 ≤ z ↔ z.testBit 18 = true := by
    constructor
    · intro h
      have : z / 2 ^ 18 = 1 := by omega
      rw [Nat.testBit_eq_decide_div_mod_eq, this]; rfl
    · intro h; exact Nat.ge_two_pow_of_testBit h
  have hxy : x ^^^ y < 2 ^ 19 := Nat.xor_lt_two_pow hx hy
  simp only [t _ hx, t _ hy, t _ hxy, Nat.testBit_xor]
  cases x.testBit 18 <;> cases y.testBit 18 <;> (apply Nat.eq_of_testBit_eq; intro i; simp [Nat.testBit_xor]) <;>
    cases x.testBit i <;> cases y.testBit i <;> cases bchGen.testBit i <;> rfl

theorem bch_lt {x : Nat} (hx : x < 2 ^ 19) : (if 2 ^ 18 ≤ x then x ^^^ bchGen else x) < 2 ^ 18 := by
  split
  next h =>
    have h2 : x ^^^ bchGen < 2 ^ 19 := Nat.xor_lt_two_pow hx (by decide)
    have t : (x ^^^ bchGen).testBit 18 = false := by
      have : x / 2 ^ 18 = 1 := by omega
      rw [Nat.testBit_xor, Nat.testBit_eq_decide_div_mod_eq, this]; decide
    by_cases hc : x ^^^ bchGen < 2 ^ 18
    · exact hc
    exfalso
    have : (x ^^^ bchGen) / 2 ^ 18 = 1 := by omega
    rw [Nat.testBit_eq_decide_div_mod_eq, this] at t
    cases t
  · omega

theorem bitsOf_one_lt (v n : Nat) : bitsOf v n 1 < 2 := by simp only [bitsOf]; omega

theorem bitsOf_one_xor (v w n : Nat) : bitsOf (v ^^^ w) n 1 = bitsOf v n 1 ^^^ bitsOf w n 1 := by
  simp only [bitsOf, Nat.pow_one, ← Nat.toNat_testBit, Nat.testBit_xor]
  cases v.testBit n <;> cases w.testBit n <;> rfl

theorem bchRem_xor (v w : Nat) : ∀ n r q, r < 2 ^ 18 → q < 2 ^ 18 → bchRem (v ^^^ w) n (r ^^^ q) = bchRem v n r ^^^ bchRem w n q := by
  intro n
  induction n with
  | zero => intro r q _ _; rfl
  | succ n ih =>
    intro r q hr hq
    have a := bitsOf_one_lt v n
    have b := bitsOf_one_lt w n
    simp only [bchRem, bitsOf_one_xor, xor_step a b]
    rw [bch_xor (by omega) (by omega)]
    exact ih _ _ (bch_lt (by omega)) (bch_lt (by omega))

theorem bchRem_low (v : Nat) : ∀ n r, n ≤ 18 → r < 2 ^ (18 - n) → bchRem v n r = r * 2 ^ n + v % 2 ^ n := by
  intro n
  induction n with
  | zero => intro r _ _; simp [bchRem, Nat.mod_one]
  | succ n ih =>
    intro r hn hr
    have a := bitsOf_one_lt v n
    have e : 2 ^ (18 - n) = 2 * 2 ^ (18 - (n + 1)) := by rw [← Nat.pow_succ']; congr 1; omega
    have l : 2 * r + bitsOf v n 1 < 2 ^ (18 - n) := by omega
    have l2 : 2 ^ (18 - n) ≤ 2 ^ 18 := Nat.pow_le_pow_right (by decide) (by omega)
    simp only [bchRem]
    rw [if_neg (by omega), ih _ (by omega) l]
    have h : bitsOf v n 1 = v / 2 ^ n % 2 := by simp [bitsOf]
    rw [Nat.mod_pow_succ, h, Nat.add_mul, Nat.pow_succ, Nat.mul_comm 2 r, Nat.mul_assoc, Nat.mul_comm 2 (2 ^ n), Nat.mul_comm (v / 2 ^ n % 2)]
    omega

theorem bchRem_succ (v n r : Nat) : bchRem v (n + 1) r = bchRem v n (if 2 ^ 18 ≤ 2 * r + bitsOf v n 1 then (2 * r + bitsOf v n 1) ^^^ bchGen else 2 * r + bitsOf v n 1) := rfl

theorem bchRem_high (v : Nat) (hv : v < 2 ^ 18) : ∀ n, bchRem v (n + 18) 0 = v := by
  intro n
  induction n with
  | zero =>
    have := bchRem_low v 18 0 (Nat.le_refl _) (by decide)
    rw [Nat.zero_mul, Nat.zero_add, Nat.mod_eq_of_lt hv] at this
    rwa [Nat.zero_add]
  | succ n ih =>
    have : bitsOf v (n + 18) 1 = 0 := by
      have l : v < 2 ^ (n + 18) := Nat.lt_of_lt_of_le hv (Nat.pow_le_pow_right (by decide) (by omega))
      simp only [bitsOf, Nat.div_eq_of_lt l, Nat.zero_mod]
    rw [show n + 1 + 18 = (n + 18) + 1 by omega, bchRem_succ, this, if_neg (by decide)]
    exact ih

theorem bchRem_lt (v : Nat) : ∀ n r, r < 2 ^ 18 → bchRem v n r < 2 ^ 18 := by
  intro n
  induction n with
  | zero => intro r h; exact h
  | succ n ih =>
    intro r h
    have a := bitsOf_one_lt v n
    simp only [bchRem]
    exact ih _ (bch_lt (by omega))

/-- A word with its code divides. -/
theorem bchRem_code {info n c : Nat} (hc : bchRem (info * 2 ^ 18) (n + 18) 0 = c) : bchRem (info * 2 ^ 18 + c) (n + 18) 0 = 0 := by
  have h : c < 2 ^ 18 := hc ▸ bchRem_lt (info * 2 ^ 18) (n + 18) 0 (Nat.two_pow_pos 18)
  have e : info * 2 ^ 18 + c = (info * 2 ^ 18) ^^^ c := by
    apply Nat.eq_of_testBit_eq
    intro i
    rw [Nat.mul_comm, Nat.testBit_two_pow_mul_add _ h, Nat.testBit_xor, Nat.testBit_two_pow_mul]
    by_cases l : i < 18
    · simp [l, Nat.not_le.mpr l]
    · have : c.testBit i = false := Nat.testBit_lt_two_pow (Nat.lt_of_lt_of_le h (Nat.pow_le_pow_right (by decide) (by omega)))
      simp [l, Nat.not_lt.mp l, this]
  have x := bchRem_xor (info * 2 ^ 18) c (n + 18) 0 0 (Nat.two_pow_pos 18) (Nat.two_pow_pos 18)
  rw [Nat.xor_self] at x
  rw [e, x, hc, bchRem_high c h, Nat.xor_self]
theorem crc_step {n : Nat} (x : Nat) (b : Byte) (h : n < 2 ^ 13) :
    (List.foldl (fun c i => let top := (c / 2 ^ 12 % 2 + bitsOf b.toNat (7 - i) 1) % 2; let x := 2 * c % 2 ^ 13; if top = 1 then x ^^^ 0x1CF5 else x) n (List.range x)) < 2 ^ 13 := by
  generalize List.range x = l
  induction l generalizing n with
  | nil => exact h
  | cons a t ih =>
    rw [List.foldl_cons]
    apply ih
    have y : 2 * n % 2 ^ 13 < 2 ^ 13 := Nat.mod_lt _ (by decide)
    simp only
    split
    · exact Nat.xor_lt_two_pow y (by decide)
    · exact y

theorem crc13_lt (bs : List Byte) : crc13 bs < 2 ^ 13 := by
  unfold crc13
  have : ∀ (l : List Byte) (c : Nat), c < 2 ^ 13 → l.foldl (fun c b => (List.range 8).foldl (fun c i =>
      let top := (c / 2 ^ 12 % 2 + bitsOf b.toNat (7 - i) 1) % 2
      let x := 2 * c % 2 ^ 13
      if top = 1 then x ^^^ 0x1CF5 else x) c) c < 2 ^ 13 := by
    intro l
    induction l with
    | nil => intro c h; exact h
    | cons a t ih => intro c h; exact ih _ (crc_step 8 a h)
  exact this bs _ (by decide)

theorem nat_of_bytes (n : Nat) : ∀ v, natOfBytes (bytesOfNat n v) = v % 256 ^ n := by
  induction n with
  | zero => intro v; simp [bytesOfNat, natOfBytes, Nat.mod_one]
  | succ n ih =>
    intro v
    simp only [bytesOfNat, natOfBytes, ih, BitVec.toNat_ofNat]
    rw [show 256 ^ (n + 1) = 256 * 256 ^ n by rw [Nat.pow_succ, Nat.mul_comm], Nat.mod_mul]

theorem bytes_of_nat (d : List Byte) (k : Nat) : bytesOfNat d.length (natOfBytes d + k * 256 ^ d.length) = d := by
  induction d generalizing k with
  | nil => rfl
  | cons b t ih =>
    simp only [List.length_cons, bytesOfNat, natOfBytes]
    have h := b.isLt
    have e : b.toNat + 256 * natOfBytes t + k * 256 ^ (t.length + 1) = b.toNat + 256 * (natOfBytes t + k * 256 ^ t.length) := by
      rw [Nat.pow_succ, Nat.mul_add, ← Nat.mul_assoc, Nat.mul_comm (k * 256 ^ t.length) 256, Nat.add_assoc]
    rw [e]
    congr 1
    · apply BitVec.eq_of_toNat_eq
      simp only [BitVec.toNat_ofNat]
      omega
    · rw [show (b.toNat + 256 * (natOfBytes t + k * 256 ^ t.length)) / 256 = natOfBytes t + k * 256 ^ t.length by omega]
      exact ih k

theorem nat_lt (d : List Byte) : natOfBytes d < 2 ^ (8 * d.length) := by
  induction d with
  | nil => simp [natOfBytes]
  | cons b t ih =>
    have h := b.isLt
    simp only [natOfBytes, List.length_cons, Nat.mul_add, Nat.mul_one, Nat.pow_add]
    omega

theorem zeroBits_append (a b : List Byte) : zeroBits (a ++ b) = zeroBits a + zeroBits b := by
  have : ∀ (l : List Nat) (k : Nat), l.foldl (· + ·) k = k + l.foldl (· + ·) 0 := by
    intro l
    induction l with
    | nil => intro k; rfl
    | cons x t ih => intro k; simp only [List.foldl_cons]; rw [ih (k + x), ih (0 + x)]; omega
  simp only [zeroBits, List.map_append, List.foldl_append]
  rw [this]

/-- A word written with its parity reads as it was written (R312, R313). -/
theorem wordRead_good (addr : Nat) (d : List Byte) (z : 2 < zeroBits d) : wordRead addr d (wordParity addr d) = .good d 0 := by
  have hc : wordCrc addr d < 2 ^ 13 := crc13_lt _
  have hw : wordCode d (wordCrc addr d) < 2 ^ 18 := bchRem_lt _ _ _ (Nat.two_pow_pos 18)
  have p : natOfBytes (wordParity addr d) = wordCode d (wordCrc addr d) * 2 ^ 14 + wordCrc addr d * 2 := by
    rw [wordParity, nat_of_bytes]; apply Nat.mod_eq_of_lt; omega
  have b1 : bitsOf (wordCode d (wordCrc addr d) * 2 ^ 14 + wordCrc addr d * 2) 1 13 = wordCrc addr d := by simp only [bitsOf]; omega
  have b2 : bitsOf (wordCode d (wordCrc addr d) * 2 ^ 14 + wordCrc addr d * 2) 14 18 = wordCode d (wordCrc addr d) := by simp only [bitsOf]; omega
  have r : bchRem ((natOfBytes d + wordCrc addr d * 2 ^ (8 * d.length)) * 2 ^ 18 + wordCode d (wordCrc addr d)) (8 * d.length + 31) 0 = 0 :=
    bchRem_code (n := 8 * d.length + 13) rfl
  have q : ((natOfBytes d + wordCrc addr d * 2 ^ (8 * d.length)) * 2 ^ 18 + wordCode d (wordCrc addr d)) / 2 ^ 18 = natOfBytes d + wordCrc addr d * 2 ^ (8 * d.length) := by
    omega
  have e : bytesOfNat d.length (natOfBytes d + wordCrc addr d * 2 ^ (8 * d.length)) = d := by
    have := bytes_of_nat d (wordCrc addr d)
    rwa [show (256 : Nat) = 2 ^ 8 from rfl, ← Nat.pow_mul] at this
  have f : bitsOf (natOfBytes d + wordCrc addr d * 2 ^ (8 * d.length)) (8 * d.length) 13 = wordCrc addr d := by
    simp only [bitsOf]
    rw [Nat.add_mul_div_right _ _ (Nat.two_pow_pos _), Nat.div_eq_of_lt (nat_lt d), Nat.zero_add, Nat.mod_eq_of_lt hc]
  have g : wordDecode addr d (natOfBytes (wordParity addr d)) = some (d, 0) := by
    simp only [wordDecode, p, b1, b2, r, bchLocate, if_true, List.foldl_nil, q, e, f, List.length_nil]
  simp only [wordRead, if_neg (show ¬ zeroBits d + zeroBits (wordParity addr d) ≤ 2 by omega), g]

/-- A memory with every byte given, up to an address. -/
def dense (f : Nat → Byte) : Nat → Nat → Memory
  | _, 0 => []
  | a, n + 1 => if f a = flashEmpty then dense f (a + 1) n else (a, f a) :: dense f (a + 1) n

theorem dense_get (f : Nat → Byte) (x : Nat) : ∀ n a, sget flashEmpty (dense f a n) x = if a ≤ x ∧ x < a + n then f x else flashEmpty := by
  intro n
  induction n with
  | zero => intro a; rw [if_neg (by omega)]; rfl
  | succ n ih =>
    intro a
    by_cases e : x = a
    · subst e
      rw [if_pos (by omega), dense]
      split
      next h => rw [ih, if_neg (by omega), h]
      next h => simp [sget]
    · have h : sget flashEmpty (dense f a (n + 1)) x = sget flashEmpty (dense f (a + 1) n) x := by
        rw [dense]
        split
        · rfl
        · simp only [sget, e, if_false]
          split
          · rw [ih, if_neg (by omega)]
          · rfl
      rw [h, ih]
      by_cases l : a ≤ x ∧ x < a + (n + 1)
      · rw [if_pos l, if_pos (by omega)]
      · rw [if_neg l, if_neg (by omega)]

/-- Header word 0 of a sector, header word 1 of a sector of slot A, the header of an empty boot image, and a pointer record that names slot
B, without their parity. -/
def head0 (sec : Nat) : List Byte := (healthRecord sec 1 0 0 false 0).take 28
def head1 : List Byte := bytesOfNat 1 2 ++ bytesOfNat 1 0 ++ bytesOfNat 2 0 ++ bytesOfNat 8 1 ++ bytesOfNat 16 0
def imageHead : List Byte := bytesOfNat 4 0x43554D45 ++ bytesOfNat 4 1 ++ bytesOfNat 24 0
def pointB : List Byte := pointerRecord 1 1

/-- The bytes of a part whose slot A holds an empty image and whose boot pointer names slot B. -/
def partByte (a : Nat) : Byte :=
  let sec := a / sectorBytes
  let off := a % sectorBytes
  let word (w : List Byte) : Byte :=
    if 0x40 ≤ off ∧ off < 0x60 then w.getD (off - 0x40) 0xFF
    else if 0xE40 ≤ off ∧ off < 0xE44 then (wordParity (wordAt sec 0) w).getD (off - 0xE40) 0xFF else 0xFF
  if sec = 0 then word pointB
  else if 2 ≤ sec ∧ sec < 1026 then
    if off < 28 then (head0 sec).getD off 0xFF
    else if off < 32 then (wordParity (sectorBytes * sec) (head0 sec)).getD (off - 28) 0xFF
    else if off < 60 then head1.getD (off - 32) 0xFF
    else if off < 64 then (wordParity (sectorBytes * sec + 32) head1).getD (off - 60) 0xFF
    else if sec = 2 then word imageHead
    else 0xFF
  else 0xFF

/-- The part. -/
def part : Memory := dense partByte 0 (sectorBytes * 1026)

theorem part_byte (a : Nat) : flashByte part a = partByte a := by
  rw [flashByte, part, dense_get]
  split
  · rfl
  next h =>
    have l : 1026 ≤ a / sectorBytes := by simp only [sectorBytes] at *; omega
    have n0 : ¬ a / sectorBytes = 0 := by omega
    have n1 : ¬ (2 ≤ a / sectorBytes ∧ a / sectorBytes < 1026) := by omega
    simp only [partByte, if_neg n0, if_neg n1]
    rfl

/-- A run of bytes of the part. -/
theorem part_bytes {m : Memory} (hm : ∀ a, flashByte m a = partByte a) (a n : Nat) (l : List Byte) (hl : l.length = n) (h : ∀ i, i < n → partByte (a + i) = l.getD i 0xFF) : flashBytes m a n = l := by
  apply List.ext_getElem
  · simp [flashBytes, hl]
  · intro i h1 h2
    have hi : i < n := by omega
    simp only [flashBytes, List.getElem_map, List.getElem_range, hm, h i hi]
    simp [h2]

theorem parity_length (a : Nat) (d : List Byte) : (wordParity a d).length = 4 := rfl

theorem sec_div (sec k : Nat) (h : k < sectorBytes) : (sectorBytes * sec + k) / sectorBytes = sec := by
  simp only [sectorBytes] at *; omega
theorem sec_mod (sec k : Nat) (h : k < sectorBytes) : (sectorBytes * sec + k) % sectorBytes = k := by
  simp only [sectorBytes] at *; omega

/-- The two header words of a sector of slot A. -/
theorem part_head0 {m : Memory} (hm : ∀ a, flashByte m a = partByte a) (sec : Nat) (h : 2 ≤ sec ∧ sec < 1026) : headRead m sec 0 = .good (head0 sec) 0 := by
  have n0 : ¬ sec = 0 := by omega
  have a : flashBytes m (sectorBytes * sec + 32 * 0) 28 = head0 sec := by
    refine part_bytes hm _ _ _ (by rfl) ?_
    intro i hi
    rw [Nat.add_assoc, Nat.mul_zero, Nat.zero_add]
    have k : i < sectorBytes := by simp only [sectorBytes]; omega
    simp only [partByte, sec_div _ _ k, sec_mod _ _ k, if_neg n0, if_pos h, if_pos hi]
  have b : flashBytes m (sectorBytes * sec + 32 * 0 + 28) 4 = wordParity (sectorBytes * sec) (head0 sec) := by
    refine part_bytes hm _ _ _ (by rfl) ?_
    intro i hi
    rw [Nat.add_assoc, Nat.add_assoc, Nat.mul_zero, Nat.zero_add]
    have k : 28 + i < sectorBytes := by simp only [sectorBytes]; omega
    simp only [partByte, sec_div _ _ k, sec_mod _ _ k, if_neg n0, if_pos h, if_neg (show ¬ 28 + i < 28 by omega), if_pos (show 28 + i < 32 by omega), Nat.add_sub_cancel_left]
  simp only [headRead, a, b]
  apply wordRead_good
  have z : head0 sec = (bytesOfNat 4 0x43455343 ++ bytesOfNat 4 1 ++ bytesOfNat 4 sec) ++ (bytesOfNat 4 0 ++ bytesOfNat 1 0 ++ bytesOfNat 1 0 ++ bytesOfNat 2 0 ++ bytesOfNat 2 1 ++ bytesOfNat 6 0) := rfl
  rw [z, zeroBits_append]
  have : zeroBits (bytesOfNat 4 0 ++ bytesOfNat 1 0 ++ bytesOfNat 1 0 ++ bytesOfNat 2 0 ++ bytesOfNat 2 1 ++ bytesOfNat 6 0) = 127 := by decide +kernel
  omega

theorem part_head1 {m : Memory} (hm : ∀ a, flashByte m a = partByte a) (sec : Nat) (h : 2 ≤ sec ∧ sec < 1026) : headRead m sec 1 = .good head1 0 := by
  have n0 : ¬ sec = 0 := by omega
  have a : flashBytes m (sectorBytes * sec + 32 * 1) 28 = head1 := by
    refine part_bytes hm _ _ _ (by rfl) ?_
    intro i hi
    rw [Nat.add_assoc, Nat.mul_one]
    have k : 32 + i < sectorBytes := by simp only [sectorBytes]; omega
    simp only [partByte, sec_div _ _ k, sec_mod _ _ k, if_neg n0, if_pos h, if_neg (show ¬ 32 + i < 28 by omega), if_neg (show ¬ 32 + i < 32 by omega),
      if_pos (show 32 + i < 60 by omega), Nat.add_sub_cancel_left]
  have b : flashBytes m (sectorBytes * sec + 32 * 1 + 28) 4 = wordParity (sectorBytes * sec + 32) head1 := by
    refine part_bytes hm _ _ _ (by rfl) ?_
    intro i hi
    rw [Nat.add_assoc, Nat.add_assoc, Nat.mul_one, ← Nat.add_assoc 32]
    have k : 32 + 28 + i < sectorBytes := by simp only [sectorBytes]; omega
    simp only [partByte, sec_div _ _ k, sec_mod _ _ k, if_neg n0, if_pos h, if_neg (show ¬ 32 + 28 + i < 28 by omega), if_neg (show ¬ 32 + 28 + i < 32 by omega),
      if_neg (show ¬ 32 + 28 + i < 60 by omega), if_pos (show 32 + 28 + i < 64 by omega), show 32 + 28 + i - 60 = i by omega]
  simp only [headRead, a, b, Nat.mul_one]
  exact wordRead_good _ _ (by decide +kernel)

/-- The first data word of the pointer's sector and of slot A's image. -/
theorem part_word {m : Memory} (hm : ∀ a, flashByte m a = partByte a) (sec : Nat) (w : List Byte) (hw : w.length = 32) (hs : sec = 0 ∧ w = pointB ∨ sec = 2 ∧ w = imageHead) (z : 2 < zeroBits w) :
    dataRead m sec 0 = .good w 0 := by
  have a : flashBytes m (wordAt sec 0) 32 = w := by
    refine part_bytes hm _ _ _ hw ?_
    intro i hi
    have k : 0x40 + i < sectorBytes := by simp only [sectorBytes]; omega
    rw [wordAt, Nat.mul_zero, Nat.add_zero, Nat.add_assoc]
    have c : 0x40 ≤ 0x40 + i ∧ 0x40 + i < 0x60 := by omega
    rcases hs with ⟨rfl, rfl⟩ | ⟨rfl, rfl⟩
    · simp only [partByte, sec_div _ _ k, sec_mod _ _ k, if_true, if_pos c, Nat.add_sub_cancel_left]
    · simp only [partByte, sec_div _ _ k, sec_mod _ _ k, if_neg (show ¬ (2 : Nat) = 0 by decide), if_pos (show (2 : Nat) ≤ 2 ∧ 2 < 1026 by decide),
        if_neg (show ¬ 0x40 + i < 28 by omega), if_neg (show ¬ 0x40 + i < 32 by omega), if_neg (show ¬ 0x40 + i < 60 by omega), if_neg (show ¬ 0x40 + i < 64 by omega),
        if_true, if_pos c, Nat.add_sub_cancel_left]
  have b : flashBytes m (parityAt sec 0) 4 = wordParity (wordAt sec 0) w := by
    refine part_bytes hm _ _ _ (by rfl) ?_
    intro i hi
    have k : 0xE40 + i < sectorBytes := by simp only [sectorBytes]; omega
    rw [parityAt, Nat.mul_zero, Nat.add_zero, Nat.add_assoc]
    have c : ¬ (0x40 ≤ 0xE40 + i ∧ 0xE40 + i < 0x60) := by omega
    have c2 : 0xE40 ≤ 0xE40 + i ∧ 0xE40 + i < 0xE44 := by omega
    rcases hs with ⟨rfl, rfl⟩ | ⟨rfl, rfl⟩
    · simp only [partByte, sec_div _ _ k, sec_mod _ _ k, if_true, if_neg c, if_pos c2, Nat.add_sub_cancel_left]
    · simp only [partByte, sec_div _ _ k, sec_mod _ _ k, if_neg (show ¬ (2 : Nat) = 0 by decide), if_pos (show (2 : Nat) ≤ 2 ∧ 2 < 1026 by decide),
        if_neg (show ¬ 0xE40 + i < 28 by omega), if_neg (show ¬ 0xE40 + i < 32 by omega), if_neg (show ¬ 0xE40 + i < 60 by omega), if_neg (show ¬ 0xE40 + i < 64 by omega),
        if_true, if_neg c, if_pos c2, Nat.add_sub_cancel_left]
  simp only [dataRead, a, b]
  exact wordRead_good _ _ z

theorem head0_magic (sec : Nat) : fieldOf (head0 sec) 0 4 = 0x43455343 := by
  have e : ((head0 sec).drop 0).take 4 = bytesOfNat 4 0x43455343 := by rfl
  rw [fieldOf, e]
  decide +kernel

theorem head1_use : (fieldOf head1 0 1, fieldOf head1 1 1) = (2, 0) := by decide +kernel
theorem image_fields : fieldOf imageHead 8 4 = 0 ∧ (fieldOf imageHead 0 4 == 0x43554D45) = true ∧ (fieldOf imageHead 4 2 == 1) = true ∧ fieldOf imageHead 0xC 4 = 0 := by
  decide +kernel

theorem part_headers {m : Memory} (hm : ∀ a, flashByte m a = partByte a) (i : Nat) (hi : i < 1024) :
    ((healthOf m (2 + i)).isSome && useOf m (2 + i) == some (2, 0)) = true := by
  have e1 : healthOf m (2 + i) = some (head0 (2 + i)) := by
    simp only [healthOf, part_head0 hm (2 + i) (by omega), WordRead.health, head0_magic, if_true]
  have e2 : useOf m (2 + i) = some (2, 0) := by
    simp only [useOf, part_head1 hm (2 + i) (by omega), WordRead.use, WordRead.data?, Option.map_some, head1_use]
  simp [e1, e2]

/-- Slot A passes its check (R320). -/
theorem part_slotOk {m : Memory} (hm : ∀ a, flashByte m a = partByte a) : slotOk m 0 = true := by
  have h : ((List.range 1024).all (fun i => (healthOf m (2 + i)).isSome && useOf m (2 + i) == some (2, 0))) = true :=
    List.all_eq_true.mpr (fun i hi => part_headers hm i (List.mem_range.mp hi))
  have w : imageWord m 2 0 = some imageHead := by
    simp only [imageWord, Nat.zero_div, Nat.zero_mod, Nat.add_zero, part_word hm 2 imageHead (by rfl) (Or.inr ⟨rfl, rfl⟩) (by decide +kernel), WordRead.data?]
  have v : ceilDiv 0 32 = 0 := by decide
  have c : crc32c ([] : List Byte) = 0 := by decide +kernel
  have d : decide (0 ≤ 1024 * sectorWords * 32 - 32) = true := decide_eq_true (Nat.zero_le _)
  simp only [slotOk, slotPayload, slotBase, Nat.mul_zero, Nat.add_zero, h, w, image_fields.1, image_fields.2.1, image_fields.2.2.1, image_fields.2.2.2, v, d, Bool.true_and, if_true, List.range_zero]
  simp only [List.mapM_nil, Option.pure_def, List.flatten_nil, List.take_nil, c, if_true, Option.isSome_some]

theorem getD_replicate (n i : Nat) : (List.replicate n (0xFF : Byte)).getD i 0xFF = 0xFF := by
  induction n generalizing i with
  | zero => rfl
  | succ n ih =>
    cases i with
    | zero => rfl
    | succ i => exact ih i

theorem part_blank {m : Memory} (hm : ∀ a, flashByte m a = partByte a) (sec w : Nat) (hs : sec < 2) (hw : w < sectorWords) (h : ¬ (sec = 0 ∧ w = 0)) :
    flashBytes m (wordAt sec w) 32 = List.replicate 32 0xFF ∧ flashBytes m (parityAt sec w) 4 = List.replicate 4 0xFF := by
  simp only [sectorWords] at hw
  have n : ¬ (2 ≤ sec ∧ sec < 1026) := by omega
  constructor
  · refine part_bytes hm _ _ _ (by rfl) ?_
    intro i hi
    have k : 0x40 + 32 * w + i < sectorBytes := by simp only [sectorBytes]; omega
    rw [wordAt, Nat.add_assoc, Nat.add_assoc, ← Nat.add_assoc 0x40]
    rw [getD_replicate]
    simp only [partByte, sec_div _ _ k, sec_mod _ _ k, if_neg n]
    split
    next z => rw [if_neg (by omega), if_neg (by omega)]
    · rfl
  · refine part_bytes hm _ _ _ (by rfl) ?_
    intro i hi
    have k : 0xE40 + 4 * w + i < sectorBytes := by simp only [sectorBytes]; omega
    rw [parityAt, Nat.add_assoc, Nat.add_assoc, ← Nat.add_assoc 0xE40]
    rw [getD_replicate]
    simp only [partByte, sec_div _ _ k, sec_mod _ _ k, if_neg n]
    split
    next z => rw [if_neg (by omega), if_neg (by omega)]
    · rfl

theorem part_erased {m : Memory} (hm : ∀ a, flashByte m a = partByte a) (sec w : Nat) (hs : sec < 2) (hw : w < sectorWords) (h : ¬ (sec = 0 ∧ w = 0)) :
    dataRead m sec w = .erased := by
  have b := part_blank hm sec w hs hw h
  simp only [dataRead, b.1, b.2, wordRead]
  exact if_pos (by decide +kernel)

theorem point_read {m : Memory} (hm : ∀ a, flashByte m a = partByte a) : dataRead m 0 0 = .good pointB 0 :=
  part_word hm 0 pointB (by rfl) (Or.inl ⟨rfl, rfl⟩) (by decide +kernel)

/-- The pointer names slot B (R321). -/
theorem part_pointer {m : Memory} (hm : ∀ a, flashByte m a = partByte a) : bootPointer m = some (0, 1, 1) := by
  have p : pointerOf pointB = some (1, 1) := by decide +kernel
  have places : pointerPlaces = (0, 0) :: ((List.range 111).map (fun w => (0, w + 1)) ++ (List.range sectorWords).map (fun w => (1, w))) := by decide +kernel
  rw [bootPointer, places, List.map_cons, point_read hm]
  refine bestPointer_one p (fun x hx => ?_)
  obtain ⟨y, hy, rfl⟩ := List.mem_map.mp hx
  rcases List.mem_append.mp hy with h | h
  · obtain ⟨w, hw, rfl⟩ := List.mem_map.mp h
    have := List.mem_range.mp hw
    exact part_erased hm 0 (w + 1) (by decide) (by simp only [sectorWords]; omega) (by omega)
  · obtain ⟨w, hw, rfl⟩ := List.mem_map.mp h
    exact part_erased hm 1 w (by decide) (List.mem_range.mp hw) (by omega)

/-- Every data word of the pointer sectors is clean. -/
theorem part_clean {m : Memory} (hm : ∀ a, flashByte m a = partByte a) (sec w : Nat) (hs : sec < 2) (hw : w < sectorWords) : (dataRead m sec w).clean = true := by
  by_cases h : sec = 0 ∧ w = 0
  · obtain ⟨rfl, rfl⟩ := h
    rw [point_read hm]
    rfl
  · rw [part_erased hm sec w hs hw h]
    rfl

/-- The word behind the pointer record is the first one that is erased. -/
theorem part_next {m : Memory} (hm : ∀ a, flashByte m a = partByte a) : (List.range sectorWords).find? (wordBlank m 0) = some 1 := by
  have z : wordBlank m 0 0 = false := by
    cases h : wordBlank m 0 0 with
    | false => rfl
    | true =>
      simp only [wordBlank, beq_iff_eq] at h
      have g := point_read hm
      simp only [dataRead, wordRead] at g
      rw [if_pos (by omega)] at g
      cases g
  have o : wordBlank m 0 1 = true := by
    have b := part_blank hm 0 1 (by decide) (by decide) (by decide)
    simp only [wordBlank, b.1, b.2]
    decide +kernel
  rw [show sectorWords = 111 + 1 from rfl, List.range_succ_eq_map, List.find?_cons_of_neg (by rw [z]; decide), show 111 = 110 + 1 from rfl, List.range_succ_eq_map,
    List.map_cons, List.find?_cons_of_pos o]

/-- Slot A passes the Cellar's check, which notes nothing. -/
theorem part_checks {s : State} (hm : ∀ a, flashByte s.cel.flash a = partByte a) (h : s.erasing = none) : checkSlot 0 s = (true, s) := by
  refine checkImage_empty h (part_word hm 2 imageHead (by rfl) (Or.inr ⟨rfl, rfl⟩) (by decide +kernel)) (by decide +kernel) (fun i hi => ?_) (fun i hi => ?_) (by decide +kernel)
  · rw [show slotBase 0 + i = 2 + i from rfl, part_head0 hm _ (by omega), part_head1 hm _ (by omega)]
    exact ⟨rfl, rfl⟩
  · have k := part_headers hm i hi
    simp only [Bool.and_eq_true, beq_iff_eq] at k
    exact k

/-- A part that boots slot A, and, with slot B booted, lets SWAP begin. -/
theorem wit_bootable : ∃ s : State, Says.CellarFree s ∧ s.up = true ∧ Says.arg s 0 ≤ 1 ∧ slotInUse s (Says.arg s 0) = false ∧
    (let checked := checkSlot (Says.arg s 0) (readPointer s).2
     checked.1 = true ∧ (readPointer checked.2).1 = some (0, 1, 1)) ∧ (List.range sectorWords).find? (wordBlank s.cel.flash 0) = some 1 := by
  obtain ⟨m, hm⟩ : ∃ m, ∀ a, flashByte m a = partByte a := ⟨part, part_byte⟩
  have st : (cellar [] 0 0 id).fld Reg.celStatus 0 1 = 1 := by decide +kernel
  have a : Says.arg (cellar [] 0 0 id) 0 = 0 := by decide +kernel
  let s := { cellar [] 0 0 id with cel := { flash := m, slot := some 1 } }
  have b : Says.arg s 0 = 0 := a
  have e : s.erasing = none := rfl
  have c : ∀ sec w, sec < 2 → w < sectorWords → (dataRead s.cel.flash sec w).clean = true := part_clean hm
  have r := readPointer_clean e c
  have p : bootPointer s.cel.flash = some (0, 1, 1) := part_pointer hm
  refine ⟨s, ⟨st, rfl, rfl, rfl, rfl, rfl⟩, (by decide +kernel : (cellar [] 0 0 id).up = true), ?_, ?_, ?_, part_next hm⟩
  · rw [b]; decide
  · rw [b, slotInUse_clean e c, namedSlot, p]
    rfl
  · have k : checkSlot 0 s = (true, s) := part_checks hm e
    simp only [b, r, k, p, and_self]

/-- A block in cold reset whose part boots. -/
theorem wit_ColdResetReleases_ready : ∃ s : State, s.pins.cold = true ∧ s.pins.iso = false ∧ s.pins.rails = true ∧ s.empty ∧ slotOk s.cel.flash 0 = true := by
  obtain ⟨m, hm⟩ : ∃ m, ∀ a, flashByte m a = partByte a := ⟨part, part_byte⟩
  exact ⟨{ cel := { flash := m } }, rfl, rfl, rfl, rfl, part_slotOk hm⟩

/-! ## More witnesses -/

/-- Each port's tags are its own. -/
theorem wit_StepKeepsBoundsInv : BoundsInv up ∧ BoundsInv State.reset := by
  refine ⟨⟨?_, ?_, ?_, ?_, ?_, ?_, ?_⟩, ⟨?_, ?_, ?_, ?_, ?_, ?_, ?_⟩⟩ <;> decide +kernel

theorem wit_StepKeepsMemoryInv : MemoryInv up ∧ MemoryInv State.reset := by
  have c : ∀ s : State, s.chim.cal = none → ∀ m, s.chim.cal = some m → m.wf = true := by intro s h m e; rw [h] at e; cases e
  have r : ∀ l : List (Nat × Word), (l.Pairwise (fun a b => a.1 < b.1) ∧ ∀ e ∈ l, e.2 ≠ regReset e.1) → regsWf l := fun _ h => h
  refine ⟨⟨?_, ?_, ?_, ?_, ?_, c _ rfl, ?_, ?_, r _ ?_⟩, ⟨?_, ?_, ?_, ?_, ?_, c _ rfl, ?_, ?_, r _ ?_⟩⟩ <;> decide +kernel

/-- a2 in the Chest of room 1, a3 in the Pantry, a4 a bound handle. -/
def afar : State := { addrs.modStew 0 (fun w => { w with areg := w.areg.set 4 0x80001FF8 }) with
  land := { addrs.land with keyring := [(1023, 0x7FFF)], words := [(16383, mkWord 1 0 hostJob 5)] } }

theorem wit_LoadFromElsewhere : MemReady afar 0 ⟨5, 2, 3, 0, 8⟩ (.s 5) 8 ∧
    decodeAddr 0 (memAddr (afar.room 0).stew ⟨5, 2, 3, 0, 8⟩) 8 afar = .ok (.room 1 .chest 8) afar ∧ (afar.room 0).quiet ∧ afar.fld (rreg 0 Reg.winSampCtl) 0 1 = 0 ∧
    hallFlush 0 (some 1) afar = afar ∧ afar.eccOf (some 1) .chest = [] ∧
    decodeAddr 0 (memAddr (afar.room 0).stew ⟨5, 3, 3, 0, 8⟩) 8 afar = .ok (.pantry 8) afar ∧ hallFlush 0 none afar = afar ∧ afar.pantryEcc = [] ∧
    decodeAddr 0 (memAddr (afar.room 0).stew ⟨5, 4, 3, 0, 0⟩) 8 afar = .ok (.sync 1023) afar ∧ roomWord 0 1023 afar = .ok 16383 afar ∧
    syncFlush 0 16383 afar.land.ops.length afar = afar ∧ syncEcc afar 16383 = 0 ∧ swf 0 afar.land.ecc = true := by
  have q : ∀ m : Room, (∀ q : Fin 5, (m.queue q).entries = [] ∧ (m.queue q).active = none ∧ (m.queue q).beside = none) → m.quiet := fun _ h => h
  have d : decodeAddr 0 (memAddr (afar.room 0).stew ⟨5, 4, 3, 0, 0⟩) 8 afar = .ok (.sync 1023) afar := by
    rw [show memAddr (afar.room 0).stew ⟨5, 4, 3, 0, 0⟩ = 0x80001FF8 by decide +kernel]
    rfl
  have k : roomWord 0 1023 afar = .ok 16383 afar := by
    have h : keyFix 0 1023 afar = afar := by decide +kernel
    have b : keyBad afar 0 1023 = false := by decide +kernel
    have w : afar.keyWord 0 1023 = some 16383 := by decide +kernel
    have c : roomCtx afar 0 = 0 := by decide +kernel
    simp [roomWord, bind, EStateM.bind, get, getThe, MonadStateOf.get, EStateM.get, set, MonadStateOf.set, EStateM.set, c, b, h, w, pure, EStateM.pure]
  refine ⟨⟨ready_of ?_, ?_, rfl, ?_, by decide, ?_⟩, by rfl, q _ ?_, ?_, by rfl, ?_, by rfl, by rfl, ?_, d, k, by rfl, ?_, ?_⟩ <;> decide +kernel

/-- An activation with a word of two wrong bits, which the Floor meets as it begins. -/
def spoilt : State := running.modRoom 0 (fun m => { m with ecc := [(0, 0, 2)] })

theorem fails_of {α : Type} {k : Op α} {s : State} (h : goes k s = false) : ∃ x t, k s = .error x t := by
  unfold goes at h
  split at h
  · cases h
  · exact ⟨_, _, by assumption⟩

theorem wit_UnitInstructionFaults : ∃ x s2, let u := uabc 0 1 0 0x80
    let e := entryFor flRunRow spoilt 0 u
    Issues flRunRow spoilt 0 u e (begunFor flRunRow spoilt 0 u) ∧ beginUnit 0 e (begunFor flRunRow spoilt 0 u) = .error x s2 := by
  obtain ⟨x, s2, h⟩ := fails_of (k := beginUnit 0 (entryFor flRunRow spoilt 0 (uabc 0 1 0 0x80))) (s := begunFor flRunRow spoilt 0 (uabc 0 1 0 0x80)) (by decide +kernel)
  exact ⟨x, s2, issues_of (by decide +kernel) (by rfl) (by rfl) (by rfl) (by rfl), h⟩

/-- The fault stops the Steward (R290). -/
theorem test_unit_fault : ∃ t, exec (.flRun 0 (uabc 0 1 0 0x80)) spoilt = .next t ∧ t.faults.map (fun f => f.code) = [.sramUncorrectable] ∧
    (t.room 0).stew.running = false := ⟨_, rfl, by decide +kernel, by decide +kernel⟩

/-- A status word with INV where INV is trapped, and where it is not. -/
theorem wit_StatusWordsTrap : let s (ctl : Word) := (on 0 id).setReg (rreg 0 Reg.roomExcCtl) ctl
    let t : TileStatus := { fl := { inv := true } }
    goes (storeNat 0 0x100 4 t.word) (s 0x10) = true ∧ (s 0x10).fld (rreg 0 Reg.roomExcCtl) 4 1 = 1 ∧ (s 0x20).fld (rreg 0 Reg.roomExcCtl) 4 1 = 0 := by
  decide +kernel

/-- An extended launch, with slots of the pool free and with none. -/
def extended (free : Nat) : State := ((dwRoom id).setFld Reg.hallPool 8 8 free).modQueue 0 4 (fun q => { q with entries := [⟨0, .dwLaunch (uabc 0 1 3 9), [0x1000], [0x2000], [7], 0, none, false, 0⟩] })

theorem wit_LaunchStarts_extended : ∀ n ∈ [0, 3], ∃ e prog, (extended n).up = true ∧ launchReady ((extended n).room 0) = some e ∧ e.op = .dwLaunch (uabc 0 1 3 9) ∧
    bitAt (e.rc.headD 0) 2 = true ∧ (extended n).fld Reg.hallPool 8 8 = n ∧ fetchProg 0 e.op 64 (e.ra.headD 0) [] ((extended n).modQueue 0 4 (fun q => { q with entries := q.entries.tail })) =
      .ok prog ((extended n).modQueue 0 4 (fun q => { q with entries := q.entries.tail })) := by
  intro n h
  simp only [List.mem_cons, List.not_mem_nil, or_false] at h
  rcases h with rfl | rfl
  · exact ⟨_, [.end_], by decide +kernel, rfl, rfl, by decide, by decide +kernel, by rfl⟩
  · exact ⟨_, [.end_], by decide +kernel, rfl, rfl, by decide, by decide +kernel, by rfl⟩

/-- A launch that is still queued at its deadline; one that is not due; and the room of a job in debug. -/
theorem wit_DeadlineBreaches_queued : let e : QEntry := ⟨0, .dwLaunch (uabc 0 1 3 9), [0x1000], [0x2000], [3], 0, none, false, 0⟩
    launching.up = true ∧ roomDebug launching 0 = false ∧ (launching.room 0).chan e.channel = none ∧
    ((launching.room 0).queue 4).entries.find? (fun x => x.isLaunch && x.channel == e.channel && decide (x.deadline ≤ 9)) = some e ∧
    ((launching.room 0).queue 4).entries.find? (fun x => x.isLaunch && x.channel == e.channel && decide (x.deadline ≤ 8)) = none ∧ roomDebug studied 0 = true := by
  decide +kernel

/-- Reserved registers, a class that an instruction does not take, and reserved fields, in every format. -/
theorem wit_ReservedRegisterIsIllegal_forms : RoomReady (on 0 id) 0 ∧ regName (⟨0x30, 1, 2, 0⟩ : FmtR).rd = none ∧ regName (⟨1, 0x30, 2, 0⟩ : FmtR).rs1 = none ∧
    regName (⟨1, 2, 0x30, 0⟩ : FmtR).rs2 = none ∧ (⟨1, 2, 3, 1⟩ : FmtR).rsv ≠ 0 ∧ regName (⟨0x64, 1, false, false, 0⟩ : FmtI).rd = none ∧
    regName (⟨1, 0x64, false, false, 0⟩ : FmtI).rs1 = none ∧ regName (⟨0x64, 1, 3, 0, 0⟩ : FmtM).rt = none ∧ widthBytes (⟨1, 1, 7, 0, 0⟩ : FmtM).width = none ∧
    widthBytes (⟨1, 1, 4, 0, 0⟩ : FmtM).width = some 32 ∧ regName 1 = some (.s 1) :=
  ⟨ready_of (by decide +kernel), rfl, rfl, rfl, by decide, rfl, rfl, rfl, rfl, rfl, rfl⟩

/-- A watch on the word: of a counter one whose condition holds, and of a claim one more than its units. -/
theorem wit_watched : let x : Watch := ⟨16383, .room 0 3, 0, 5⟩
    let y : Watch := ⟨16383, .host 0 2, 0, 1⟩
    let s (v : Word64) (l : List Watch) : State := { reaching v .signal with land := { (reaching v .signal).land with watches := l } }
    (s (mkWord 1 0 hostJob 5) [x]).up = true ∧ (s (mkWord 1 0 hostJob 5) [x]).land.ops[0]? = some ⟨0, 1023, 16383, .signal, 0, 0⟩ ∧
    syncEcc (s (mkWord 1 0 hostJob 5) [x]) 16383 < 2 ∧ (syncResult ((s (mkWord 1 0 hostJob 5) [x]).word 16383) .signal).2 = .done ∧
    condHolds x.cond (wordValue (syncResult (mkWord 1 0 hostJob 5) .signal).1) x.thr = true ∧
    wordKind (syncResult ((s (mkWord 3 0 hostJob 0) [x, y]).word 16383) .signal).1 = 3 ∧ wordValue (syncResult (mkWord 3 0 hostJob 0) .signal).1 = 1 := by
  decide +kernel

/-- A signal of a claim with two watches wakes the first alone, which takes the unit (R220). -/
theorem test_claim_wakes_one : let x : Watch := ⟨16383, .room 0 3, 0, 5⟩
    let y : Watch := ⟨16383, .host 0 2, 0, 1⟩
    let s : State := { reaching (mkWord 3 0 hostJob 0) .signal with land := { (reaching (mkWord 3 0 hostJob 0) .signal).land with watches := [x, y] } }
    (syncApply 16383 .signal s).1.land.watches = [y] ∧ wordValue ((syncApply 16383 .signal s).1.word 16383) = 0 := by decide +kernel

/-- Handles of the host that are bound and not. -/
theorem wit_HostOperationsAnswer : let s := bound (mkWord 1 0 hostJob 5)
    Bound s 0 1023 16383 ∧ keyBad s 0 0 = false ∧ s.keyWord 0 0 = none ∧ wordAbandoned (s.word 16383) = false ∧ (syncResult (s.word 16383) .signal).2 = .done ∧
    (syncResult (s.word 16383) (.set 1)).2 = .kindError :=
  ⟨⟨by decide +kernel, by decide +kernel, by decide +kernel⟩, by decide +kernel, by decide +kernel, by decide +kernel, by decide +kernel, by decide +kernel⟩

/-- Two streams that exchange their rows, with states that differ. -/
def exchanging : State := ((streaming 3 (fun s => s.modJob 2 (fun b => { b with waitCopy := true, rooms := [some 0, some 1], copies := [⟨4095, 0, 3, 1, 0⟩, ⟨4094, 1, 0, 0, 3⟩] }))).setLed 4094 Led.job 5)

theorem wit_StatesAreCopied_exchange : exchanging.up = true ∧ (exchanging.job 2).waitCopy = true ∧ (exchanging.job 2).copies = [⟨4095, 0, 3, 1, 0⟩, ⟨4094, 1, 0, 0, 3⟩] ∧
    faultsOf exchanging 2 = [] ∧ (∀ r, exchanging.eccOf (some r) .chest = []) ∧ exchanging.partner 4095 = none ∧ exchanging.partner 4094 = none := by decide +kernel

/-- A stream of a job that is checkpointed, with the rest as OPEN admits it. -/
theorem wit_OpenTakesAFreeEntry_ckpt : let s := threshold 2 (fun s => s.modJob 2 (fun b => { b with desc := { b.desc with ckpt := true } }))
    (s.job 2).desc.ckpt = true ∧ ((threshold 2 id).job 2).desc.ckpt = false ∧ jobWith s 0 (openArgs 0 s).job = some 2 ∧ openRefusal (openArgs 0 s) false (some 2) s = none ∧
    s.thr.ledgerEcc = [] := by decide +kernel

/-- Nothing waits in a ring, and in the Ledger no entry is in error. -/
theorem wit_PorchArrives : Serves lit 0 Reg.landBarPorch true ∧ (2 : Word).getLsbD 1 = true ∧ (2 : Word).getLsbD 0 = false := ⟨serves_of (by decide +kernel), by decide, by decide⟩

end Sys2Proof.Tests
end

section
/-! How an instruction of a unit goes from its issue to what its unit leaves, for every row of `unitRows`: the facts that the
statements about the Floor, the Stair, the Lamp and the Parlour share. -/

namespace Sys2Proof.Machine

/-! ## Operations that answer -/

/-- What follows an operation that answers goes on in the state it leaves. -/
theorem Op.bind_of_ok {α β : Type} {k : Op α} {f : α → Op β} {s t : State} {x : α} (h : k s = .ok x t) : (k >>= f) s = f x t := by
  show EStateM.bind k f s = f x t
  simp [EStateM.bind, h]

/-- A function of what an operation answers. -/
theorem Op.map_of_ok {α β : Type} {k : Op α} {g : α → β} {s t : State} {x : α} (h : k s = .ok x t) : (g <$> k) s = .ok (g x) t := by
  show EStateM.map g k s = _
  simp [EStateM.map, h]

@[simp] theorem Op.pure_apply {α : Type} (x : α) (s : State) : (pure x : Op α) s = .ok x s := rfl
@[simp] theorem Op.pure_bind_apply {α β : Type} (x : α) (f : α → Op β) (s : State) : (pure x >>= f) s = f x s := rfl
@[simp] theorem Op.get_bind_apply {β : Type} (f : State → Op β) (s : State) : (get >>= f) s = f s s := rfl
@[simp] theorem Op.modify_apply (g : State → State) (s : State) : (modify g : Op Unit) s = .ok () (g s) := rfl
@[simp] theorem Op.modify_bind_apply {β : Type} (g : State → State) (f : Unit → Op β) (s : State) :
    ((modify g : Op Unit) >>= f) s = f () (g s) := rfl

/-- Operands that can be read one by one can be read in a row. -/
theorem Reads.mapM {α β : Type} {k : α → Op β} {g : α → β} {s : State} {l : List α} (h : ∀ x ∈ l, Reads (k x) s (g x)) :
    Reads (l.mapM k) s (l.map g) := by
  unfold Reads
  induction l with
  | nil => simp
  | cons x t ih =>
    have hx : k x s = .ok (g x) s := h x List.mem_cons_self
    have ht := ih (fun y hy => h y (List.mem_cons_of_mem _ hy))
    simp [List.mapM_cons, Op.bind_of_ok hx, Op.map_of_ok ht]

/-! ## Changes of a room -/

/-- A change of a room depends on what it makes of that room as it is. -/
theorem State.modRoom_congr {s : State} {r : RoomId} {f g : Room → Room} (h : f (s.room r) = g (s.room r)) :
    s.modRoom r f = s.modRoom r g := by
  have h' : f (s.rooms.get r) = g (s.rooms.get r) := h
  simp [State.modRoom, h']

/-- A change that makes nothing of a room as it is leaves the block as it is. -/
theorem State.modRoom_self {s : State} {r : RoomId} {f : Room → Room} (h : f (s.room r) = s.room r) : s.modRoom r f = s := by
  have h' : f (s.rooms.get r) = s.rooms[r.val] := h
  simp [State.modRoom, h']

/-! ## Queues of a room -/

theorem pumpUnit_empty {r : RoomId} {q : Fin 5} {s : State} (h : ((s.room r).queue q).entries = []) : pumpUnit r q s = s := by
  simp [pumpUnit, h]

theorem pumpDw_empty {r : RoomId} {n : Nat} {s : State} (h : ((s.room r).queue 4).entries = []) : pumpDw r n s = s := by
  cases n <;> simp [pumpDw, h]

/-- Queues in which no instruction waits do not go on, whatever their units have under way. -/
theorem pump_empty {r : RoomId} {s : State} (h : ∀ q, ((s.room r).queue q).entries = []) : pump r s = s := by
  simp [pump, pumpDw_empty (h 4), pumpUnit_empty (h _)]

/-- When instructions wait in one unit's queue alone and none after its unit has gone on, the room's queues do what that unit does. -/
theorem pump_one {r : RoomId} {q : Fin 5} {s t : State} (hq : q ≠ 4) (hs : ∀ p, p ≠ q → ((s.room r).queue p).entries = [])
    (ht : ∀ p, ((t.room r).queue p).entries = []) (h : pumpUnit r q s = t) : pump r s = t := by
  have hd : pumpDw r queueDepth s = s := pumpDw_empty (hs 4 hq.symm)
  have stay (p : Fin 5) (hp : p ≠ q) : pumpUnit r p s = s := pumpUnit_empty (hs p hp)
  have done (p : Fin 5) : pumpUnit r p t = t := pumpUnit_empty (ht p)
  match q with
  | 0 => simp [pump, hd, h, done]
  | 1 => simp [pump, hd, stay 0, h, done]
  | 2 => simp [pump, hd, stay 0, stay 1, h, done]
  | 3 => simp [pump, hd, stay 0, stay 1, stay 2, h]
  | 4 => exact absurd rfl hq

/-- A Steward that waits for nothing and that the Study has not halted does not issue again. -/
theorem retry_nothing {r : RoomId} {s : State} (w : (s.room r).stew.waiting = .nothing) (h : (s.room r).stew.held = false) :
    retry r s = s := by
  simp [retry, w, h]

/-- A room whose queues have gone on until none of them waits has settled. -/
theorem settle_of_pump {r : RoomId} {s t : State} (h : pump r s = t) (ht : ∀ p, ((t.room r).queue p).entries = [])
    (w : (t.room r).stew.waiting = .nothing) (hh : (t.room r).stew.held = false) : settle r s = t := by
  simp [settle, h, retry_nothing w hh, pump_empty ht]

/-- A ready room takes up an instruction and then goes on as far as it can. -/
theorem issue_settle {r : RoomId} {f : Fis} {s t : State} (h : RoomReady s r) (ht : doFis r f s = .ok () t) :
    issue r f s = settle r t := by
  have hc : ¬ (s.room r).stew.codeBase + (s.room r).stew.codeLen ≤ (s.room r).stew.pc := Nat.not_le.mpr h.inCode
  simp [issue, h.can, h.free, issueOne, meetBreakpoint_plain h.plain, takeUp, hc, runOp, ht]

/-! ## The rows of the units -/

/-- The parts of a unit's row fit together: its command issues its instruction, which is taken up in the row's shape, with its checks, for
the queue of its unit, not the Dumbwaiter's; and the immediate bits that the row has leave the predicate and the wait alone. -/
structure UnitRow.Fits (row : UnitRow) : Prop where
  exec_eq : ∀ r u s, exec (row.cmd r u) s = inBlock (issue r (row.fis (row.prep u))) s
  doFis_eq : ∀ r u, doFis r (row.fis u) = unitU r row.queue (row.fis u) u row.shape (row.check r u)
  queue_ne : row.queue ≠ 4
  predOn_prep : ∀ m u, predOn m (row.prep u) = predOn m u
  waitOf_prep : ∀ m u, waitOf m (row.prep u) = waitOf m u

theorem unitRows_fit : ∀ row ∈ unitRows, row.Fits := by
  simp only [unitRows, List.forall_mem_cons, List.not_mem_nil, false_implies, implies_true, and_true]
  and_intros <;> exact ⟨fun _ _ _ => rfl, fun _ _ => rfl, by decide, fun _ _ => rfl, fun _ _ => rfl⟩

/-- The entry that a unit begins is of the instruction that issued. -/
theorem Issues.op {row : UnitRow} {s s1 : State} {r : RoomId} {u : FmtU} {e : QEntry} (h : Issues row s r u e s1) :
    e.op = row.fis (row.prep u) := by
  rw [h.entry]
  rfl

/-! ## From issue to the unit -/

/-- A unit's instruction whose fields, operands and checks pass waits in its queue when that has place. -/
theorem unitU_queued {r : RoomId} {q : Fin 5} {f : Fis} {u : FmtU} {p : UShape} {check : QEntry → Op Unit} {s : State}
    {ra rb rc : List Nat} (shape : p.ok u = true) (pred : predOn (s.room r) u = true)
    (hra : Reads (captureField (s.room r) f u p.ra u.ra) s ra) (hrb : Reads (captureField (s.room r) f u p.rb u.rb) s rb)
    (hrc : Reads (captureField (s.room r) f u p.rc u.rc) s rc) (hck : Reads (check (entryOf s r f u ra rb rc)) s ())
    (place : ((s.room r).queue q).entries.length < queueDepth) (off : s.fld (rreg r Reg.winSampCtl) 0 1 = 0) :
    unitU r q f u p check s = .ok () (s.queued r q (entryOf s r f u ra rb rc)) := by
  have full : ¬ queueDepth ≤ ((s.room r).queue q).entries.length := Nat.not_le.mpr place
  simp only [unitU, shape, Bool.not_true, Bool.false_eq_true, if_false, Op.get_bind_apply, pred, Op.bind_of_ok hra, Op.bind_of_ok hrb,
    Op.bind_of_ok hrc]
  refine (Op.bind_of_ok hck).trans ?_
  simp only [Op.get_bind_apply, full, if_false, Op.modify_apply]
  rw [noteIssue_off (by exact off)]
  simp only [State.modQueue, State.modStew, State.modRoom_modRoom]
  rfl

/-- The queue of an instruction that has issued holds it as its last. -/
@[simp] theorem queued_queue_same (s : State) (r : RoomId) (q : Fin 5) (e : QEntry) : ((s.queued r q e).room r).queue q =
    { ((s.room r).queue q).taking e with entries := ((s.room r).queue q).entries ++ [e] } := by
  simp [State.queued, Room.queue]

theorem queued_queue_ne (s : State) (r : RoomId) {p q : Fin 5} (e : QEntry) (h : p ≠ q) :
    ((s.queued r q e).room r).queue p = (s.room r).queue p := by
  simp [State.queued, Room.queue, vget_set_ne _ _ h]

/-- What a room's Steward is once an instruction has left it. -/
@[simp] theorem queued_stew (s : State) (r : RoomId) (q : Fin 5) (e : QEntry) :
    ((s.queued r q e).room r).stew = { (s.room r).stew.unstall with pc := (s.room r).stew.pc + 8 } := by
  simp [State.queued]

@[simp] theorem begun_queue_same (s : State) (r : RoomId) (q : Fin 5) (e : QEntry) :
    ((s.begun r q e).room r).queue q = (((s.room r).queue q).taking e).begin_ e := by
  simp [State.begun, Room.queue]

theorem begun_queue_ne (s : State) (r : RoomId) {p q : Fin 5} (e : QEntry) (h : p ≠ q) :
    ((s.begun r q e).room r).queue p = (s.room r).queue p := by
  simp [State.begun, Room.queue, vget_set_ne _ _ h]

@[simp] theorem begun_stew (s : State) (r : RoomId) (q : Fin 5) (e : QEntry) :
    ((s.begun r q e).room r).stew = { (s.room r).stew.unstall with pc := (s.room r).stew.pc + 8 } := by
  simp [State.begun]

@[simp] theorem UQueue.begin_entries (x : UQueue) (e : QEntry) : (x.begin_ e).entries = x.entries.tail := by
  unfold UQueue.begin_
  split <;> rfl

/-- No instruction waits in a room after a unit has begun the one that issued. -/
theorem begun_entries {s : State} {r : RoomId} (quiet : (s.room r).quiet) (q : Fin 5) (e : QEntry) (p : Fin 5) :
    (((s.begun r q e).room r).queue p).entries = [] := by
  by_cases hp : p = q
  · subst hp
    simp [UQueue.taking, (quiet p).1]
  · simp [begun_queue_ne s r e hp, (quiet p).1]

/-- The issue of an instruction changes no tally. -/
theorem tallyOk_queued (s : State) (r : RoomId) (q : Fin 5) (e : QEntry) (w : Option (Fin 5 × BitVec 16)) :
    tallyOk ((s.queued r q e).room r) w = tallyOk (s.room r) w := by
  obtain _ | ⟨p, n⟩ := w
  · rfl
  · by_cases hp : p = q
    · subst hp
      simp only [tallyOk, queued_queue_same, UQueue.taking]
    · simp only [tallyOk, queued_queue_ne s r e hp]

/-- The unit of a room in which nothing is under way is free (R77). -/
theorem unitFree_queued {s : State} {r : RoomId} (quiet : (s.room r).quiet) (q : Fin 5) (e : QEntry) :
    unitFree ((s.queued r q e).room r) q e = true := by
  obtain ⟨-, ha, hb⟩ := quiet q
  unfold unitFree
  split
  next h =>
    subst h
    simp [floorFree, slotsMeet, UQueue.taking, ha, hb]
  · simp [UQueue.taking, ha]

/-- A unit that takes up the instruction that has just issued leaves the room as `State.begun` says. -/
theorem begin_queued {s : State} {r : RoomId} (quiet : (s.room r).quiet) (q : Fin 5) (e : QEntry) :
    (s.queued r q e).modQueue r q (fun x => x.begin_ e) = s.begun r q e := by
  have waits : ((s.room r).queues.get q).entries = [] := (quiet q).1
  simp only [State.queued, State.begun, State.modQueue, State.modRoom_modRoom]
  exact State.modRoom_congr (by simp [Room.queue, UQueue.begin_, UQueue.taking, waits])

/-- A unit that is free begins the instruction that waits alone in its queue (R258). -/
theorem pumpUnit_queued {r : RoomId} {q : Fin 5} {e : QEntry} {s t : State} (quiet : (s.room r).quiet)
    (runs : (s.room r).stew.running = true) (wait : tallyOk (s.room r) e.wait = true) (hb : beginUnit r e (s.begun r q e) = .ok () t) :
    pumpUnit r q (s.queued r q e) = unitKept r (s.begun r q e) t := by
  have head : (((s.queued r q e).room r).queue q).entries = [e] := by simp [(quiet q).1]
  have going : ((s.queued r q e).room r).stew.going = true := by simp [Stew.going, Stew.unstall, runs]
  simp only [pumpUnit, head, going, tallyOk_queued, wait, unitFree_queued quiet, Bool.and_self, if_true, begin_queued quiet, hb]

@[simp] theorem unitKept_queue (r : RoomId) (s t : State) (q : Fin 5) : ((unitKept r s t).room r).queue q = (s.room r).queue q := by
  simp [unitKept, Room.queue]

@[simp] theorem unitKept_stew (r : RoomId) (s t : State) : ((unitKept r s t).room r).stew = (s.room r).stew := by
  simp [unitKept]

/-- A unit's instruction that issues in a ready room is begun at once, and the block is then what its unit leaves: the rule from which the
statement about each of them is derived. -/
theorem exec_of_issues {row : UnitRow} {s s1 t : State} {r : RoomId} {u : FmtU} {e : QEntry} (hm : row ∈ unitRows)
    (h : Issues row s r u e s1) (hb : beginUnit r e s1 = .ok () t) : exec (row.cmd r u) s = .next (s.unitDone s1 r t) := by
  obtain ⟨hready, hshape, hpred, hwait, hra, hrb, hrc, he, hck, rfl⟩ := h
  have fits := unitRows_fit row hm
  have runs : (s.room r).stew.running = true := by
    have := hready.can
    simp only [canIssue, Bool.and_eq_true] at this
    exact this.1.2
  have taken : doFis r (row.fis (row.prep u)) s = .ok () (s.queued r row.queue e) := by
    rw [fits.doFis_eq, he]
    exact unitU_queued hshape ((fits.predOn_prep _ _).trans hpred) hra hrb hrc (he ▸ hck) (by simp [(hready.quiet _).1, queueDepth])
      hready.unsampled
  have wait : tallyOk (s.room r) e.wait = true := by
    rw [he]
    exact (congrArg _ (fits.waitOf_prep _ _)).trans hwait
  have begun : pumpUnit r row.queue (s.queued r row.queue e) = unitKept r (s.begun r row.queue e) t :=
    pumpUnit_queued hready.quiet runs wait hb
  have rest (p) : (((unitKept r (s.begun r row.queue e) t).room r).queue p).entries = [] := by
    simpa using begun_entries hready.quiet row.queue e p
  have settled : settle r (s.queued r row.queue e) = unitKept r (s.begun r row.queue e) t :=
    settle_of_pump (pump_one fits.queue_ne (fun p hne => by simp [queued_queue_ne s r e hne, (hready.quiet p).1]) rest begun) rest
      (by simp [Stew.unstall]) (by simp [Stew.unstall, hready.free])
  have issued : issue r (row.fis (row.prep u)) s = unitKept r (s.begun r row.queue e) t := by
    rw [issue_settle hready taken, settled]
  rw [fits.exec_eq, inBlock_up hready.up, sealed, issued]
  rfl

end Sys2Proof.Machine
end

section
/-! The Floor's loads and direct passes (03_floor.md, R54-R62, R69, R78, R79). -/

namespace Sys2Proof.Machine

/-! ## Loads -/

/-- A load puts the rows that it reads in the shadow registers (R57, R58). -/
theorem beginFlLoad_reads {r : RoomId} {u : FmtU} {e : QEntry} {s1 : State} {fmt : Fmt} {row : Nat → List Opd}
    (hf : Reads (floorFmt (.flLoad u) (Desc.ofWords e.ra)) s1 fmt)
    (hr : ∀ p < 32, Reads (loadScaled r (Desc.ofWords e.ra) fmt (if u.imm.getLsbD 0 then 0 else p) 0 16) s1
      (row (if u.imm.getLsbD 0 then 0 else p))) :
    beginFlLoad r u e s1 = .ok () ((if (s1.floor r).shadowFull then s1.orReg (rreg r Reg.flEvent) 2 else s1).modFloor r (fun f =>
      { f with shadow := ⟨some ((Desc.ofWords e.ra).plainInt fmt), (List.range 32).map (fun p => row (if u.imm.getLsbD 0 then 0 else p))⟩,
               shadowFull := true })) := by
  simp only [beginFlLoad, Op.bind_of_ok hf]
  by_cases hb : u.imm.getLsbD 0 = true
  · simp only [hb, if_true] at hr ⊢
    have same : (List.range 32).map (fun _ => row 0) = List.replicate 32 (row 0) := by
      rw [List.map_const', List.length_range]
    rw [same]
    exact Op.bind_of_ok (hr 0 (by decide))
  · simp only [hb] at hr ⊢
    have all : Reads ((List.range 32).mapM (fun p => loadScaled r (Desc.ofWords e.ra) fmt p 0 16)) s1 ((List.range 32).map row) :=
      Reads.mapM (fun p hp => hr p (List.mem_range.mp hp))
    exact Op.bind_of_ok all

theorem floorLoadFillsTheShadow : Says.FloorLoadFillsTheShadow := by
  intro s s1 r u e fmt row h d hf hr s2
  refine exec_of_issues (row := flLoadRow) (by simp [unitRows]) h ?_
  have op : e.op = .flLoad u := h.op
  simpa only [beginUnit, op] using beginFlLoad_reads hf hr

/-! ## Passes -/

/-- A row in the normal form is summed against each post's weights (R54). -/
theorem passRows_normal {r : RoomId} {a : Desc} {fmt : Fmt} {n cols k0 i : Nat} {t : Tile} {integer : Bool} {xs : List Opd} {s : State}
    (h : Reads (loadScaled r a fmt i 0 n) s xs) :
    passRows r a fmt 0 n t integer cols k0 [i] s = .ok [(i, normalRow t integer xs cols k0)] s := by
  simp only [passRows, if_true, List.mapM_cons, List.mapM_nil, bind_assoc, Op.bind_of_ok h]
  rfl

/-- A run in the window form is summed window by window (R79). -/
theorem passRows_window {r : RoomId} {a : Desc} {fmt : Fmt} {shift n cols k0 i : Nat} {t : Tile} {integer : Bool} {xs : List Opd} {s : State}
    (hs : shift ≠ 0) (ho : min a.rows cols ≠ 0) (h : Reads (loadScaled r a fmt i 0 (min n ((min a.rows cols - 1) * shift + 16))) s xs) :
    passRows r a fmt shift n t integer cols k0 [i] s = .ok [(i, windowRow t integer shift xs (min a.rows cols) k0)] s := by
  simp only [passRows, hs, ho, if_false, List.mapM_cons, List.mapM_nil, bind_assoc, Op.bind_of_ok h]
  rfl

theorem floorRowsAreSums : Says.FloorRowsAreSums := by
  intro s r a fmt shift n t integer cols k0 i xs
  refine ⟨fun hs h => ?_, fun hs ho h => passRows_window hs ho h⟩
  subst hs
  exact passRows_normal h

/-- A pass takes the tile that is next, which is then the one at rest (R60). -/
theorem takeTile_eq (r : RoomId) (s : State) :
    takeTile r s = .ok (s.floor r).nextTile (s.modFloor r (fun f => { f with rest := f.nextTile, shadowFull := false })) := by
  by_cases h : (s.floor r).shadowFull = true
  · have next : (s.floor r).nextTile = (s.floor r).shadow := if_pos h
    have same : s.modFloor r (fun f => { f with rest := f.nextTile, shadowFull := false }) =
        s.modFloor r (fun f => { f with rest := f.shadow, shadowFull := false }) :=
      State.modRoom_congr (congrArg (fun x => { s.room r with floor := { s.floor r with rest := x, shadowFull := false } }) next)
    simp only [takeTile, Op.get_bind_apply, h, if_true, next, same]
    rfl
  · have next : (s.floor r).nextTile = (s.floor r).rest := if_neg h
    have empty : (s.floor r).shadowFull = false := by simpa using h
    have same : s.modFloor r (fun f => { f with rest := f.nextTile, shadowFull := false }) = s := State.modRoom_self (by
      show { s.room r with floor := { s.floor r with rest := (s.floor r).nextTile, shadowFull := false } } = s.room r
      rw [next, ← empty]
      rfl)
    simp [takeTile, empty, next, same]

/-- A direct pass without a status word records its events and writes its rows converted (R78). -/
theorem runDirect_writes {r : RoomId} {u : FmtU} {e : QEntry} {rows cols : Nat} {live : Option (List Nat)} {out : List RowOut}
    {df : Fmt} {fl : Flags} {s2 s3 s4 : State} (status : (Desc.ofWords e.rb).status = none)
    (hf : Reads ((Desc.ofWords e.rb).format (.flRun u)) s2 df) (hr : recordRows r e.pc (Desc.ofWords e.rb).tag out s2 = .ok () s3)
    (hw : writeRows r e.pc (Desc.ofWords e.rb) df (flSat s2 r) (flMaskDest s2 r) rows cols (out.map (fun o => (o.1, o.2.map Prod.fst))) s3 =
      .ok fl s4) :
    runDirect r u e rows cols live out s2 = .ok () s4 := by
  simp only [runDirect, Op.bind_of_ok hf, Op.get_bind_apply, Op.bind_of_ok hr, Op.bind_of_ok hw, status, putStatus, Op.pure_apply]

theorem floorRunWritesItsResults : Says.FloorRunWritesItsResults := by
  intro s s1 s3 s4 r u e fmt df rows n mask out fl h a b shift cols t fed s2 direct status quarters _ hfmt hform hmask hpass hdf hrec hwrite
  refine exec_of_issues (row := flRunRow) (by simp [unitRows]) h ?_
  have op : e.op = .flRun u := h.op
  have took : (s1.modFloor r (fun f => { f with rest := f.nextTile, shadowFull := false })).modFloor r
      (fun f => { f with form := if shift = 0 then 0 else 1 }) = s2 := State.modRoom_modRoom s1 r _ _
  simp only [beginUnit, op, beginFlRun, direct]
  refine (Op.bind_of_ok hfmt).trans ?_
  refine (Op.get_bind_apply _ _).trans ?_
  refine (Op.bind_of_ok hform).trans ?_
  simp only [quarters, if_true, if_false]
  refine (Op.bind_of_ok hmask).trans ?_
  refine (Op.bind_of_ok (takeTile_eq r s1)).trans ?_
  refine (Op.modify_bind_apply _ _ _).trans ?_
  rw [took]
  refine (Op.bind_of_ok hpass).trans ?_
  exact Op.bind_of_ok (runDirect_writes status hdf hrec hwrite)

/-- Settles O19: each part from what the Floor does when it begins the instruction. -/
theorem floorPassesAreSums : Obligations.FloorPassesAreSums :=
  ⟨floorLoadFillsTheShadow, floorRowsAreSums, floorRunWritesItsResults⟩

end Sys2Proof.Machine
end

section
/-! The Lamp's elementwise functions (06_lamp.md, R135, R136, R144, R383). -/

namespace Sys2Proof.Machine

/-! ## Operands of `lm.eval` -/

/-- `lm.eval` goes on with the table that has been checked and read for a table's code, and with none for a built-in function (R135,
R147-R149). -/
theorem evalTable_bind {r : RoomId} {fn want : Nat} {check : Bool} {s : State} {tab : Option LampTab} {k : Option LampTab → Op Unit}
    (loaded : fn < 8 → ∃ t, tab = some t ∧ Reads (tableCheck r fn check want) s () ∧
      Reads (loadBank r fn (s.fld (rreg r Reg.lmTblt + 4 * fn) 0 1)) s t)
    (built : 8 ≤ fn → tab = none) :
    (if fn < 8 then do
        tableCheck r fn check want
        let bank ← loadBank r fn ((← get).fld (rreg r Reg.lmTblt + 4 * fn) 0 1)
        pure (some bank) >>= k
      else pure none >>= k) s = k tab s := by
  split
  next h =>
    obtain ⟨t, rfl, hc, hl⟩ := loaded h
    rw [Op.bind_of_ok hc, Op.get_bind_apply, Op.bind_of_ok hl, Op.pure_bind_apply]
  next h => rw [built (Nat.not_lt.mp h), Op.pure_bind_apply]

/-- It goes on with the column factors that its block names, and with none where it names none (R268). -/
theorem evalCols_bind {r : RoomId} {w : Option Nat} {n : Nat} {s : State} {cols : List Opd} {k : List Opd → Op Unit}
    (named : ∀ a, w = some a → Reads (loadArray r .f32 a n) s cols) (absent : w = none → cols = []) :
    (match w with
      | some a => loadArray r .f32 a n >>= k
      | none => pure [] >>= k) s = k cols s := by
  cases w with
  | some a => exact Op.bind_of_ok (named a rfl)
  | none => rw [absent rfl]; rfl

/-- What is made of each row of an operand whose rows can be read. -/
theorem scaledRows_reads {β : Type} {r : RoomId} {d : Desc} {df : Fmt} {n m : Nat} {s : State} {xs : Nat → List Opd} {f : Nat → List Opd → β}
    (h : ∀ i < n, Reads (loadScaled r d df i 0 m) s (xs i)) :
    Reads ((List.range n).mapM (fun i => do
        let x ← loadScaled r d df i 0 m
        pure (f i x))) s ((List.range n).map (fun i => f i (xs i))) :=
  Reads.mapM (fun i hi => Op.bind_of_ok (h i (List.mem_range.mp hi)))

/-! ## The instructions -/

theorem evalAppliesItsFunction : Says.EvalAppliesItsFunction := by
  intro s s1 s2 r u e d o df yf tab b ob oa oc cols xs fl h hprep status fn loaded built hb per hob hoa hoc named absent hxs rows flushes hw
  refine exec_of_issues (row := lmEvalRow) (by simp [unitRows]) h ?_
  have op : e.op = .lmEval u := h.op
  simp only [beginUnit, op, beginLmEval]
  refine (Op.bind_of_ok hprep).trans ?_
  refine (evalTable_bind loaded built).trans ?_
  refine (Op.bind_of_ok hb).trans ?_
  refine (Op.bind_of_ok hob).trans ?_
  refine (Op.bind_of_ok hoa).trans ?_
  refine (Op.bind_of_ok hoc).trans ?_
  refine (evalCols_bind named absent).trans ?_
  refine (Op.bind_of_ok (scaledRows_reads hxs)).trans ?_
  refine (Op.bind_of_ok hw).trans ?_
  simp only [status, putStatus]
  rfl

theorem lampRowsAreWritten : Says.LampRowsAreWritten := by
  intro s s2 r e tag o yf sat row i cs hs evs
  have hv : storeVals r yf sat (o.rowAddr i) (row.map Prod.fst) s = .ok (cs.map Prod.snd) s2 := by
    have hc : (row.map Prod.fst).map (convert yf sat) = cs := List.map_map ..
    simp only [storeVals, hc]
    exact Op.bind_of_ok hs
  exact Op.bind_of_ok hv

theorem sincosWritesBoth : Says.SincosWritesBoth := by
  intro s s1 s2 s3 r u e d so co df sf cf xs fs fc h hprep hso hco hxs rows hsin hcos
  refine exec_of_issues (row := lmSincosRow) (by simp [unitRows]) h ?_
  have op : e.op = .lmSincos u := h.op
  have hrows : Reads ((List.range d.rows).mapM (fun i => loadScaled r d df i 0 d.cols)) s1 rows :=
    Reads.mapM (fun i hi => hxs i (List.mem_range.mp hi))
  simp only [beginUnit, op, beginLmSincos]
  refine (Op.bind_of_ok hprep).trans ?_
  refine (Op.bind_of_ok hrows).trans ?_
  refine (Op.bind_of_ok hsin).trans ?_
  refine (Op.bind_of_ok hcos).trans ?_
  simp only [hso, hco, putStatus]
  rfl

/-- Settles O24: each part from what the Lamp does when it begins the instruction. -/
theorem lampEvaluates : Obligations.LampEvaluates := ⟨evalAppliesItsFunction, lampRowsAreWritten, sincosWritesBoth⟩

end Sys2Proof.Machine
end

section
/-! How a unit's instruction waits, stalls, faults and completes (R77, R256-R259, R290), for every row of `unitRows`. -/

namespace Sys2Proof.Machine

/-! ## Rooms in which an instruction waits for its unit -/

/-- A unit that is not free for the first instruction of its queue leaves it there. -/
theorem pumpUnit_waits {r : RoomId} {q : Fin 5} {s : State}
    (h : ∀ x, ((s.room r).queue q).entries.head? = some x → unitFree (s.room r) q x = false) : pumpUnit r q s = s := by
  cases hq : ((s.room r).queue q).entries with
  | nil => exact pumpUnit_empty hq
  | cons x t =>
    have busy : unitFree (s.room r) q x = false := h x (by simp [hq])
    simp [pumpUnit, hq, busy]

/-- No queue goes on when no unit is free for what waits first and nothing waits for the Dumbwaiter. -/
theorem pump_waits {r : RoomId} {s : State} (dw : ((s.room r).queue 4).entries = [])
    (h : ∀ q x, ((s.room r).queue q).entries.head? = some x → unitFree (s.room r) q x = false) : pump r s = s := by
  simp only [pump, pumpDw_empty dw, pumpUnit_waits (h _)]

/-- A unit that is busy for the first of its queue keeps a room from going on whose other queues are empty. -/
theorem pump_waits_one {r : RoomId} {q : Fin 5} {s : State} (hq : q ≠ 4) (others : ∀ p, p ≠ q → ((s.room r).queue p).entries = [])
    (busy : ∀ x, ((s.room r).queue q).entries.head? = some x → unitFree (s.room r) q x = false) : pump r s = s := by
  refine pump_waits (others 4 hq.symm) (fun p x hx => ?_)
  by_cases hp : p = q
  · subst hp
    exact busy x hx
  · simp [others p hp] at hx

/-- A room that may issue takes up the instruction at its PC and then goes on as far as it can. -/
theorem issue_takes {r : RoomId} {f : Fis} {s : State} (can : canIssue s r = true) (free : (s.room r).stew.held = false)
    (plain : roomDebug s r = false) (inCode : (s.room r).stew.pc < (s.room r).stew.codeBase + (s.room r).stew.codeLen) :
    issue r f s = settle r (runOp r (s.room r).stew.pc (doFis r f) s) := by
  simp [issue, can, free, issueOne, meetBreakpoint_plain plain, takeUp, Nat.not_le.mpr inCode]

/-- An instruction that has issued changes nothing about what its unit is free for. -/
theorem unitFree_queued_same (s : State) (r : RoomId) (q : Fin 5) (e x : QEntry) :
    unitFree ((s.queued r q e).room r) q x = unitFree (s.room r) q x := by
  by_cases hq : q = 0
  · subst hq
    simp only [unitFree, if_true, floorFree, queued_queue_same, UQueue.taking]
  · simp only [unitFree, hq, if_false, queued_queue_same, UQueue.taking]

theorem unitInstructionQueues : Says.UnitInstructionQueues := by
  intro row hm s r u ra rb rc up can free plain unsampled inCode others v f e shape pred hra hrb hrc hck busy place
  have fits := unitRows_fit row hm
  have taken : doFis r f s = .ok () (s.queued r row.queue e) := by
    rw [fits.doFis_eq]
    exact unitU_queued shape ((fits.predOn_prep _ _).trans pred) hra hrb hrc hck place unsampled
  have waits : pump r (s.queued r row.queue e) = s.queued r row.queue e := by
    refine pump_waits_one fits.queue_ne (fun p hp => by rw [queued_queue_ne s r e hp, others p hp]) (fun x hx => ?_)
    rw [queued_queue_same] at hx
    rw [unitFree_queued_same, busy x hx]
  have still : settle r (s.queued r row.queue e) = s.queued r row.queue e := by
    simp [settle, waits, retry_nothing (r := r) (s := s.queued r row.queue e) (by simp [Stew.unstall]) (by simp [Stew.unstall, free])]
  have issued : issue r f s = s.queued r row.queue e := by
    simp only [issue_takes can free plain inCode, runOp, taken, still]
  rw [fits.exec_eq, inBlock_up up, sealed, issued]
  rfl

/-! ## Full queues -/

/-- A unit's instruction whose checks pass stalls while its queue is full (R256). -/
theorem unitU_full {r : RoomId} {q : Fin 5} {f : Fis} {u : FmtU} {p : UShape} {check : QEntry → Op Unit} {s : State}
    {ra rb rc : List Nat} (shape : p.ok u = true) (pred : predOn (s.room r) u = true)
    (hra : Reads (captureField (s.room r) f u p.ra u.ra) s ra) (hrb : Reads (captureField (s.room r) f u p.rb u.rb) s rb)
    (hrc : Reads (captureField (s.room r) f u p.rc u.rc) s rc) (hck : Reads (check (entryOf s r f u ra rb rc)) s ())
    (full : queueDepth ≤ ((s.room r).queue q).entries.length) :
    unitU r q f u p check s = .ok () (s.stalled r .queueFull f) := by
  simp only [unitU, shape, Bool.not_true, Bool.false_eq_true, if_false, Op.get_bind_apply, pred, Op.bind_of_ok hra, Op.bind_of_ok hrb,
    Op.bind_of_ok hrc]
  refine (Op.bind_of_ok hck).trans ?_
  simp only [Op.get_bind_apply, full, if_true]
  rfl

/-- An `fl.mode` of a shift and a ppg that can be set passes its checks (R63, R79, R83). -/
theorem checkFlMode_ok {u : FmtU} (s : State) (shift : FmtU.field u 2 5 ≤ 16) (lo : 1 ≤ FmtU.field u 7 3) (hi : FmtU.field u 7 3 ≤ 6) :
    Reads (checkFlMode u) s () := by
  have legal : ¬ (16 < FmtU.field u 2 5 ∨ FmtU.field u 7 3 = 0 ∨ FmtU.field u 7 3 = 7) := by omega
  simp [Reads, checkFlMode, legal]

/-- What a stall leaves of its room. -/
@[simp] theorem stalled_room (s : State) (r : RoomId) (c : Stall) (f : Fis) : (s.stalled r c f).room r =
    { s.room r with stew := { (s.room r).stew with stall := c, waiting := .again f,
                                                   stallFrom := if (s.room r).stew.stall = .none then winCycles s r else (s.room r).stew.stallFrom } } :=
  State.modStew_room s r _

/-- An instruction that stalls again for the same cause changes nothing. -/
theorem stalled_stalled {s : State} {r : RoomId} {c : Stall} {f : Fis} (h : c ≠ .none) :
    (s.stalled r c f).stalled r c f = s.stalled r c f := by
  simp [State.stalled, h]

/-- A stalled instruction of a room that is ON and not halted by the Study issues again. -/
theorem retry_again {r : RoomId} {f : Fis} {s : State} (on : (s.room r).on = true) (free : (s.room r).stew.held = false)
    (w : (s.room r).stew.waiting = .again f) : retry r s = runOp r (s.room r).stew.pc (doFis r f) s := by
  simp [retry, on, free, w]

/-- A room in which an instruction stalls and stalls again as it is tried again, and in which no queue goes on, has settled. -/
theorem settle_stalled {r : RoomId} {f : Fis} {t : State} (on : (t.room r).on = true) (free : (t.room r).stew.held = false)
    (w : (t.room r).stew.waiting = .again f) (again : doFis r f t = .ok () t) (waits : pump r t = t) : settle r t = t := by
  simp [settle, waits, retry_again on free w, runOp, again]

theorem fullQueueStalls : Says.FullQueueStalls := by
  intro s r u up can free plain _ inCode others busy full shape pred shift lo hi
  have stalls (a : State) (ha : predOn (a.room r) u = true) (hl : ((a.room r).queue 0).entries.length = 16) :
      doFis r (.flMode u) a = .ok () (a.stalled r .queueFull (.flMode u)) :=
    unitU_full (check := fun _ => checkFlMode u) shape ha rfl rfl rfl (checkFlMode_ok a shift lo hi) (Nat.le_of_eq hl.symm)
  let t := s.stalled r .queueFull (.flMode u)
  have queue (p : Fin 5) : (t.room r).queue p = (s.room r).queue p := by simp [t, Room.queue]
  have again : doFis r (.flMode u) t = .ok () t := by
    rw [stalls t (by simpa [t, predOn] using pred) (by rw [queue, full]), stalled_stalled (by decide)]
  have waits : pump r t = t := by
    refine pump_waits_one (q := 0) (by decide) (fun p hp => by rw [queue, others p hp]) (fun x hx => ?_)
    rw [queue] at hx
    simpa [unitFree, queue] using busy x hx
  have on : (t.room r).on = true := by
    simp only [canIssue, Bool.and_eq_true] at can
    simpa [t, Room.on] using can.1.1
  have settled : settle r t = t := settle_stalled on (by simpa [t] using free) (by simp [t]) again waits
  have issued : issue r (.flMode u) s = t := by
    rw [issue_takes can free plain inCode]
    simp only [runOp, stalls s pred full]
    exact settled
  refine ⟨sealed (issue r (.flMode u)) s, inBlock_up up, ?_⟩
  have room : (sealed (issue r (.flMode u)) s).room r = t.room r := by rw [State.room_eq (sealed_rooms _ _), issued]
  rw [room, sealed_regs, issued]
  exact ⟨by simp [t], by simp [t], by simp [t], rfl⟩

/-! ## Completion -/

@[simp] theorem modQueue_room (s : State) (r : RoomId) (q : Fin 5) (f : UQueue → UQueue) : (s.modQueue r q f).room r =
    { s.room r with queues := (s.room r).queues.set q (f ((s.room r).queues.get q)) } := State.modRoom_room s r _

@[simp] theorem modQueue_modQueue (s : State) (r : RoomId) (q : Fin 5) (f g : UQueue → UQueue) :
    (s.modQueue r q f).modQueue r q g = s.modQueue r q (fun x => g (f x)) := by
  simp [State.modQueue]

/-- Changes of a queue that make the same of it as it is are the same. -/
theorem modQueue_congr {s : State} {r : RoomId} {q : Fin 5} {f g : UQueue → UQueue} (h : f ((s.room r).queue q) = g ((s.room r).queue q)) :
    s.modQueue r q f = s.modQueue r q g :=
  State.modRoom_congr (congrArg (fun x => { s.room r with queues := (s.room r).queues.set q x }) h)

@[simp] theorem UQueue.end_entries (x : UQueue) (d : Bool) : (x.end_ d).entries = x.entries := by
  cases d <;> rfl
@[simp] theorem UQueue.end_posts (x : UQueue) (d : Bool) : (x.end_ d).posts = x.posts := by
  cases d <;> rfl
@[simp] theorem UQueue.end_tally (x : UQueue) (d : Bool) : (x.end_ d).tally = x.tally := by
  cases d <;> rfl

/-- A sampler with nothing that awaits completion writes no record. -/
theorem sampleDone_none {r : RoomId} {w : Option (Fin 5 × Nat)} {s : State} (h : (s.room r).sampler.awaiting = []) :
    sampleDone r w s = s := by
  simp [sampleDone, h]

/-- The tally takes in a complete instruction that leads the posting ones, and stops at one that is not complete (R258). -/
theorem countPosts_lead {id : Nat} {rest : List (Nat × Bool)} (n : BitVec 16) (h : ∀ p ∈ rest, p.2 = false) :
    countPosts ((id, true) :: rest) n = (rest, n + 1) := by
  cases rest with
  | nil => rfl
  | cons p t =>
    obtain ⟨k, b⟩ := p
    have hb : b = false := h (k, b) List.mem_cons_self
    subst hb
    rfl

/-- Of posting instructions with the one that completes in front, the completion marks that one. -/
theorem markPosts_lead {id : Nat} {rest : List (Nat × Bool)} (h : ∀ p ∈ rest, p.1 ≠ id) :
    ((id, false) :: rest).map (fun p => if p.1 = id then (p.1, true) else p) = (id, true) :: rest := by
  have same : rest.map (fun p => if p.1 = id then (p.1, true) else p) = rest :=
    (List.map_congr_left (fun p hp => if_neg (h p hp))).trans (List.map_id rest)
  simp [same]

/-- An instruction that leads the posting ones leaves them as it completes, and the tally counts it (R258, R259). -/
theorem finishEntry_lead {r : RoomId} {q : Fin 5} {id : Nat} {rest : List (Nat × Bool)} {s : State}
    (posts : ((s.room r).queue q).posts = (id, false) :: rest) (others : ∀ p ∈ rest, p.1 ≠ id ∧ p.2 = false)
    (sampler : (s.room r).sampler.awaiting = []) :
    finishEntry r q id s = s.modQueue r q (fun x => { x with posts := rest, tally := x.tally + 1 }) := by
  have counted : s.modQueue r q (fun x =>
      let (posts, tally) := countPosts (x.posts.map (fun p => if p.1 = id then (p.1, true) else p)) x.tally
      { x with posts := posts, tally := tally }) = s.modQueue r q (fun x => { x with posts := rest, tally := x.tally + 1 }) :=
    modQueue_congr (by
      simp only [posts, markPosts_lead (fun p hp => (others p hp).1), countPosts_lead _ (fun p hp => (others p hp).2)])
  rw [finishEntry, counted]
  exact sampleDone_none (by simpa using sampler)

theorem unitInstructionCompletes : Says.UnitInstructionCompletes := by
  intro s r u e rest up ending idle waiting stepping sampler posts others
  let q := Machine.unitOf u
  let t := s.modQueue r q (fun x => { x.end_ (u == .drain) with posts := rest, tally := x.tally + 1 })
  have finished : finishEntry r q e.id (s.modQueue r q (fun x => x.end_ (u == .drain))) = t := by
    rw [finishEntry_lead (by simpa [Room.queue] using posts) others (by simpa using sampler)]
    simp [t]
  have empty (p : Fin 5) : ((t.room r).queue p).entries = [] := by
    by_cases hp : p = q
    · subst hp
      simpa [t, Room.queue] using idle q
    · simpa [t, Room.queue, vget_set_ne _ _ hp] using idle p
  have settled : settle r t = t := by
    have tried : retry r t = t := by simp [retry, t, waiting, stepping]
    simp [settle, pump_empty empty, tried]
  have completed : unitComplete r u s = t := by
    simp only [unitComplete, ending]
    exact (congrArg (settle r) finished).trans settled
  show inBlock (unitComplete r u) s = _
  rw [inBlock_up up, sealed_eq (by simp [completed, t]) (by simp [completed, t]), completed]

/-! ## Faults -/

/-- A fault stops its room's Steward, which waits for nothing, and leaves the rest of the room (R290). -/
@[simp] theorem raise_room (r : RoomId) (pc : Nat) (x : Err) (s : State) : (raise r pc x s).room r =
    { s.room r with stew := { (s.room r).stew with running := false, stall := .none, waiting := .nothing } } :=
  State.modStew_room s r (fun w => { w with running := false, stall := .none, waiting := .nothing })

theorem Issues.running {row : UnitRow} {s s1 : State} {r : RoomId} {u : FmtU} {e : QEntry} (h : Issues row s r u e s1) :
    (s.room r).stew.running = true := by
  have := h.ready.can
  simp only [canIssue, Bool.and_eq_true] at this
  exact this.1.2

/-- The wait that the entry carries has been met. -/
theorem Issues.entry_wait {row : UnitRow} {s s1 : State} {r : RoomId} {u : FmtU} {e : QEntry} (hm : row ∈ unitRows)
    (h : Issues row s r u e s1) : tallyOk (s.room r) e.wait = true := by
  rw [h.entry]
  exact (congrArg _ ((unitRows_fit row hm).waitOf_prep _ _)).trans h.wait

/-- A unit's instruction that issues in a ready room enters its unit's queue. -/
theorem Issues.doFis_eq {row : UnitRow} {s s1 : State} {r : RoomId} {u : FmtU} {e : QEntry} (hm : row ∈ unitRows)
    (h : Issues row s r u e s1) : doFis r (row.fis (row.prep u)) s = .ok () (s.queued r row.queue e) := by
  have fits := unitRows_fit row hm
  rw [fits.doFis_eq, h.entry]
  exact unitU_queued h.shape ((fits.predOn_prep _ _).trans h.pred) h.ra h.rb h.rc (h.entry ▸ h.check)
    (by simp [(h.ready.quiet _).1, queueDepth]) h.ready.unsampled

/-- A unit whose instruction faults as it begins it raises the fault and has nothing under way (R290). -/
theorem pumpUnit_faults {r : RoomId} {q : Fin 5} {e : QEntry} {x : Err} {s t : State} (quiet : (s.room r).quiet)
    (runs : (s.room r).stew.running = true) (wait : tallyOk (s.room r) e.wait = true) (hb : beginUnit r e (s.begun r q e) = .error x t) :
    pumpUnit r q (s.queued r q e) = raise r e.pc x (t.modQueue r q (fun y => y.end_ e.isDrain)) := by
  have head : (((s.queued r q e).room r).queue q).entries = [e] := by simp [(quiet q).1]
  have going : ((s.queued r q e).room r).stew.going = true := by simp [Stew.going, Stew.unstall, runs]
  simp only [pumpUnit, head, going, tallyOk_queued, wait, unitFree_queued quiet, Bool.and_self, if_true, begin_queued quiet, hb]

theorem unitInstructionFaults : Says.UnitInstructionFaults := by
  intro row hm s s1 s2 r u e x h hb s3 quiet free
  have fits := unitRows_fit row hm
  let t := raise r e.pc x s3
  have faulted : pumpUnit r row.queue (s.queued r row.queue e) = t :=
    pumpUnit_faults h.ready.quiet h.running (h.entry_wait hm) (h.begun ▸ hb)
  have rest (p : Fin 5) : ((t.room r).queue p).entries = [] := by simpa [t, Room.queue] using (quiet p).1
  have settled : settle r (s.queued r row.queue e) = t :=
    settle_of_pump (pump_one fits.queue_ne (fun p hp => by simp [queued_queue_ne s r e hp, (h.ready.quiet p).1]) rest faulted) rest
      (by simp [t]) (by simpa [t] using free)
  have issued : issue r (row.fis (row.prep u)) s = t := by rw [issue_settle h.ready (h.doFis_eq hm), settled]
  rw [fits.exec_eq, inBlock_up h.ready.up, sealed, issued]
  rfl

/-! ## Status words -/

/-- A room's registers of different offsets are different registers. -/
theorem rreg_ne {r : RoomId} {a b : Nat} (h : a ≠ b) : rreg r a ≠ rreg r b := fun e => h (Nat.add_left_cancel e)

theorem statusWordsTrap : Says.StatusWordsTrap := by
  intro s s1 r a t stored s2 trap
  have kept {k : Nat} (ne : k ≠ Reg.roomNumStatus) : s2.reg (rreg r k) = s1.reg (rreg r k) := State.reg_setReg_ne _ _ (rreg_ne ne)
  have put : putStatus r (some a) t s = (if trap then throw ⟨.numericTrap, [(s1.reg (rreg r Reg.roomExcInfo)).toNat,
      (s1.reg (rreg r Reg.roomExcRow)).toNat, (s1.reg (rreg r Reg.roomExcK)).toNat, (s1.reg (rreg r Reg.roomExcPc)).toNat]⟩
      else pure () : Op Unit) s2 := by
    rw [← kept (k := Reg.roomExcInfo) (by decide), ← kept (k := Reg.roomExcRow) (by decide),
      ← kept (k := Reg.roomExcK) (by decide), ← kept (k := Reg.roomExcPc) (by decide)]
    simp only [trap, State.fld, ← kept (k := Reg.roomExcCtl) (by decide)]
    exact Op.bind_of_ok stored
  exact ⟨fun h => by rw [put, if_neg h]; rfl, fun h => by rw [put, if_pos h]; rfl⟩

/-! ## The statement -/

theorem unitInstructionBegins : Says.UnitInstructionBegins := fun _ hm _ _ _ _ _ _ h hb => exec_of_issues hm h hb

/-- Settles O17: each part from how an instruction goes from its issue through its unit's queue. -/
theorem unitsTakeTheirInstructions : Obligations.UnitsTakeTheirInstructions :=
  ⟨unitInstructionBegins, unitInstructionQueues, fullQueueStalls, unitInstructionCompletes, unitInstructionFaults, statusWordsTrap⟩

end Sys2Proof.Machine
end

section
/-! The Floor's mode, credits and control registers (R63, R65, R85). -/

namespace Sys2Proof.Machine

/-! ## Fields of registers -/

/-- The bits of a field. -/
theorem testBit_bitsOf (v lo w i : Nat) : (bitsOf v lo w).testBit i = (decide (i < w) && v.testBit (lo + i)) := by
  rw [bitsOf, Nat.testBit_mod_two_pow, Nat.testBit_div_two_pow, Nat.add_comm]

/-- The bits of a number with a field replaced: those of the new value in the field, the old ones elsewhere. -/
theorem testBit_setBits (v lo w x i : Nat) :
    (setBits v lo w x).testBit i = if lo ≤ i ∧ i < lo + w then x.testBit (i - lo) else v.testBit i := by
  have parts : setBits v lo w x = 2 ^ lo * (2 ^ w * (v / 2 ^ (lo + w)) + x % 2 ^ w) + v % 2 ^ lo := by
    rw [setBits, Nat.mul_add, ← Nat.mul_assoc, ← Nat.pow_add, Nat.mul_comm (2 ^ (lo + w)), Nat.mul_comm (2 ^ lo)]
  rw [parts, Nat.testBit_two_pow_mul_add _ (Nat.mod_lt _ (Nat.two_pow_pos lo))]
  split
  next below => simp [below, Nat.not_le.mpr below]
  next h =>
    have le : lo ≤ i := Nat.not_lt.mp h
    rw [Nat.testBit_two_pow_mul_add _ (Nat.mod_lt _ (Nat.two_pow_pos w))]
    split
    next inside => simp [le, inside, (Nat.sub_lt_iff_lt_add' le).mp inside]
    next above =>
      have past : ¬ i < lo + w := fun hi => above ((Nat.sub_lt_iff_lt_add' le).mpr hi)
      have same : i - lo - w + (lo + w) = i := by omega
      simp [past, Nat.testBit_div_two_pow, same]

/-- A field apart from the one that is replaced stays as it is. -/
theorem bitsOf_setBits_apart {v lo w x l n : Nat} (h : l + n ≤ lo ∨ lo + w ≤ l) : bitsOf (setBits v lo w x) l n = bitsOf v l n := by
  refine Nat.eq_of_testBit_eq (fun i => ?_)
  rw [testBit_bitsOf, testBit_bitsOf, testBit_setBits]
  by_cases hi : i < n
  · have apart : ¬ (lo ≤ l + i ∧ l + i < lo + w) := by omega
    simp [apart]
  · simp [hi]

/-- A number of 32 bits has 32 bits after a field within them has been replaced. -/
theorem setBits_lt {v lo w x : Nat} (hv : v < 2 ^ 32) (hw : lo + w ≤ 32) : setBits v lo w x < 2 ^ 32 := by
  refine Nat.lt_pow_two_of_testBit _ (fun i hi => ?_)
  have past : ¬ (lo ≤ i ∧ i < lo + w) := by omega
  rw [testBit_setBits, if_neg past, Nat.testBit_lt_two_pow (Nat.lt_of_lt_of_le hv (Nat.pow_le_pow_right (by decide) hi))]

/-- A register whose field has been set holds the number with that field replaced. -/
theorem toNat_reg_setFld (s : State) {k lo w : Nat} (v : Nat) (h : lo + w ≤ 32) :
    ((s.setFld k lo w v).reg k).toNat = setBits (s.reg k).toNat lo w v := by
  rw [State.setFld, State.reg_setReg_same, BitVec.toNat_ofNat, Nat.mod_eq_of_lt (setBits_lt (s.reg k).isLt h)]

/-- A field reads as it was set. -/
theorem fld_setFld_same (s : State) {k lo w : Nat} (v : Nat) (h : lo + w ≤ 32) : (s.setFld k lo w v).fld k lo w = v % 2 ^ w := by
  rw [State.fld, toNat_reg_setFld s v h, bitsOf_setBits_same]

/-- A field apart from the one that is set reads as before. -/
theorem fld_setFld_apart (s : State) {k lo w l n : Nat} (v : Nat) (h : lo + w ≤ 32) (apart : l + n ≤ lo ∨ lo + w ≤ l) :
    (s.setFld k lo w v).fld k l n = s.fld k l n := by
  rw [State.fld, toNat_reg_setFld s v h, bitsOf_setBits_apart apart, State.fld]

/-- Setting a field leaves every other register alone. -/
theorem reg_setFld_ne (s : State) {k j lo w : Nat} (v : Nat) (h : j ≠ k) : (s.setFld k lo w v).reg j = s.reg j :=
  State.reg_setReg_ne s _ h

/-- A sticky bit that is set leaves every other register alone. -/
theorem reg_orReg_ne (s : State) {k j : Nat} (v : Nat) (h : j ≠ k) : (s.orReg k v).reg j = s.reg j := State.reg_setReg_ne s _ h

/-- Fields of a register that reads as before read as before. -/
theorem fld_congr {a b : State} {k : Nat} (h : a.reg k = b.reg k) (lo w : Nat) : a.fld k lo w = b.fld k lo w := by
  rw [State.fld, State.fld, h]

/-! ## FL_MODE -/

/-- What a unit leaves is what the block is then, when the unit has changed neither its room nor the pins nor the commands that wait. -/
theorem unitDone_eq {s s1 t : State} {r : RoomId} (room : t.room r = s1.room r) (pending : t.pending = s.pending) (pins : t.pins = s.pins) :
    s.unitDone s1 r t = t := by
  have kept : unitKept r s1 t = t := State.modRoom_self (by rw [room])
  rw [State.unitDone, kept, State.sealing, ← pending, ← pins]

theorem floorModeIsSet : Says.FloorModeIsSet := by
  intro s r u h shift lo hi
  let e := entryOf s r (.flMode u) u [] [] []
  have issues : Issues flModeRow s r u e (s.begun r 0 e) :=
    ⟨h.ready, h.shape, h.pred, h.wait, rfl, rfl, rfl, rfl, checkFlMode_ok s shift lo hi, rfl⟩
  refine (exec_of_issues (row := flModeRow) (by simp [unitRows]) issues rfl).trans ?_
  exact congrArg _ (unitDone_eq rfl rfl rfl)

/-! ## Credits -/

/-- A change of a Floor changes no register. -/
theorem reg_modFloor (s : State) (r : RoomId) (f : Floor → Floor) (k : Nat) : (s.modFloor r f).reg k = s.reg k :=
  State.reg_eq (State.modRoom_regs s r _) k

/-- An idle Floor's credits take the limit, and the lowest count is at most the limit (R65). -/
theorem floorIdleNow_idle {r : RoomId} {s : State} (h : ((s.room r).queue 0).busy = false) :
    floorIdleNow r s = (s.setFld (rreg r Reg.flCredit) 16 7 (min (s.fld (rreg r Reg.flCredit) 16 7) (creditLimit s r))).modFloor r
      (fun f => { f with credit := creditLimit s r }) := by
  simp [floorIdleNow, floorBusy, h]

/-- A Floor that is busy changes no count. -/
theorem floorIdleNow_busy {r : RoomId} {s : State} (h : ((s.room r).queue 0).busy = true) : floorIdleNow r s = s := by
  simp [floorIdleNow, floorBusy, h]

theorem floorIdleRestoresCredits : Says.FloorIdleRestoresCredits := by
  intro s r up still
  obtain ⟨he, ha, hb⟩ := still.quiet 0
  have idle := floorIdleNow_idle (r := r) (s := s) (by simp [UQueue.busy, he, ha, hb])
  have room : (floorIdleNow r s).room r = { s.room r with floor := { (s.room r).floor with credit := creditLimit s r } } := by
    rw [idle]
    exact State.modRoom_room _ r _
  have settled : floorComesIdle r s = floorIdleNow r s := settle_still (by
    rw [room]
    exact ⟨still.quiet, still.chans, still.waiting, still.stepping⟩)
  refine ⟨sealed (floorComesIdle r) s, inBlock_up up, ?_⟩
  rw [State.room_eq (sealed_rooms _ _), settled, room]
  exact ⟨rfl, rfl, rfl⟩

/-! ## FL_CTL and FL_CREDIT -/

/-- A write that is served does what its register does, behind a response of 0. -/
theorem write_served {s : State} {c : Ctx} {off : Nat} {k : State → State} (h : Serves s c off true) :
    atPort off (writing c off k) s = .next (sealed (fun s => k (respond 0 s)) s) := by
  rw [atPort_up h.up]
  simp only [sealed, writing, access_served h.takes]

/-- Whether a Floor takes no new quarter_off: it is busy, or some slot of it is open (R85). -/
theorem floorTaken_iff (s : State) (r : RoomId) : (floorBusy s r || (s.room r).floor.slots.any Option.isSome) = true ↔
    ((s.room r).queue 0).busy = true ∨ ∃ i x, (s.room r).floor.slots.get i = some x := by
  have slots : (s.room r).floor.slots.any Option.isSome = true ↔ ∃ i x, (s.room r).floor.slots.get i = some x := by
    simp only [Vector.any_eq_true, Option.isSome_iff_exists]
    exact ⟨fun ⟨i, hi, x, hx⟩ => ⟨⟨i, hi⟩, x, hx⟩, fun ⟨i, x, hx⟩ => ⟨i.val, i.isLt, x, hx⟩⟩
  rw [Bool.or_eq_true, slots, floorBusy]

/-- What a write of FL_CTL does, past its bit 4: nothing where quarter_off is written as it is, a flag where it cannot change, and else the
change (R85). -/
theorem writeFlCtl_cases (r : RoomId) (v : Word) (s : State) :
    let k := rreg r Reg.flCtl
    let s1 := s.setFld k 4 1 (b2n (v.getLsbD 4))
    let taken := ((s.room r).queue 0).busy = true ∨ ∃ i x, (s.room r).floor.slots.get i = some x
    (v.toNat % 16 = s.fld k 0 4 ∧ writeFlCtl r v s = s1) ∨
    (v.toNat % 16 ≠ s.fld k 0 4 ∧ taken ∧ writeFlCtl r v s = s1.orReg (rreg r Reg.flEvent) 1) ∨
    (v.toNat % 16 ≠ s.fld k 0 4 ∧ ¬ taken ∧ writeFlCtl r v s = s1.setFld k 0 4 (v.toNat % 16)) := by
  have low : bitsOf v.toNat 0 4 = v.toNat % 16 := by simp [bitsOf]
  intro k s1 taken
  by_cases same : v.toNat % 16 = s.fld k 0 4
  · exact .inl ⟨same, by simp only [writeFlCtl, low]; exact if_pos same⟩
  · by_cases h : taken
    · exact .inr (.inl ⟨same, h, by simp only [writeFlCtl, low]; exact (if_neg same).trans (if_pos ((floorTaken_iff s r).mpr h))⟩)
    · exact .inr (.inr ⟨same, h, by simp only [writeFlCtl, low]; exact (if_neg same).trans (if_neg (fun n => h ((floorTaken_iff s r).mp n)))⟩)

/-- A write of FL_CTL leaves the response, the rooms and DRAM as they are. -/
theorem writeFlCtl_frame (r : RoomId) (v : Word) (s : State) :
    (writeFlCtl r v s).resp = s.resp ∧ (writeFlCtl r v s).rooms = s.rooms ∧ (writeFlCtl r v s).dram = s.dram := by
  obtain ⟨-, h⟩ | ⟨-, -, h⟩ | ⟨-, -, h⟩ := writeFlCtl_cases r v s <;> rw [h] <;> exact ⟨rfl, rfl, rfl⟩

/-- Of the registers it changes FL_CTL and FL_EVENT alone. -/
theorem writeFlCtl_reg_ne {r : RoomId} {k : Nat} (v : Word) (s : State) (ctl : k ≠ rreg r Reg.flCtl) (event : k ≠ rreg r Reg.flEvent) :
    (writeFlCtl r v s).reg k = s.reg k := by
  obtain ⟨-, h⟩ | ⟨-, -, h⟩ | ⟨-, -, h⟩ := writeFlCtl_cases r v s
  · rw [h, reg_setFld_ne _ _ ctl]
  · rw [h, reg_orReg_ne _ _ event, reg_setFld_ne _ _ ctl]
  · rw [h, reg_setFld_ne _ _ ctl, reg_setFld_ne _ _ ctl]

theorem flCtl_ne_flEvent (r : RoomId) : rreg r Reg.flCtl ≠ rreg r Reg.flEvent := rreg_ne (by decide)

/-- Bit 4 of FL_CTL is written as it is. -/
theorem writeFlCtl_bit4 (r : RoomId) (v : Word) (s : State) : (writeFlCtl r v s).fld (rreg r Reg.flCtl) 4 1 = b2n (v.getLsbD 4) := by
  have bit : (s.setFld (rreg r Reg.flCtl) 4 1 (b2n (v.getLsbD 4))).fld (rreg r Reg.flCtl) 4 1 = b2n (v.getLsbD 4) := by
    rw [fld_setFld_same s _ (by decide)]
    cases v.getLsbD 4 <;> rfl
  obtain ⟨-, h⟩ | ⟨-, -, h⟩ | ⟨-, -, h⟩ := writeFlCtl_cases r v s
  · rw [h, bit]
  · rw [h, fld_congr (reg_orReg_ne _ _ (flCtl_ne_flEvent r)), bit]
  · rw [h, fld_setFld_apart _ _ (by decide) (by decide), bit]

/-- The write of bit 4 leaves quarter_off and FL_EVENT. -/
theorem setBit4_keeps (r : RoomId) (b : Nat) (s : State) :
    (s.setFld (rreg r Reg.flCtl) 4 1 b).fld (rreg r Reg.flCtl) 0 4 = s.fld (rreg r Reg.flCtl) 0 4 ∧
    (s.setFld (rreg r Reg.flCtl) 4 1 b).reg (rreg r Reg.flEvent) = s.reg (rreg r Reg.flEvent) :=
  ⟨fld_setFld_apart s b (by decide) (by decide), reg_setFld_ne s b (flCtl_ne_flEvent r).symm⟩

/-- An idle Floor with no slot open takes the new quarter_off. -/
theorem writeFlCtl_idle {r : RoomId} {s : State} (v : Word) (busy : ((s.room r).queue 0).busy = false)
    (slots : ∀ i, (s.room r).floor.slots.get i = none) : (writeFlCtl r v s).fld (rreg r Reg.flCtl) 0 4 = v.toNat % 16 ∧
      (writeFlCtl r v s).reg (rreg r Reg.flEvent) = s.reg (rreg r Reg.flEvent) := by
  obtain ⟨quarters, event⟩ := setBit4_keeps r (b2n (v.getLsbD 4)) s
  obtain ⟨same, h⟩ | ⟨-, taken, -⟩ | ⟨-, -, h⟩ := writeFlCtl_cases r v s
  · rw [h, quarters, event, same]
    exact ⟨rfl, rfl⟩
  · simp [busy, slots] at taken
  · rw [h, fld_setFld_same _ _ (by decide), reg_setFld_ne _ _ (flCtl_ne_flEvent r).symm, event]
    exact ⟨Nat.mod_mod _ _, rfl⟩

/-- A Floor that is busy or has a slot open keeps quarter_off, and a write that would change it is flagged. -/
theorem writeFlCtl_taken {r : RoomId} {s : State} (v : Word)
    (taken : ((s.room r).queue 0).busy = true ∨ ∃ i x, (s.room r).floor.slots.get i = some x) :
    (writeFlCtl r v s).fld (rreg r Reg.flCtl) 0 4 = s.fld (rreg r Reg.flCtl) 0 4 ∧ (writeFlCtl r v s).reg (rreg r Reg.flEvent) =
      (if v.toNat % 16 = s.fld (rreg r Reg.flCtl) 0 4 then s.reg (rreg r Reg.flEvent) else s.reg (rreg r Reg.flEvent) ||| 1) := by
  obtain ⟨quarters, event⟩ := setBit4_keeps r (b2n (v.getLsbD 4)) s
  obtain ⟨same, h⟩ | ⟨changes, -, h⟩ | ⟨-, free, -⟩ := writeFlCtl_cases r v s
  · rw [h, if_pos same]
    exact ⟨quarters, event⟩
  · rw [h, if_neg changes, fld_congr (reg_orReg_ne _ _ (flCtl_ne_flEvent r)), State.orReg, State.reg_setReg_same, event]
    exact ⟨quarters, rfl⟩
  · exact absurd taken free

/-- The limit that a write of FL_CREDIT sets, as it acts. -/
theorem creditLimit_setFld (s : State) (r : RoomId) (v : Word) :
    creditLimit (s.setFld (rreg r Reg.flCredit) 0 7 (bitsOf v.toNat 0 7)) r = max 1 (min 64 (v.toNat % 128)) := by
  simp [creditLimit, fld_setFld_same, bitsOf]

/-- A write of FL_CREDIT sets the limit, and changes no other register and no other room (R65). -/
theorem writeFlCredit_frame (r : RoomId) (v : Word) (s : State) : let t := writeFlCredit r v s
    t.resp = s.resp ∧ t.dram = s.dram ∧ t.fld (rreg r Reg.flCredit) 0 7 = v.toNat % 128 ∧
      (∀ k, k ≠ rreg r Reg.flCredit → t.reg k = s.reg k) ∧ ∀ q, q ≠ r → t.room q = s.room q := by
  let s1 := s.setFld (rreg r Reg.flCredit) 0 7 (bitsOf v.toNat 0 7)
  have limit : s1.fld (rreg r Reg.flCredit) 0 7 = v.toNat % 128 := by
    simp [s1, fld_setFld_same, bitsOf]
  have others (k) (h : k ≠ rreg r Reg.flCredit) : s1.reg k = s.reg k := reg_setFld_ne s _ h
  cases busy : ((s1.room r).queue 0).busy with
  | true =>
    rw [writeFlCredit, floorIdleNow_busy busy]
    exact ⟨rfl, rfl, limit, others, fun _ _ => rfl⟩
  | false =>
    rw [writeFlCredit, floorIdleNow_idle busy]
    refine ⟨rfl, rfl, ?_, fun k h => ?_, fun q hq => State.modRoom_room_ne _ _ hq⟩
    · rw [fld_congr (reg_modFloor _ _ _ _), fld_setFld_apart s1 _ (by decide) (by decide), limit]
    · rw [reg_modFloor, reg_setFld_ne s1 _ h, others k h]

/-- While the Floor is busy no credit count changes (R65). -/
theorem writeFlCredit_busy {r : RoomId} {s : State} (v : Word) (h : ((s.room r).queue 0).busy = true) :
    (writeFlCredit r v s).rooms = s.rooms := by
  rw [writeFlCredit, floorIdleNow_busy (by exact h)]
  rfl

/-- An idle Floor's credits take the new limit at once (R65). -/
theorem writeFlCredit_idle {r : RoomId} {s : State} (v : Word) (h : ((s.room r).queue 0).busy = false) :
    ((writeFlCredit r v s).room r).floor.credit = max 1 (min 64 (v.toNat % 128)) := by
  rw [writeFlCredit, floorIdleNow_idle (by exact h), creditLimit_setFld]
  exact congrArg (fun m => m.floor.credit) (State.modRoom_room _ r _)

theorem floorRegistersAreWritten : Says.FloorRegistersAreWritten := by
  intro s c r v
  constructor
  · intro h
    refine ⟨sealed (fun s => writeFlCtl r v (respond 0 s)) s, write_served h, ?_⟩
    obtain ⟨resp, rooms, dram⟩ := writeFlCtl_frame r v (respond 0 s)
    exact ⟨resp, rooms, dram, fun k => writeFlCtl_reg_ne v (respond 0 s),
      writeFlCtl_bit4 r v (respond 0 s), writeFlCtl_idle (s := respond 0 s) v, writeFlCtl_taken (s := respond 0 s) v⟩
  · intro h
    refine ⟨sealed (fun s => writeFlCredit r v (respond 0 s)) s, write_served h, ?_⟩
    obtain ⟨resp, dram, limit, regs, rooms⟩ := writeFlCredit_frame r v (respond 0 s)
    exact ⟨resp, dram, limit, regs, rooms, writeFlCredit_busy (s := respond 0 s) v, writeFlCredit_idle (s := respond 0 s) v⟩

/-- Settles O18: FL_MODE from what the Floor does with `fl.mode`, its credits and FL_CTL from their rules R65 and R85. -/
theorem floorModeAndCredits : Obligations.FloorModeAndCredits :=
  ⟨floorModeIsSet, floorIdleRestoresCredits, floorRegistersAreWritten⟩

end Sys2Proof.Machine
end

section
/-! Passes into accumulation slots of the Floor, and their drains (03_floor.md, R73-R84, R93, R381). -/

namespace Sys2Proof.Machine

/-! ## Slots -/

/-- A pass that names a closed slot opens it, when its partials' format is that of the accumulator (R73). -/
theorem claimSlot_opens {r : RoomId} {f : Fis} {k : Fin 8} {d : Desc} {integer thin : Bool} {s : State}
    (hf : Reads (d.format f) s (if integer then .int32 else .f32)) (hk : (s.floor r).slots.get k = none) :
    Reads (claimSlot r f k d integer thin) s (newSlot (flMode s r) d integer thin, true) := by
  unfold Reads claimSlot
  refine (Op.get_bind_apply _ _).trans ((Op.bind_of_ok hf).trans ?_)
  cases integer <;> simp [hk]

/-- A slot that is opened has room for a pass's groups (R74). -/
theorem checkGroups_ok {f : Fis} {sl : Slot} {n : Nat} {s : State} (h : sl.passes + n ≤ 4096 * sl.ppg) : Reads (checkGroups f sl n) s () := by
  simp [Reads, checkGroups, Nat.not_lt.mpr h]

/-- A slot that a pass opens without a mask is as the pass opens it (R70). -/
theorem slotMasks_unmasked {r : RoomId} {f : Fis} {a : Desc} {rows : Nat} {k : Fin 8} {sl : Slot} {s : State} (h : a.mask = none) :
    Reads (slotMasks r f a rows [(k, sl, true)]) s [(k, sl)] := by
  simp only [Reads, slotMasks, readMask, h]
  rfl

/-- The first pass of a group's first row stores the row's results as partials (R74). -/
theorem accumRow_first {r : RoomId} {pc tile : Nat} {sl : Slot} {o : RowOut} {s t : State} (hv : (o.2.map Prod.fst).take sl.cols ≠ [])
    (hs : storeRaws r (if sl.integer then .int32 else .f32) (sl.rowAddr 0 o.1) (((o.2.map Prod.fst).take sl.cols).map (partRaw sl.integer)) s =
      .ok () t) : accumRow r pc tile sl 0 o s = .ok {} t := by
  simp only [accumRow, Nat.zero_div, Nat.zero_mod, List.isEmpty_eq_false_iff.mpr hv, and_self, if_true, Bool.false_eq_true, if_false]
  exact Op.bind_of_ok hs

/-- An operation for each of one thing is the operation for it. -/
theorem Op.forM_one {α : Type} (x : α) (f : α → Op Unit) : [x].forM f = f x := bind_pure_unit

/-- A slot that a pass opens has no group. -/
theorem newSlot_groups (mode : Nat) (d : Desc) (integer thin : Bool) : (newSlot mode d integer thin).groups = 0 := Nat.zero_div _

/-- A slot that its first row enters holds the passes with the row's flags. -/
theorem accumulate_first {r : RoomId} {pc tile : Nat} {key : Fin 8} {sl : Slot} {o : RowOut} {passes : Nat} {fl : Flags} {s t : State}
    (hv : (o.2.map Prod.fst).take sl.cols ≠ [])
    (hs : storeRaws r (if sl.integer then .int32 else .f32) (sl.rowAddr 0 o.1) (((o.2.map Prod.fst).take sl.cols).map (partRaw sl.integer)) s =
      .ok () t) :
    accumulate r pc tile key sl [(0, [o])] passes fl true s =
      .ok () (t.setFlSlot r key (some { sl with passes := sl.passes + passes, flags := sl.flags.or (fl.or {}), allMasked := false })) := by
  simp only [accumulate, List.mapM_cons, List.mapM_nil, bind_assoc, pure_bind]
  refine (Op.bind_of_ok (accumRow_first hv hs)).trans ?_
  simp

/-! ## `fl.run` -/

/-- An `fl.run` that names one slot, which is closed, opens it (R73). -/
theorem runSlots_opens {r : RoomId} {u : FmtU} {e : QEntry} {integer : Bool} {s : State} (one : u.imm.getLsbD 3 = false)
    (hf : Reads ((Desc.ofWords e.rb).format (.flRun u)) s (if integer then .int32 else .f32))
    (hk : (s.floor r).slots.get (slotOne u) = none) (ppg : 1 ≤ (newSlot (flMode s r) (Desc.ofWords e.rb) integer false).ppg) :
    Reads (runSlots r u e integer) s [(slotOne u, newSlot (flMode s r) (Desc.ofWords e.rb) integer false, true)] := by
  simp only [Reads, runSlots]
  refine (Op.bind_of_ok (claimSlot_opens hf hk)).trans ?_
  refine (Op.bind_of_ok (checkGroups_ok (by simp only [newSlot] at ppg ⊢; omega))).trans ?_
  simp only [one, Bool.false_eq_true, if_false, Op.pure_apply]

/-- A slot without a mask feeds every row. -/
theorem fedRows_unmasked {rows : Nat} {sl : Slot} (h : sl.masked = false) : fedRows rows [sl] = List.range rows := by
  simp [fedRows, Slot.feeds, h]

/-- A pass of one row into a slot that has no mask and no pass yet stores the row in it (R73, R74). -/
theorem runIntoSlots_first {r : RoomId} {e : QEntry} {key : Fin 8} {sl : Slot} {o : RowOut} {s2 s3 s4 : State} (unmasked : sl.masked = false)
    (fresh : sl.passes = 0) (hv : (o.2.map Prod.fst).take sl.cols ≠ []) (hr : recordRows r e.pc (Desc.ofWords e.rb).tag [o] s2 = .ok () s3)
    (hs : storeRaws r (if sl.integer then .int32 else .f32) (sl.rowAddr 0 o.1) (((o.2.map Prod.fst).take sl.cols).map (partRaw sl.integer)) s3 =
      .ok () s4) :
    runIntoSlots r e [(key, sl)] [o] s2 =
      .ok () (s4.setFlSlot r key (some { sl with passes := 1, flags := sl.flags.or ((outFlags [o]).or {}), allMasked := false })) := by
  have own : sl.own [o] = [o] := by simp [Slot.own, Slot.takes, unmasked]
  have stored := accumulate_first (pc := e.pc) (tile := (Desc.ofWords e.rb).tag) (key := key) (passes := 1) (fl := outFlags [o]) hv hs
  simp only [runIntoSlots, Op.forM_one, own, fresh]
  rw [fresh] at stored
  exact (Op.bind_of_ok hr).trans stored

theorem floorRunOpensASlot : Says.FloorRunOpensASlot := by
  intro s s1 s3 s4 r u e fmt n xs h a b k t integer sl s2 res intoSlot one normal row nomask quarters closed ppg nonempty hfmt hform hpart hxs hrec hst
  refine exec_of_issues (row := flRunRow) (by simp [unitRows]) h ?_
  have op : e.op = .flRun u := h.op
  have took : (s1.modFloor r (fun f => { f with rest := f.nextTile, shadowFull := false })).modFloor r
      (fun f => { f with form := 0 }) = s2 := State.modRoom_modRoom s1 r _ _
  simp only [beginUnit, op, beginFlRun, intoSlot]
  refine (Op.bind_of_ok hfmt).trans ?_
  refine (Op.get_bind_apply _ _).trans ?_
  simp only [normal]
  refine (Op.bind_of_ok hform).trans ?_
  simp only [quarters, if_true, if_false, Bool.false_eq_true]
  refine (Op.bind_of_ok (runSlots_opens one hpart (closed k) ppg)).trans ?_
  refine (Op.bind_of_ok (slotMasks_unmasked nomask)).trans ?_
  refine (Op.bind_of_ok (takeTile_eq r s1)).trans ?_
  refine (Op.modify_bind_apply _ _ _).trans ?_
  rw [took]
  change (passRows r a fmt 0 n t integer (min b.cols 32) (16 * sl.groups) [0] >>= fun out => do
    runIntoSlots r e [(k, sl)] out
    notePass r 1 0 (mostFed 0 1 a.rows (enabledQuarters s1 r))) s2 = _
  have k0 : 16 * sl.groups = 0 := congrArg _ (newSlot_groups ..)
  rw [k0]
  refine (Op.bind_of_ok (passRows_normal hxs)).trans ?_
  exact Op.bind_of_ok (runIntoSlots_first rfl rfl nonempty hrec hst)

/-! ## `fl.thin` -/

/-- An `fl.thin` that names one slot, which is closed, opens it; no load has more groups than a slot takes (R73, R74). -/
theorem thinSlots_opens {r : RoomId} {u : FmtU} {e : QEntry} {integer : Bool} {groups : Nat} {s : State} (one : u.imm.getLsbD 3 = false)
    (few : groups ≤ 4096) (hf : Reads ((Desc.ofWords e.rc).format (.flThin u)) s (if integer then .int32 else .f32))
    (hk : (s.floor r).slots.get (slotOne u) = none) :
    Reads (thinSlots r u e integer groups) s [(slotOne u, newSlot (flMode s r) (Desc.ofWords e.rc) integer true, true)] := by
  simp only [Reads, thinSlots]
  refine (Op.bind_of_ok (claimSlot_opens hf hk)).trans ?_
  refine (Op.bind_of_ok (checkGroups_ok (Nat.le_trans (Nat.le_of_eq (Nat.zero_add _)) (Nat.mul_le_mul_right _ few)))).trans ?_
  simp only [one, Bool.false_eq_true, if_false, Op.pure_apply]

/-- The form of an `fl.thin` that can be read is the one its descriptors give (R82, R381). -/
theorem thinForm_reads {f : Fis} {a b : Desc} {s : State} {m k n : Nat} (h : Reads (thinForm f a b) s (m, k, n)) : a.w3 = k := by
  unfold Reads thinForm at h
  split at h
  · cases h
  · injection h with h
    injection h with _ h
    injection h

/-- A load of at most 16 elements is one group (R381). -/
theorem thinGroups_one {a : Desc} (lo : 1 ≤ a.w3) (hi : a.w3 ≤ 16) : thinGroups a = 1 := by
  simp only [thinGroups, ceilDiv]
  omega

/-- A load of one group of one row into a slot that has no mask and no pass yet stores the row in it, and is ppg passes of it (R80, R83). -/
theorem thinIntoSlot_first {r : RoomId} {pc tile : Nat} {key : Fin 8} {sl : Slot} {out : List RowOut} {o : RowOut} {s t : State} (one : out = [o])
    (unmasked : sl.masked = false) (fresh : sl.passes = 0) (hv : (o.2.map Prod.fst).take sl.cols ≠ [])
    (hs : storeRaws r (if sl.integer then .int32 else .f32) (sl.rowAddr 0 o.1) (((o.2.map Prod.fst).take sl.cols).map (partRaw sl.integer)) s =
      .ok () t) :
    [(key, sl)].forM (fun x =>
        let own := [out].map x.2.own
        accumulate r pc tile x.1 x.2 (own.zipIdx.map (fun p => ((x.2.groups + p.2) * x.2.ppg, p.1))) (1 * x.2.ppg)
          (own.foldl (fun f o => f.or (outFlags o)) {}) (own.any (fun o => !o.isEmpty))) s =
      .ok () (t.setFlSlot r key (some { sl with passes := sl.ppg, flags := sl.flags.or ((outFlags [o]).or {}), allMasked := false })) := by
  subst one
  have own : [[o]].map sl.own = [[o]] := by simp [Slot.own, Slot.takes, unmasked]
  have first : (sl.groups + 0) * sl.ppg = 0 := by simp [Slot.groups, fresh]
  have stored := accumulate_first (pc := pc) (tile := tile) (key := key) (passes := 1 * sl.ppg) (fl := outFlags [o]) hv hs
  rw [Op.forM_one]
  simp only [own, List.zipIdx_cons, List.zipIdx_nil, List.map_cons, List.map_nil, first]
  rw [fresh, Nat.zero_add, Nat.one_mul] at stored
  rw [Nat.one_mul]
  exact stored

theorem floorThinOpensASlot : Says.FloorThinOpensASlot := by
  intro s s1 s3 s4 r u e fa fb k xs ws h a b c key integer sl s2 res one nomask lo hi row quarters closed ppg nonempty hfa hfb hform hpart hxs hws hrec hst
  refine exec_of_issues (row := flThinRow) (by simp [unitRows]) h ?_
  have op : e.op = .flThin u := h.op
  have width : a.w3 = k := thinForm_reads hform
  have groups : thinGroups a = 1 := thinGroups_one (width ▸ lo) (width ▸ hi)
  have activation : Reads ([0].mapM (fun i => do pure (i, ← loadScaled r a fa i 0 k))) s2 [(0, xs)] := by
    simp only [Reads, List.mapM_cons, List.mapM_nil, bind_assoc, Op.bind_of_ok hxs]
    rfl
  have weights : Reads ((List.range b.rows).mapM (fun j => loadScaled r b fb j 0 k)) s2 ((List.range b.rows).map ws) :=
    Reads.mapM (fun j hj => hws j (List.mem_range.mp hj))
  have sums : thinGroup integer sl.groups [(0, xs)] ((List.range b.rows).map ws) 0 = [(0, res)] := by
    simp only [thinGroup, newSlot_groups, sl, res, List.map_map]
    rfl
  have recorded : [thinGroup integer sl.groups [(0, xs)] ((List.range b.rows).map ws) 0].forM (recordRows r e.pc c.tag) s2 = .ok () s3 := by
    rw [Op.forM_one, sums, hrec]
  simp only [beginUnit, op, beginFlThin]
  refine (Op.bind_of_ok hfa).trans ?_
  refine (Op.bind_of_ok hfb).trans ?_
  refine (Op.bind_of_ok hform).trans ?_
  refine (Op.get_bind_apply _ _).trans ?_
  simp only [quarters, ne_eq, not_true_eq_false, if_false]
  rw [show thinGroups (Desc.ofWords e.ra) = 1 from groups]
  refine (Op.bind_of_ok (thinSlots_opens one (by decide) hpart closed)).trans ?_
  refine (Op.bind_of_ok (slotMasks_unmasked nomask)).trans ?_
  refine (congrFun (if_pos rfl) s1).trans ?_
  refine (Op.modify_bind_apply _ _ _).trans ?_
  refine (Op.bind_of_ok activation).trans ?_
  refine (Op.bind_of_ok weights).trans ?_
  refine (Op.bind_of_ok recorded).trans ?_
  exact Op.bind_of_ok (thinIntoSlot_first sums rfl rfl nonempty hst)

/-! ## `fl.drain` -/

/-- The results of a row of a slot whose span partials can be read (R77, R93). -/
theorem drainRow_reads {r : RoomId} {sl : Slot} {i : Nat} {s : State} {parts : Nat → List Nat}
    (h : ∀ sp ∈ List.range sl.spans, Reads (loadRaws r (if sl.integer then .int32 else .f32) (sl.rowAddr sp i) sl.cols) s (parts sp)) :
    Reads (drainRow r sl i) s (i, (List.range sl.cols).map (fun c =>
      combineSpans sl.integer ((List.range sl.spans).map (fun sp => (parts sp).getD c 0)))) := by
  have spans : Reads ((List.range sl.spans).mapM (fun sp => loadRaws r (if sl.integer then .int32 else .f32) (sl.rowAddr sp i) sl.cols)) s
      ((List.range sl.spans).map parts) := Reads.mapM h
  refine (Op.bind_of_ok spans).trans ?_
  simp only [List.map_map]
  rfl

theorem floorDrainClosesTheSlot : Says.FloorDrainClosesTheSlot := by
  intro s s1 s2 s3 r u e fmt sl parts fl h d k spans out status slot hf hparts hrec hwrite
  refine exec_of_issues (row := flDrainRow) (by simp [unitRows]) h ?_
  have op : e.op = .flDrain u := h.op
  have rows : Reads ((if sl.cols = 0 then [] else sl.feeds sl.rows).mapM (drainRow r sl)) s1 out := by
    refine Reads.mapM (fun i hi => drainRow_reads (hparts i ?_))
    split at hi
    · cases hi
    · exact hi
  simp only [beginUnit, op, beginFlDrain]
  refine (Op.bind_of_ok hf).trans ?_
  refine (Op.get_bind_apply _ _).trans ?_
  simp only [show (s1.floor r).slots.get (Fin.ofNat 8 u.imm.toNat) = _ from slot]
  refine (Op.bind_of_ok rows).trans ?_
  refine (Op.bind_of_ok hrec).trans ?_
  refine (Op.bind_of_ok hwrite).trans ?_
  refine (Op.modify_bind_apply _ _ _).trans ?_
  rw [show (Desc.ofWords e.ra).status = none from status]
  rfl

/-- Settles O20: each part from what the Floor does when it begins the instruction. -/
theorem floorSlotsGatherPartials : Obligations.FloorSlotsGatherPartials :=
  ⟨floorRunOpensASlot, floorThinOpensASlot, floorDrainClosesTheSlot⟩

end Sys2Proof.Machine
end

section
/-! The Lamp's statistics, reductions and banks (04_accumulation.md, 06_lamp.md; R93, R97, R145, R150, R384). -/

namespace Sys2Proof.Machine

/-! ## `lm.stat` -/

/-- `lm.stat` goes on with the mask that its descriptor names, and with none where it names none (R150). -/
theorem statMask_bind {r : RoomId} {d : Desc} {s : State} {bytes : List Byte} {k : Option (List Byte) → Op Unit}
    (named : ∀ a, d.mask = some a → Reads (loadAt r a (ceilDiv d.rows 8)) s bytes) :
    (match d.mask with
      | some a => do
        let m ← loadAt r a (ceilDiv d.rows 8)
        pure (some m) >>= k
      | none => pure none >>= k) s = k (if d.mask.isSome then some bytes else none) s := by
  cases h : d.mask with
  | some a => exact Op.bind_of_ok (named a h)
  | none => rfl

/-- What is made of each row when only the live ones can be read: one that is not live has no element. -/
theorem liveRows_reads {β : Type} {r : RoomId} {d : Desc} {df : Fmt} {n m : Nat} {s : State} {l live : List Nat} {xs : Nat → List Opd}
    {f : List Opd → β} (hl : l = live) (h : ∀ i ∈ live, Reads (loadScaled r d df i 0 m) s (xs i)) :
    Reads ((List.range n).mapM (fun i =>
        if l.contains i then do
          let x ← loadScaled r d df i 0 m
          pure (f x)
        else do
          let x ← pure []
          pure (f x))) s ((List.range n).map (fun i => f (if live.contains i then xs i else []))) := by
  subst hl
  refine Reads.mapM (fun i _ => ?_)
  split
  next hi => exact Op.bind_of_ok (h i (List.contains_iff_mem.mp hi))
  next => rfl

theorem statisticsOfRows : Says.StatisticsOfRows := by
  intro s s1 s2 r u e d o df yf bytes b xs fs h hprep status kind named live hb hxs rows hw
  refine exec_of_issues (row := lmStatRow) (by simp [unitRows]) h ?_
  have op : e.op = .lmStat u := h.op
  simp only [beginUnit, op, beginLmStat]
  refine (Op.bind_of_ok hprep).trans ?_
  refine (statMask_bind named).trans ?_
  refine (Op.bind_of_ok hb).trans ?_
  refine (Op.bind_of_ok (liveRows_reads (by cases hm : d.mask <;> simp [live, hm]) hxs)).trans ?_
  refine (Op.bind_of_ok hw).trans ?_
  simp only [status, putStatus]
  rfl

/-! ## `lm.red` -/

/-- An instruction without a status word ends with its events recorded. -/
theorem endsRecorded {r : RoomId} {addr : Option Nat} {t : TileStatus} {g : State → State} {s : State} (h : addr = none) :
    ((modify g : Op Unit) >>= fun _ => putStatus r addr t) s = .ok () (g s) := by
  subst h
  rfl

theorem reductionOfParts : Says.ReductionOfParts := by
  intro s s1 s2 r u e d o yf h hprep status p seen
  have op : e.op = .lmRed u := h.op
  have ends {z : State} (hb : beginLmRed r u e s1 = .ok () z) : exec (.lmRed r u) s = .next (s.unitDone s1 r z) :=
    exec_of_issues (row := lmRedRow) (by simp [unitRows]) h (by simpa only [beginUnit, op] using hb)
  have start {k : Desc × Desc × Fmt → Op Unit} : (redPrep r u e >>= k) s1 = k (d, o, yf) s1 := Op.bind_of_ok hprep
  refine ⟨fun bs triples hbs hst => ends ?_, fun xs triples integer hxs hst => ends ?_,
    fun xs triples integer hxs cv hst => ends ?_⟩
  · simp only [beginLmRed, triples, if_true]
    exact start.trans ((Op.bind_of_ok hbs).trans ((Op.bind_of_ok hst).trans (endsRecorded status)))
  · simp only [beginLmRed, triples, integer, if_true, Bool.false_eq_true, if_false]
    exact start.trans ((Op.bind_of_ok hxs).trans ((Op.bind_of_ok hst).trans (endsRecorded status)))
  · simp only [beginLmRed, triples, integer, Bool.false_eq_true, if_false]
    exact start.trans ((Op.bind_of_ok hxs).trans ((Op.bind_of_ok hst).trans (endsRecorded status)))

/-! ## `lm.swap` -/

/-- A table's configuration register after a swap to bank `b`: that bank active, loaded and not written, in the next epoch (R145). -/
def tableSwapped (s : State) (k b : Nat) : State :=
  (((s.setFld k 0 1 b).setFld k 1 1 1).setFld k 2 1 0).setFld k 16 16 (s.fld k 16 16 + 1)

/-- `lm.swap` of a table whose inactive bank is sound makes that bank active (R145, R147, R149). -/
theorem beginLmSwap_sound {r : RoomId} {u : FmtU} {e : QEntry} {s : State} {tab : LampTab} :
    let k := rreg r Reg.lmTblt + 4 * FmtU.field u 0 3
    let b := 1 - s.fld k 0 1
    loadBank r (FmtU.field u 0 3) b s = .ok tab s → tab.ok = true → beginLmSwap r u e s = .ok () (tableSwapped s k b) := by
  intro k b hload sound
  refine (Op.bind_of_ok hload).trans ?_
  simp only [sound, Bool.not_true, Bool.false_eq_true, if_false]
  rfl

theorem tableSwapped_active (s : State) (k : Nat) {b : Nat} (h : b < 2) : (tableSwapped s k b).fld k 0 1 = b := by
  rw [tableSwapped, fld_setFld_apart _ _ (by decide) (by decide), fld_setFld_apart _ _ (by decide) (by decide),
    fld_setFld_apart _ _ (by decide) (by decide)]
  exact (fld_setFld_same _ _ (by decide)).trans (Nat.mod_eq_of_lt h)

theorem tableSwapped_loaded (s : State) (k b : Nat) : (tableSwapped s k b).fld k 1 1 = 1 := by
  rw [tableSwapped, fld_setFld_apart _ _ (by decide) (by decide), fld_setFld_apart _ _ (by decide) (by decide)]
  exact fld_setFld_same _ 1 (by decide)

theorem tableSwapped_written (s : State) (k b : Nat) : (tableSwapped s k b).fld k 2 1 = 0 := by
  rw [tableSwapped, fld_setFld_apart _ _ (by decide) (by decide)]
  exact fld_setFld_same _ 0 (by decide)

theorem tableSwapped_epoch (s : State) (k b : Nat) : (tableSwapped s k b).fld k 16 16 = (s.fld k 16 16 + 1) % 2 ^ 16 :=
  fld_setFld_same _ _ (by decide)

theorem tableSwapped_reg_ne (s : State) {k j : Nat} (b : Nat) (h : j ≠ k) : (tableSwapped s k b).reg j = s.reg j := by
  simp only [tableSwapped, reg_setFld_ne _ _ h]

theorem lampSwapMakesTheOtherBankActive : Says.LampSwapMakesTheOtherBankActive := by
  intro s r u tab h k b s1 hload sound
  let e := entryOf s r (.lmSwap u) u [] [] []
  have issues : Issues lmSwapRow s r u e s1 := ⟨h.ready, h.shape, h.pred, h.wait, rfl, rfl, rfl, rfl, rfl, rfl⟩
  have begun : beginUnit r e s1 = .ok () (tableSwapped s1 k b) := beginLmSwap_sound (e := e) hload sound
  have swapped : exec (.lmSwap r u) s = .next (tableSwapped s1 k b) :=
    (exec_of_issues (row := lmSwapRow) (by simp [unitRows]) issues begun).trans (congrArg _ (unitDone_eq rfl rfl rfl))
  have bit : b < 2 := Nat.lt_succ_of_le (Nat.sub_le 1 _)
  have lamp : ((tableSwapped s1 k b).room r).lamp = (s.room r).lamp := by
    show ((s.begun r 2 e).room r).lamp = _
    simp [State.begun]
  exact ⟨_, swapped, tableSwapped_active s1 k bit, tableSwapped_loaded s1 k b, tableSwapped_written s1 k b,
    tableSwapped_epoch s1 k b, fun _ hne => tableSwapped_reg_ne s1 b hne, lamp⟩

/-- Settles O25: each part from what the Lamp does when it begins the instruction. -/
theorem lampReducesAndSwaps : Obligations.LampReducesAndSwaps :=
  ⟨statisticsOfRows, reductionOfParts, lampSwapMakesTheOtherBankActive⟩

end Sys2Proof.Machine
end

section
/-! Rows of the Stair under their masks, and the instructions that update a state row by row (05_stair.md, R110, R111, R114, R116, R117). -/

namespace Sys2Proof.Machine

/-! ## Immediate bits that a row has -/

/-- The bits of an immediate that a row gives read as the row gives them. -/
theorem getLsbD_withImm {u : FmtU} {lo w v i : Nat} (fits : lo + w ≤ 24) (above : lo ≤ i) (below : i < lo + w) :
    (withImm u lo w v).imm.getLsbD i = v.testBit (i - lo) := by
  have bit : i < 24 := Nat.lt_of_lt_of_le below fits
  rw [withImm, BitVec.getLsbD_ofNat, testBit_setBits, if_pos ⟨above, below⟩, decide_eq_true bit, Bool.true_and]

/-- A field of an immediate that a row gives reads as the row gives it. -/
theorem field_withImm {u : FmtU} {lo w v : Nat} (fits : lo + w ≤ 24) : FmtU.field (withImm u lo w v) lo w = v % 2 ^ w := by
  refine Nat.eq_of_testBit_eq (fun i => ?_)
  rw [FmtU.field, testBit_bitsOf, Nat.testBit_mod_two_pow, BitVec.testBit_toNat]
  by_cases h : i < w
  · rw [getLsbD_withImm fits (Nat.le_add_right lo i) (Nat.add_lt_add_left h lo), Nat.add_sub_cancel_left]
  · simp [h]

/-! ## Rows under their masks -/

/-- What a row that is not held does with the elements it starts from: it is made from them, and its elements, outputs, counts and
events are written (R110, R113). -/
def makeRow (r : RoomId) (e : QEntry) (t : Tensor) (y : Desc) (yf : Fmt) (row : Nat → List El → Op RowMade) (i : Nat) (old : List El) :
    Op Flags := do
  let m ← row i old
  storeState r t i (m.els.map (fun x => x.el))
  let ys ← putOutputs r y yf t.n i m.outs
  modify (fun s => recordEvents r .stair e.pc t.tag i 0 (m.evs ++ ys) (noteStored r m.els s))
  pure (evFlags (m.evs ++ ys))

section
variable {r : RoomId} {e : QEntry} {t : Tensor} {y : Desc} {yf : Fmt} {reset hold i : Nat} {row : Nat → List El → Op RowMade}
  {old : List El} {s s2 s3 : State}

/-- A row that can be made, stored and put out is written, with its counts and events. -/
theorem makeRow_writes {m : RowMade} {ys : List Ev} (made : Reads (row i old) s m)
    (stored : storeState r t i (m.els.map (fun x => x.el)) s = .ok () s2) (out : putOutputs r y yf t.n i m.outs s2 = .ok ys s3) :
    makeRow r e t y yf row i old s =
      .ok (evFlags (m.evs ++ ys)) (recordEvents r .stair e.pc t.tag i 0 (m.evs ++ ys) (noteStored r m.els s3)) :=
  (Op.bind_of_ok made).trans ((Op.bind_of_ok stored).trans (Op.bind_of_ok out))

/-- A held row that is not reset is left alone (R111). -/
theorem maskedRow_keeps (held : bitAt hold i = true) (stays : bitAt reset i = false) :
    maskedRow r e t y yf reset hold row i s = .ok {} s := by
  simp [maskedRow, held, stays]

/-- A held row that is reset takes zeros (R111). -/
theorem maskedRow_clears (held : bitAt hold i = true) (resets : bitAt reset i = true)
    (stored : storeState r t i (List.replicate t.count (0, 0)) (s.count64 (rreg r Reg.scResets) 1) = .ok () s2) :
    maskedRow r e t y yf reset hold row i s = .ok {} s2 := by
  simp only [maskedRow, held, resets, if_true, Op.modify_bind_apply, Op.bind_of_ok stored, Op.pure_apply]

/-- A row that is neither held nor reset is made from its elements (R110). -/
theorem maskedRow_updates (live : bitAt hold i = false) (stays : bitAt reset i = false) (read : Reads (loadState r t i) s old) :
    maskedRow r e t y yf reset hold row i s = makeRow r e t y yf row i old s := by
  simp only [maskedRow, live, stays, Bool.false_eq_true, if_false]
  exact Op.bind_of_ok read

/-- A row that is reset and not held is made from zeros (R111). -/
theorem maskedRow_restarts (live : bitAt hold i = false) (resets : bitAt reset i = true) :
    maskedRow r e t y yf reset hold row i s =
      makeRow r e t y yf row i (List.replicate t.count (0, 0)) (s.count64 (rreg r Reg.scResets) 1) := by
  simp only [maskedRow, live, resets, Bool.false_eq_true, if_true, if_false]
  rfl

/-- An instruction whose output has no status word ends with its rows. -/
theorem maskedRows_writes {fs : List Flags} (status : y.status = none)
    (rows : (List.range t.rows).mapM (maskedRow r e t y yf reset hold row) s = .ok fs s2) :
    maskedRows r e t y yf reset hold row s = .ok () s2 := by
  refine (Op.bind_of_ok rows).trans ?_
  rw [status]
  rfl

end

theorem stairRowsAreUpdated : Says.StairRowsAreUpdated := by
  intro s s2 s3 r e t y yf reset hold i row old m ys zeros s1
  exact ⟨maskedRow_keeps, maskedRow_clears,
    fun live stays read made stored out => (maskedRow_updates live stays read).trans (makeRow_writes made stored out),
    fun live resets made stored out => (maskedRow_restarts live resets).trans (makeRow_writes made stored out)⟩

/-! ## `sc.step` -/

/-- A plain or gated `sc.step` whose checks pass and whose masks can be read does its rows. -/
theorem beginScStep_rows {r : RoomId} {u : FmtU} {e : QEntry} {t : Tensor} {xf yf : Fmt} {b : List Nat} {p : StepForm} {reset hold : Nat}
    {fs : List Flags} {gated : Bool} {s1 s2 : State} (form : u.imm.getLsbD 0 = gated) (prep : Reads (stepPrep r u e) s1 (t, xf, yf, b, p))
    (hr : Reads (rowMask r (blockWord b 5)) s1 reset) (hh : Reads (rowMask r (blockWord b 6)) s1 hold)
    (status : (Desc.ofWords e.rc).status = none)
    (rows : (List.range t.rows).mapM (maskedRow r e t (Desc.ofWords e.rc) yf reset hold (stepRow r gated (Desc.ofWords e.rb) xf t b p)) s1 =
      .ok fs s2) : beginScStep r u e s1 = .ok () s2 := by
  subst form
  exact (Op.bind_of_ok prep).trans ((Op.bind_of_ok hr).trans ((Op.bind_of_ok hh).trans (maskedRows_writes status rows)))

/-- The plain and the gated row of `sc.step` issue it with their form in its immediate (R267). -/
theorem scStepRows_form {gated : Bool} {row : UnitRow} (h : row ∈ (if gated then [scStepGatedRow] else [scStepRow])) (u : FmtU) :
    row ∈ unitRows ∧ row.fis (row.prep u) = .scStep (row.prep u) ∧ (row.prep u).imm.getLsbD 0 = gated := by
  cases gated with
  | false =>
    obtain rfl := List.mem_singleton.mp h
    exact ⟨by simp [unitRows], rfl, getLsbD_withImm (by decide) (by decide) (by decide)⟩
  | true =>
    obtain rfl := List.mem_singleton.mp h
    exact ⟨by simp [unitRows], rfl, getLsbD_withImm (by decide) (by decide) (by decide)⟩

theorem stepUpdatesItsRows : Says.StepUpdatesItsRows := by
  intro s s1 s2 r u e t xf yf b p reset hold fs x y status hr hh
  refine ⟨fun gated row mem h prep rows => ?_, fun i old as xs ds bs cs dd has hxs => ⟨?_, fun hds hbs hcs hdd => ?_⟩⟩
  · obtain ⟨hm, fis, form⟩ := scStepRows_form mem u
    have op : e.op = .scStep (row.prep u) := h.op.trans fis
    exact exec_of_issues hm h (by simpa only [beginUnit, op] using beginScStep_rows form prep hr hh status rows)
  · exact (Op.bind_of_ok has).trans (Op.bind_of_ok hxs)
  · exact (Op.bind_of_ok has).trans ((Op.bind_of_ok hxs).trans ((Op.bind_of_ok hds).trans ((Op.bind_of_ok hbs).trans
      ((Op.bind_of_ok hcs).trans (Op.bind_of_ok hdd)))))

/-! ## `sc.modal`, `sc.fir` and `sc.ema` -/

theorem filtersUpdateTheirRows : Says.FiltersUpdateTheirRows := by
  intro s s1 s2 r u e t xf yf b a reset hold ws cs xs dd fs old i x y n row
  refine ⟨fun h status prep hr hh hws hcs hdd rows => ?_, fun h status prep hws rows => ?_, fun h status prep hws rows => ?_,
    fun hxs => ⟨Op.bind_of_ok hxs, Op.bind_of_ok hxs, Op.bind_of_ok hxs⟩⟩
  · have op : e.op = .scModal u := h.op
    have begun : beginScModal r u e s1 = .ok () s2 :=
      (Op.bind_of_ok prep).trans ((Op.bind_of_ok hr).trans ((Op.bind_of_ok hh).trans ((Op.bind_of_ok hws).trans ((Op.bind_of_ok hcs).trans
        ((Op.bind_of_ok hdd).trans (maskedRows_writes status rows))))))
    exact exec_of_issues (row := scModalRow) (by simp [unitRows]) h (by simpa only [beginUnit, op] using begun)
  · have op : e.op = .scFir u := h.op
    have begun : beginScFir r u e s1 = .ok () s2 :=
      (Op.bind_of_ok prep).trans ((Op.bind_of_ok hws).trans (maskedRows_writes status rows))
    exact exec_of_issues (row := scFirRow) (by simp [unitRows]) h (by simpa only [beginUnit, op] using begun)
  · have op : e.op = .scEma u := h.op
    have begun : beginScEma r u e s1 = .ok () s2 :=
      (Op.bind_of_ok prep).trans ((Op.bind_of_ok hws).trans (maskedRows_writes status rows))
    exact exec_of_issues (row := scEmaRow) (by simp [unitRows]) h (by simpa only [beginUnit, op] using begun)

/-- Settles O21: a row from what its masks make of it, and each instruction from what the Stair does when it begins it. -/
theorem stairUpdatesItsRows : Obligations.StairUpdatesItsRows := ⟨stairRowsAreUpdated, stepUpdatesItsRows, filtersUpdateTheirRows⟩

end Sys2Proof.Machine
end

section
/-! The phases of `sc.chunk` (05_stair.md, R120, R121, R123). -/

namespace Sys2Proof.Machine

/-- The phase of `sc.chunk` is the one that its row gives. -/
theorem phase_withImm (u : FmtU) {k : Nat} (h : k < 2 ^ 2) : FmtU.field (withImm u 0 2 k) 0 2 = k :=
  (field_withImm (by decide)).trans (Nat.mod_eq_of_lt h)

/-- The prep phase goes on with the marks of its positions, of which there is none where no mask is named (R119). -/
theorem chunkMarks_bind {r : RoomId} {w : Option Nat} {n m : Nat} {s : State} {k : Nat → Op Unit}
    (h : Reads (match w with | some a => loadNat r a 32 | none => pure 0) s m) :
    (match w with
      | some a => do
        let v ← loadNat r a 32
        pure (v % 2 ^ n) >>= k
      | none => pure 0 >>= k) s = k (m % 2 ^ n) s := by
  cases w with
  | some a => exact Op.bind_of_ok h
  | none =>
    obtain rfl : 0 = m := by simpa [Reads] using h
    rw [Nat.zero_mod]
    rfl

/-- The prep phase writes its workspace, position by position of each head, and counts its marks (R120, R123). -/
theorem beginPrep_writes {r : RoomId} {u : FmtU} {e : QEntry} {t : Tensor} {b : List Nat} {p : StepForm} {c : Chunk} {m : Nat}
    {all bs g : List Opd} {fs : List (List Flags)} {s1 s2 : State} (prep : Reads (prepChecks r u e) s1 (t, b, p, c))
    (hm : Reads (match blockWord b 5 with | some a => loadNat r a 32 | none => pure 0) s1 m)
    (hall : Reads (loadArray r .f32 (b.getD 0 0) (c.t * c.heads)) s1 all) (hbs : Reads (loadArray r p.b (b.getD 2 0) (c.t * c.n)) s1 bs)
    (hg : Reads (loadArray r .f32 (b.getD 6 0) (c.t * c.t)) s1 g) (status : t.status = none)
    (rows : (List.range c.heads).mapM (fun h => (List.range c.t).mapM (prepRow r e t c (b.getD 7 0) (m % 2 ^ c.t) all bs g h)) s1 =
      .ok fs s2) :
    beginPrep r u e s1 = .ok () (s2.count64 (rreg r Reg.scResets) ((List.range c.t).filter (fun i => bitAt (m % 2 ^ c.t) i)).length) := by
  refine (Op.bind_of_ok prep).trans ?_
  refine (chunkMarks_bind hm).trans ?_
  refine (Op.bind_of_ok hall).trans ?_
  refine (Op.bind_of_ok hbs).trans ?_
  refine (Op.bind_of_ok hg).trans ?_
  exact (Op.bind_of_ok rows).trans (endsRecorded status)

/-- The carry phase puts out its positions from the state, which it does not store (R120). -/
theorem beginCarry_writes {r : RoomId} {u : FmtU} {e : QEntry} {t : Tensor} {xf yf : Fmt} {b : List Nat} {p : StepForm} {c : Chunk}
    {old : List El} {lams : List Opd} {dd : Option (List Opd)} {fs : List Flags} {s1 s2 : State}
    (prep : Reads (carryChecks r u e) s1 (t, xf, yf, b, p, c)) (state : Reads (loadState r t 0) s1 old)
    (hlams : Reads (loadArray r .f32 (c.lamAt (b.getD 7 0)) (c.heads * c.t)) s1 lams) (hdd : Reads (loadMaybe r (blockWord b 4) c.ch) s1 dd)
    (status : (Desc.ofWords e.rc).status = none)
    (rows : (List.range c.t).mapM (carryRow r e t xf yf b p c (old.map (repEl t)) lams dd) s1 = .ok fs s2) :
    beginCarry r u e s1 = .ok () s2 := by
  refine (Op.bind_of_ok prep).trans ?_
  refine (Op.bind_of_ok state).trans ?_
  refine (Op.bind_of_ok hlams).trans ?_
  refine (Op.bind_of_ok hdd).trans ?_
  refine (Op.bind_of_ok rows).trans ?_
  rw [status]
  rfl

/-- The elements that the state phase stores: each from its head's lam of the last position, its old value and p (R120). -/
def chunkEls (t : Tensor) (c : Chunk) (lams ps : List Opd) (old : List El) : List Stored :=
  (List.range (c.ch * c.n)).map (fun i =>
    let z := addTerms (mulTerm (lams.getD (i / c.n / 2 ^ c.k * c.t + (c.t - 1)) noOpd) (repEl t (old.getD i (0, 0))))
      ⟨(ps.getD i noOpd).v, (ps.getD i noOpd).fl⟩
    storeEl t z.1 z.2)

/-- The state phase stores its elements, with their counts and events (R120). -/
theorem beginState_writes {r : RoomId} {u : FmtU} {e : QEntry} {t : Tensor} {b : List Nat} {p : StepForm} {c : Chunk} {lams ps : List Opd}
    {old : List El} {s1 s2 : State} (prep : Reads (stateChecks r u e) s1 (t, b, p, c))
    (hlams : Reads (loadArray r .f32 (c.lamAt (b.getD 7 0)) (c.heads * c.t)) s1 lams)
    (hps : Reads (loadArray r .f32 (b.getD 6 0) (c.ch * c.n)) s1 ps) (state : Reads (loadState r t 0) s1 old) (status : t.status = none)
    (stored : storeState r t 0 ((chunkEls t c lams ps old).map (fun x => x.el)) s1 = .ok () s2) :
    beginState r u e s1 = .ok () (recordEvents r .stair e.pc t.tag 0 0 (elEvs (chunkEls t c lams ps old))
      (noteStored r (chunkEls t c lams ps old) s2)) := by
  refine (Op.bind_of_ok prep).trans ?_
  refine (Op.bind_of_ok hlams).trans ?_
  refine (Op.bind_of_ok hps).trans ?_
  refine (Op.bind_of_ok state).trans ?_
  exact (Op.bind_of_ok stored).trans (endsRecorded status)

theorem chunkPhases : Says.ChunkPhases := by
  intro s s1 s2 r u e t xf yf b p c all bs g lams ps dd old m
  refine ⟨fun fs h status prep hm hall hbs hg rows => ?_, fun fs h status prep state hlams hdd rows => ?_,
    fun h status prep hlams hps state stored => ?_⟩
  · have op : e.op = .scChunk (withImm u 0 2 0) := h.op
    refine exec_of_issues (row := scChunkPrepRow) (by simp [unitRows]) h ?_
    simp only [beginUnit, op, beginScChunk, phase_withImm u (show 0 < 2 ^ 2 by decide)]
    exact beginPrep_writes prep hm hall hbs hg status rows
  · have op : e.op = .scChunk (withImm u 0 2 1) := h.op
    refine exec_of_issues (row := scChunkCarryRow) (by simp [unitRows]) h ?_
    simp only [beginUnit, op, beginScChunk, phase_withImm u (show 1 < 2 ^ 2 by decide)]
    exact beginCarry_writes prep state hlams hdd status rows
  · have op : e.op = .scChunk (withImm u 0 2 2) := h.op
    refine exec_of_issues (row := scChunkStateRow) (by simp [unitRows]) h ?_
    simp only [beginUnit, op, beginScChunk, phase_withImm u (show 2 < 2 ^ 2 by decide)]
    exact beginState_writes prep hlams hps state status stored

theorem chunkCarryForms : Says.ChunkCarryForms := by
  intro s s2 r e t xf yf b p c hs lams xs cs yi dd i ys hxs hcs hyi made out evs
  exact (Op.bind_of_ok hxs).trans ((Op.bind_of_ok hcs).trans ((Op.bind_of_ok hyi).trans (Op.bind_of_ok out)))

/-- Settles O22: each phase from what the Stair does when it begins it, and the carry phase's positions from their operands. -/
theorem stairChunksRun : Obligations.StairChunksRun := ⟨chunkPhases, chunkCarryForms⟩

end Sys2Proof.Machine
end

section
/-! Folds and state images of the Stair (05_stair.md, R113, R125, R126, R128-R131). -/

namespace Sys2Proof.Machine

/-! ## Folds -/

/-- A fold is skipped when it is not due. -/
theorem foldSkips_eq (comp early : Bool) : (!comp || early) = !(comp && !early) := by rw [Bool.not_and, Bool.not_not]

/-- A fold of a state that is not compensated, or not due, does nothing (R125, R126). -/
theorem beginScFold_idle {r : RoomId} {u : FmtU} {e : QEntry} {t : Tensor} {s : State} (prep : Reads (foldPrep r u e) s t)
    (idle : (t.comp && !(u.imm.getLsbD 1 && stepOf s r % foldPeriod s r != 0)) = false) : beginScFold r u e s = .ok () s := by
  refine (Op.bind_of_ok prep).trans ?_
  exact congrFun (if_pos (by rw [foldSkips_eq, idle]; rfl)) s

/-- A fold that is due does its rows and is counted (R125, R126). -/
theorem beginScFold_due {r : RoomId} {u : FmtU} {e : QEntry} {t : Tensor} {fs : List Flags} {s s2 : State}
    (prep : Reads (foldPrep r u e) s t) (due : (t.comp && !(u.imm.getLsbD 1 && stepOf s r % foldPeriod s r != 0)) = true)
    (status : t.status = none) (rows : (List.range t.rows).mapM (foldRow r e t (u.imm.getLsbD 0)) s = .ok fs s2) :
    beginScFold r u e s = .ok () (s2.satFld (rreg r Reg.scFolds) 0 32 1) := by
  refine (Op.bind_of_ok prep).trans ?_
  refine (congrFun (if_neg (by rw [foldSkips_eq, due]; decide)) s).trans ?_
  exact (Op.bind_of_ok rows).trans (endsRecorded status)

theorem foldMakesPairsCanonical : Says.FoldMakesPairsCanonical := by
  intro s s1 s2 r u e t fs h prep due
  have op : e.op = .scFold u := h.op
  have ends {z : State} (hb : beginScFold r u e s1 = .ok () z) : exec (.scFold r u) s = .next (s.unitDone s1 r z) :=
    exec_of_issues (row := scFoldRow) (by simp [unitRows]) h (by simpa only [beginUnit, op] using hb)
  exact ⟨fun idle => ends (beginScFold_idle prep idle), fun hdue status rows => ends (beginScFold_due prep hdue status rows),
    fun i old s3 s4 drop read stored => (Op.bind_of_ok read).trans (Op.bind_of_ok stored)⟩

/-! ## Images that are written -/

theorem exportWritesAnImage : Says.ExportWritesAnImage := by
  intro s s1 s2 s3 r u e t g withRes rows b
  refine ⟨fun h prep status hrows hb stored => ?_, fun i old read => Op.bind_of_ok read⟩
  have op : e.op = .scExport u := h.op
  have begun : beginScExport r u e s1 = .ok () s3 := by
    refine (Op.bind_of_ok prep).trans ?_
    refine (Op.bind_of_ok hrows).trans ?_
    refine (Op.bind_of_ok hb).trans ?_
    refine (Op.bind_of_ok stored).trans ?_
    rw [status]
    rfl
  exact exec_of_issues (row := scExportRow) (by simp [unitRows]) h (by simpa only [beginUnit, op] using begun)

/-! ## Images that are taken or refused -/

/-- A sticky bit that is set reads 1. -/
theorem fld_orReg_bit (s : State) {k v i : Nat} (hi : i < 32) (hv : v.testBit i = true) : (s.orReg k v).fld k i 1 = 1 := by
  have bit : (s.reg k ||| BitVec.ofNat 32 v).toNat.testBit i = true := by
    rw [BitVec.testBit_toNat, BitVec.getLsbD_or, BitVec.getLsbD_ofNat, hv, decide_eq_true hi, Bool.and_self, Bool.or_true]
  rw [State.fld, State.orReg, State.reg_setReg_same]
  simpa [bitsOf, Nat.testBit_eq_decide_div_mod_eq] using bit

/-- The block after an import whose checks answered `code`: what clamped is counted, and SC_EVENT and SC_IMPORT_STATUS have the result
(R113, R130). -/
def importNoted (r : RoomId) (els : List Stored) (code version : Nat) (s : State) : State :=
  let sat := (els.filter (fun x => x.clamp)).length
  ((s.count64 (rreg r Reg.scResidueSat) sat).orReg (rreg r Reg.scEvent) ((if 0 < sat then 1 else 0) + (if code ≠ 0 then 2 else 0))).setReg
    (rreg r Reg.scImportStatus) (BitVec.ofNat 32 (code + version))

@[simp] theorem importNoted_rooms (r : RoomId) (els : List Stored) (code version : Nat) (s : State) :
    (importNoted r els code version s).rooms = s.rooms := rfl

@[simp] theorem importNoted_dram (r : RoomId) (els : List Stored) (code version : Nat) (s : State) :
    (importNoted r els code version s).dram = s.dram := rfl

@[simp] theorem importNoted_status (r : RoomId) (els : List Stored) (code version : Nat) (s : State) :
    (importNoted r els code version s).reg (rreg r Reg.scImportStatus) = BitVec.ofNat 32 (code + version) :=
  State.reg_setReg_same _ _ _

/-- An image that is taken is no rejection. -/
theorem importNoted_taken (r : RoomId) (els : List Stored) (version : Nat) (s : State) : importNoted r els 0 version s =
    ((s.count64 (rreg r Reg.scResidueSat) (els.filter (fun x => x.clamp)).length).orReg (rreg r Reg.scEvent)
      (if 0 < (els.filter (fun x => x.clamp)).length then 1 else 0)).setReg (rreg r Reg.scImportStatus) (BitVec.ofNat 32 version) := by
  rw [importNoted, Nat.zero_add]
  rfl

/-- A rejected image is flagged in SC_EVENT (R130). -/
theorem importNoted_rejected (r : RoomId) (els : List Stored) {code : Nat} (version : Nat) (s : State) (h : code ≠ 0) :
    (importNoted r els code version s).fld (rreg r Reg.scEvent) 1 1 = 1 := by
  rw [importNoted, fld_congr (State.reg_setReg_ne _ _ (rreg_ne (by decide)))]
  refine fld_orReg_bit _ (by decide) ?_
  rw [if_pos h]
  split <;> decide

/-- The elements of an image that is not taken: zeros (R130). -/
def importZeros (t : Tensor) : List Stored := List.replicate (t.rows * t.count) ⟨(0, 0), false, false, {}⟩

/-- No check before the CRC answers 4, the code of a wrong CRC (R130). -/
theorem importCode_ne_four (t : Tensor) (g : Desc) (want : Nat) (h : List Byte) : importCode t g want h ≠ 4 := by
  unfold importCode
  repeat' split
  all_goals decide

section
variable {r : RoomId} {u : FmtU} {e : QEntry} {t : Tensor} {g : Desc} {h payload : List Byte} {s s2 : State}

/-- An image that a check before its CRC refuses leaves the destination (R130). -/
theorem beginScImport_refuses (prep : Reads (importPrep r u e) s (t, g)) (head : Reads (loadAt r g.base 64) s h) (status : t.status = none)
    (bad : importCode t g u.imm.toNat h ≠ 0) : beginScImport r u e s =
      .ok () (importNoted r (importZeros t) (importCode t g u.imm.toNat h) (2 ^ 16 * opNat h 4 2) s) := by
  have crc := importCode_ne_four t g u.imm.toNat h
  refine (Op.bind_of_ok prep).trans ((Op.bind_of_ok head).trans ?_)
  simp only [bad, crc, false_and, or_self, if_false]
  exact (Op.pure_bind_apply _ _ _).trans (endsRecorded status)

/-- An image that passes the checks before its CRC is taken, or, with the wrong CRC, replaced by zeros (R130, R131). -/
theorem beginScImport_writes {els : List Stored} {code : Nat} (prep : Reads (importPrep r u e) s (t, g))
    (head : Reads (loadAt r g.base 64) s h) (status : t.status = none) (fits : importCode t g u.imm.toNat h = 0)
    (read : Reads (loadAt r (addrPlus g.base 64) (imagePayload t h)) s payload)
    (crc : (if crc32c (h.take 0x3C ++ payload) ≠ opNat h 0x3C 4 then 4 else 0) = code)
    (hels : (if code = 0 then importEls t h payload else importZeros t) = els)
    (rows : (List.range t.rows).forM (importRow r e t els) s = .ok () s2) :
    beginScImport r u e s = .ok () (importNoted r els code (2 ^ 16 * opNat h 4 2) s2) := by
  subst hels
  have stores : code = 0 ∨ code = 4 := by
    subst crc
    split <;> simp
  refine (Op.bind_of_ok prep).trans ((Op.bind_of_ok head).trans ?_)
  simp only [fits, true_and, if_true]
  refine (Op.bind_of_ok read).trans ?_
  simp only [crc, stores, if_true]
  exact (Op.bind_of_ok rows).trans (endsRecorded status)
end

theorem importChecksTheImage : Says.ImportChecksTheImage := by
  intro s s1 s2 r u e t g h payload hi prep status head c0 version
  have op : e.op = .scImport u := hi.op
  have ends {z : State} (hb : beginScImport r u e s1 = .ok () z) : exec (.scImport r u) s = .next (s.unitDone s1 r z) :=
    exec_of_issues (row := scImportRow) (by simp [unitRows]) hi (by simpa only [beginUnit, op] using hb)
  refine ⟨fun bad => ⟨importCode_ne_four _ _ _ _, _, ends (beginScImport_refuses prep head status bad), importNoted_rooms ..,
    importNoted_dram .., importNoted_status .., importNoted_rejected _ _ _ _ bad⟩, fun fits read => ⟨fun good rows => ?_, fun bad rows => ?_⟩,
    fun els i s3 s4 stored => Op.bind_of_ok stored⟩
  · rw [← importNoted_taken]
    exact ends (beginScImport_writes prep head status fits read (if_neg (not_not_intro good)) rfl rows)
  · exact ⟨_, ends (beginScImport_writes prep head status fits read (if_pos bad) rfl rows), importNoted_rooms .., importNoted_status ..,
      importNoted_rejected _ _ _ _ (by decide)⟩

/-- Settles O23: a fold, and an image written or checked, from what the Stair does when it begins the instruction, row by row. -/
theorem stairFoldsAndImages : Obligations.StairFoldsAndImages := ⟨foldMakesPairsCanonical, exportWritesAnImage, importChecksTheImage⟩

end Sys2Proof.Machine
end

section
/-! The Steward's loads and stores (11_instruction_set.md, R262, R263): what `ld` fills its register with and what `st` leaves in its own
room, another room, the Pantry and the sync space. -/

namespace Sys2Proof.Machine

/-! ## An instruction that the Steward executes and leaves -/

/-- The Steward leaves an instruction while the room's sampler is off: the issue is counted and it goes on to the next one (R257, R348). -/
theorem leave_unsampled {r : RoomId} {f : Fis} {s : State} (off : s.fld (rreg r Reg.winSampCtl) 0 1 = 0) :
    leave r f s = .ok () (s.stepped r id) := by
  simp only [leave, leaveTo, Op.get_bind_apply, Op.modify_apply, noteIssue_off off, State.modStew, State.modRoom_modRoom, State.stepped,
    State.jumped, id]

/-- A change of the Steward's registers, after which it goes on. -/
theorem stepped_modStew (s : State) (r : RoomId) (f : Stew → Stew) : (s.modStew r f).stepped r id = s.stepped r f := by
  simp only [State.stepped, State.jumped, State.modStew, State.modRoom_modRoom, State.modRoom_room, id]

/-- A ready room's Steward that has executed an instruction and gone on, in a state in which nothing waits in the room, settles there. -/
theorem inBlock_stepped {r : RoomId} {f : Fis} {s t : State} {g : Stew → Stew} (h : RoomReady s r)
    (ht : doFis r f s = .ok () (t.stepped r g)) (quiet : (t.room r).quiet) (free : (g (t.room r).stew).held = false) :
    inBlock (issue r f) s = .next (s.sealing (t.stepped r g)) := by
  have room : (t.stepped r g).room r =
      { t.room r with issues := (t.room r).issues + 1, stew := { (g (t.room r).stew).unstall with pc := (g (t.room r).stew).pc + 8 } } :=
    State.modRoom_room ..
  have settled : issue r f s = t.stepped r g :=
    issue_ready h ht (by rw [room]; exact quiet) (by rw [room]; rfl) (by rw [room]; exact free)
  rw [inBlock_up h.up, sealed, settled]
  rfl

/-- The same where that state has the queue of commands and the pins as they were. -/
theorem inBlock_stepped_kept {r : RoomId} {f : Fis} {s t : State} {g : Stew → Stew} (h : RoomReady s r)
    (ht : doFis r f s = .ok () (t.stepped r g)) (quiet : (t.room r).quiet) (free : (g (t.room r).stew).held = false)
    (pending : t.pending = s.pending) (pins : t.pins = s.pins) : inBlock (issue r f) s = .next (t.stepped r g) := by
  rw [inBlock_stepped h ht quiet free, State.sealing, ← pending, ← pins]
  rfl

/-- The register of a field that names one. -/
theorem regField_reads {f : Fis} {x : BitVec 7} {n : RegName} {s : State} (h : regName x = some n) : Reads (regField f x) s n := by
  simp only [Reads, regField, h, Op.pure_apply]

/-! ## What a load fills its register with -/

@[simp] theorem Stew.write_held (w : Stew) (n : RegName) (v : Word64) : (w.write n v).held = w.held := by
  cases n with
  | s i => simp only [Stew.write]; split <;> rfl
  | _ => rfl

@[simp] theorem Stew.loaded_held (rt : RegName) (n v : Nat) (w : Stew) : (Stew.loaded rt n v w).held = w.held := by
  cases rt with
  | d i =>
    simp only [Stew.loaded]
    split
    · rfl
    · exact Stew.write_held ..
  | _ => exact Stew.write_held ..

/-- A load of 32 bytes fills its d register (R255). -/
theorem putD_loaded {r : RoomId} {rt : RegName} {v : Nat} {s : State} (d : ∃ i, rt = .d i) :
    putD r rt v s = .ok () (s.modStew r (Stew.loaded rt 32 v)) := by
  obtain ⟨i, rfl⟩ := d
  rfl

/-- A narrower load writes its value as a scalar result (R255, R262). -/
theorem putScalar_loaded {r : RoomId} {rt : RegName} {n v : Nat} {s : State} (narrow : n ≠ 32) :
    putScalar r rt (BitVec.ofNat 64 v) s = .ok () (s.modStew r (Stew.loaded rt n v)) := by
  have same : Stew.loaded rt n v = fun w => w.write rt (BitVec.ofNat 64 v) := by
    funext w
    cases rt with
    | d i => simp only [Stew.loaded, narrow, if_false]
    | _ => rfl
  rw [same]
  rfl

/-- What `ld` does with the value that it has read: it fills its register, and the Steward goes on. -/
def fillAndLeave (r : RoomId) (g : FmtM) (rt : RegName) (n v : Nat) : Op Unit :=
  if n = 32 then putD r rt v >>= fun _ => leave r (.ld g) else putScalar r rt (BitVec.ofNat 64 v) >>= fun _ => leave r (.ld g)

/-! ## What a write of a store leaves as it is -/

/-- What a write of one of a room's stores leaves as it is: the room's queues and Steward, its sampler, the queue of commands and the
pins. -/
structure KeepsIssue (r : RoomId) (s t : State) : Prop where
  queues : (t.room r).queues = (s.room r).queues
  stew : (t.room r).stew = (s.room r).stew
  sampler : t.reg (rreg r Reg.winSampCtl) = s.reg (rreg r Reg.winSampCtl)
  pending : t.pending = s.pending
  pins : t.pins = s.pins

/-- A write of the Lamp's tables is flagged in registers of the Lamp alone (R137, R147). -/
theorem lampTouched_frame {r : RoomId} {s t : State} (o n : Nat) (h : KeepsIssue r s t) : KeepsIssue r s (lampTouched r o n t) := by
  have tables {i : Nat} (hi : i < 8) : rreg r Reg.winSampCtl ≠ rreg r Reg.lmTblt + 4 * i := by
    simp only [rreg, Reg.winSampCtl, Reg.lmTblt]
    omega
  have event : rreg r Reg.winSampCtl ≠ rreg r Reg.lmEvent := rreg_ne (by decide)
  refine List.foldlRecOn (motive := KeepsIssue r s) _ _ h (fun u hu i hi => ?_)
  dsimp only
  split
  · refine ⟨hu.queues, hu.stew, ?_, hu.pending, hu.pins⟩
    rw [reg_orReg_ne _ _ event, reg_setFld_ne _ _ (tables (List.mem_range.mp hi)), hu.sampler]
  · exact hu

/-- A write of a store of a room: its bytes at their place, but for those that the Lamp ignores, and a write of an active bank of the
Lamp's tables is flagged (R137, R147). -/
def State.storedIn (s : State) (r : RoomId) (st : Store) (o : Nat) (bs : List Byte) : State :=
  let t := s.setMem (some r) st (((s.room r).mem st).putBytes o (keptBytes st o bs))
  if st = .lamp then lampTouched r o bs.length t else t

theorem storedIn_frame (s : State) (r : RoomId) (st : Store) (o : Nat) (bs : List Byte) : KeepsIssue r s (s.storedIn r st o bs) := by
  have written (v : Memory) : KeepsIssue r s (s.setMem (some r) st v) := by
    refine ⟨?_, ?_, rfl, rfl, rfl⟩ <;> rw [State.setMem, State.modRoom_room] <;> cases st <;> rfl
  unfold State.storedIn
  split
  · exact lampTouched_frame _ _ (written _)
  · exact written _

/-! ## Tables and bytes -/

/-- A key of a table in canonical form that is set to what it reads by default, and reads that already, leaves the table as it is. -/
theorem sset_self {α : Type} [DecidableEq α] {d : α} {m : List (Nat × α)} {a : Nat} (wf : swf d m = true) (h : sget d m a = d) :
    sset d m a d = m := by
  unfold swf at wf
  generalize 0 = lo at wf
  induction m generalizing lo with
  | nil => simp only [sset, if_true]
  | cons x t ih =>
    obtain ⟨k, v⟩ := x
    simp only [swfFrom, Bool.and_eq_true, Bool.not_eq_true', decide_eq_false_iff_not] at wf
    obtain ⟨⟨-, hv⟩, ht⟩ := wf
    simp only [sget] at h
    simp only [sset, if_true]
    split at h
    · exact absurd h hv
    next other =>
      rw [if_neg other]
      split at h
      next below => rw [if_pos below]
      next above => rw [if_neg above, ih h _ ht]

theorem bytesOfNat_length (n v : Nat) : (bytesOfNat n v).length = n := by
  induction n generalizing v with
  | zero => rfl
  | succ n ih => simp only [bytesOfNat, List.length_cons, ih]

/-- A width of `ld` and `st` is at least one byte and at most 32 (R262). -/
theorem widthBytes_bounds {w : BitVec 3} {n : Nat} (h : widthBytes w = some n) : 0 < n ∧ n ≤ 32 := by
  revert h
  unfold widthBytes
  split <;> rintro ⟨⟩ <;> decide

/-- A list that fits one run is cut into that run alone. -/
theorem chunksOf_one {α : Type} {n : Nat} {l : List α} (ne : l ≠ []) (fits : l.length ≤ n) : chunksOf n l = [l] := by
  obtain ⟨x, t, rfl⟩ := List.exists_cons_of_ne_nil ne
  have rest (k : Nat) : chunksFuel n k ([] : List α) = [] := by cases k <;> rfl
  simp only [chunksOf, List.length_cons, chunksFuel, List.take_of_length_le fits, List.drop_of_length_le fits, rest]

section
variable {r : RoomId} {g : FmtM} {rt : RegName} {n : Nat} {p : Place} {s s1 : State}

/-- A load or store that is ready has its register, its width and its address (R262, R263). -/
theorem MemReady.form {f : Fis} (h : MemReady s r g rt n) : Reads (memForm r f g) s (rt, n, memAddr (s.room r).stew g) := by
  simp only [Reads, memForm, h.width, h.rsv, ne_eq, not_true_eq_false, if_false]
  refine (Op.bind_of_ok (regField_reads h.reg)).trans ?_
  by_cases wide : n = 32
  · obtain ⟨i, rfl⟩ := h.wide wide
    simp only [Bool.not_true, Bool.and_false, Bool.false_eq_true, if_false, Op.get_bind_apply, h.aligned, not_true_eq_false,
      Op.pure_apply]
  · simp only [wide, decide_false, Bool.false_and, Bool.false_eq_true, if_false, Op.get_bind_apply, h.aligned, not_true_eq_false,
      Op.pure_apply]

/-- What is loaded fills the register, and the Steward goes on. -/
theorem fillAndLeave_steps {v : Nat} (h : MemReady s r g rt n) (off : s1.fld (rreg r Reg.winSampCtl) 0 1 = 0) :
    fillAndLeave r g rt n v s1 = .ok () (s1.stepped r (Stew.loaded rt n v)) := by
  have left : leave r (.ld g) (s1.modStew r (Stew.loaded rt n v)) = .ok () (s1.stepped r (Stew.loaded rt n v)) := by
    rw [← stepped_modStew]
    exact leave_unsampled off
  unfold fillAndLeave
  split
  next wide =>
    subst wide
    exact (Op.bind_of_ok (putD_loaded (h.wide rfl))).trans left
  next narrow => exact (Op.bind_of_ok (putScalar_loaded narrow)).trans left

/-! ## Loads -/

/-- `ld` from a place of the stores: behind the room's own operations on their way there, its bytes fill the register (R11, R263). -/
theorem doLd_stores {bytes : List Byte} (h : MemReady s r g rt n) (place : decodeAddr r (memAddr (s.room r).stew g) n s = .ok p s)
    (stores : ∀ w, p ≠ .sync w) (flush : (if p.isLocal r then s else hallFlush r p.target s) = s1)
    (read : Reads (loadPlace p n) s1 bytes) (off : s1.fld (rreg r Reg.winSampCtl) 0 1 = 0) :
    doLd r g s = .ok () (s1.stepped r (Stew.loaded rt n (natOfBytes bytes))) := by
  let fill : Op Unit := loadPlace p n >>= fun x => fillAndLeave r g rt n (natOfBytes x)
  have fills : fill s1 = .ok () (s1.stepped r (Stew.loaded rt n (natOfBytes bytes))) :=
    (Op.bind_of_ok read).trans (fillAndLeave_steps h off)
  have behind : (if !p.isLocal r then modify (hallFlush r p.target) >>= fun _ => fill else fill) s =
      .ok () (s1.stepped r (Stew.loaded rt n (natOfBytes bytes))) := by
    cases here : p.isLocal r with
    | true => rw [here, if_pos rfl] at flush; exact flush ▸ fills
    | false => rw [here, if_neg Bool.false_ne_true] at flush; exact flush ▸ fills
  refine (Op.bind_of_ok h.form).trans ((Op.bind_of_ok place).trans ?_)
  cases p with
  | sync w => exact absurd rfl (stores w)
  | room | pantry => exact behind

/-- A sync word without errors is read as it is (R178). -/
theorem checkSyncWord_sound {w : Nat} (clean : syncEcc s w = 0) (wf : swf 0 s.land.ecc = true) : checkSyncWord r w s = .ok () s := by
  have few : ¬ 2 ≤ syncEcc s w := by omega
  simp only [checkSyncWord, Op.get_bind_apply, few, if_false, sset_self wf clean]
  rfl

/-- `ld` from the sync space: behind the room's own operations on the word, the whole word fills the register (R214, R263). -/
theorem doLd_sync {a w : Nat} (h : MemReady s r g rt n) (place : decodeAddr r (memAddr (s.room r).stew g) n s = .ok (.sync a) s)
    (handle : roomWord r a s = .ok w s) (flush : syncFlush r w s.land.ops.length s = s1) (clean : syncEcc s1 w = 0)
    (wf : swf 0 s1.land.ecc = true) (off : s1.fld (rreg r Reg.winSampCtl) 0 1 = 0) :
    doLd r g s = .ok () (s1.stepped r (Stew.loaded rt n (s1.word w).toNat)) := by
  subst flush
  have fills := fillAndLeave_steps (v := ((syncFlush r w s.land.ops.length s).word w).toNat) h off
  simp only [fillAndLeave, BitVec.ofNat_toNat, BitVec.setWidth_eq] at fills
  refine (Op.bind_of_ok h.form).trans ((Op.bind_of_ok place).trans ((Op.bind_of_ok handle).trans ?_))
  exact (Op.bind_of_ok (checkSyncWord_sound clean wf)).trans fills

/-! ## Stores -/

/-- A store writes as many bytes as its width. -/
theorem stBytes_length (w : Stew) (rt : RegName) (n : Nat) : (stBytes w rt n).length = n := by
  cases rt with
  | d i =>
    simp only [stBytes]
    split
    · next wide => rw [bytesOfNat_length, wide]
    · exact bytesOfNat_length ..
  | _ => exact bytesOfNat_length ..

/-- A write of a store of a room without errors puts its bytes at their place. -/
theorem storeBytes_room {st : Store} {o : Nat} {bs : List Byte} (clean : s.eccOf (some r) st = []) :
    storeBytes (some r) st o bs s = .ok () (s.storedIn r st o bs) := by
  refine (Op.bind_of_ok (eccWrite_none clean)).trans ?_
  cases st <;> rfl

/-- `st` to a store of its own room writes there at once (R263). -/
theorem doSt_own {st : Store} {o : Nat} (h : MemReady s r g rt n)
    (place : decodeAddr r (memAddr (s.room r).stew g) n s = .ok (.room r st o) s) (clean : s.eccOf (some r) st = []) :
    doSt r g s = .ok () ((s.storedIn r st o (stBytes (s.room r).stew rt n)).stepped r id) := by
  have own : (Place.room r st o).isLocal r = true := beq_self_eq_true r
  refine (Op.bind_of_ok h.form).trans ((Op.bind_of_ok place).trans ?_)
  simp only [Op.get_bind_apply, own, if_true]
  exact (Op.bind_of_ok (storeBytes_room clean)).trans
    (leave_unsampled ((fld_congr (storedIn_frame s r st o _).sampler 0 1).trans h.ready.unsampled))

/-- `st` to the stores outside its own room sends its bytes on their way, and the Steward goes on (R263). -/
theorem doSt_sent (h : MemReady s r g rt n) (place : decodeAddr r (memAddr (s.room r).stew g) n s = .ok p s) (away : p.isLocal r = false)
    (stores : ∀ w, p ≠ .sync w) :
    doSt r g s = .ok () ((sendWrites r p (stBytes (s.room r).stew rt n) .store (s.room r).stew.pc s).stepped r id) := by
  refine (Op.bind_of_ok h.form).trans ((Op.bind_of_ok place).trans ?_)
  cases p with
  | sync w => exact absurd rfl (stores w)
  | room | pantry =>
    simp only [Op.get_bind_apply, away, Bool.false_eq_true, if_false, Op.modify_bind_apply]
    exact leave_unsampled h.ready.unsampled

/-- `st` to the sync space is illegal (R263). -/
theorem doSt_sync {a : Nat} (h : MemReady s r g rt n) (place : decodeAddr r (memAddr (s.room r).stew g) n s = .ok (.sync a) s) :
    doSt r g s = .error ⟨.illegalInstruction, [(encodeFis (.st g)).toNat]⟩ s :=
  (Op.bind_of_ok h.form).trans (Op.bind_of_ok place)

/-- At most one packet's bytes are one remote write (R196). -/
theorem sendWrites_one {bs : List Byte} {w : Owner} {pc : Nat} (ne : bs ≠ []) (fits : bs.length ≤ packetBytes) :
    sendWrites r p bs w pc s =
      { s with hall := s.hall ++ [⟨r, p.target, (Place.at_ p).1, (Place.at_ p).2, .write bs, w, pc, false, []⟩] } := by
  have one : chunksOf packetBytes bs = [bs] := chunksOf_one ne fits
  simp only [sendWrites, one, List.zipIdx_singleton, List.map_cons, List.map_nil, Nat.mul_zero, Nat.add_zero]

end

/-! ## The statement's parts -/

theorem loadFromOwnRoom : Says.LoadFromOwnRoom := by
  intro s r g rt n st o h place clean
  have run := doLd_stores h place (by simp) (if_pos (beq_self_eq_true r)) (loadBytes_none clean) h.ready.unsampled
  exact inBlock_stepped_kept (f := .ld g) h.ready run h.ready.quiet (by simpa using h.ready.free) rfl rfl

theorem loadFromElsewhere : Says.LoadFromElsewhere := by
  intro s s1 r g rt n p h place quiet stew off
  have steps {v : Nat} (run : doLd r g s = .ok () (s1.stepped r (Stew.loaded rt n v))) :
      exec (.ld r g) s = .next (s.sealing (s1.stepped r (Stew.loaded rt n v))) :=
    inBlock_stepped (f := .ld g) h.ready run quiet (by simpa [stew] using h.ready.free)
  refine ⟨?_, ?_, ?_⟩
  · rintro q st o rfl other flush clean
    exact steps (doLd_stores h place (by simp) ((if_neg (by simpa [Place.isLocal] using other)).trans flush) (loadBytes_none clean) off)
  · rintro o rfl flush clean
    exact steps (doLd_stores h place (by simp) flush (loadBytes_none clean) off)
  · rintro a w rfl handle flush clean wf
    exact steps (doLd_sync h place handle flush clean wf off)

theorem storeToOwnRoom : Says.StoreToOwnRoom := by
  intro s r g rt n h
  refine ⟨fun st o place clean => ?_, fun a place => ?_⟩
  · obtain ⟨queues, stew, -, pending, pins⟩ := storedIn_frame s r st o (stBytes (s.room r).stew rt n)
    have quiet : ((s.storedIn r st o (stBytes (s.room r).stew rt n)).room r).quiet := by
      simpa only [Room.quiet, Room.queue, queues] using h.ready.quiet
    have steps := inBlock_stepped_kept (f := .st g) h.ready (doSt_own h place clean) quiet (by simpa only [id, stew] using h.ready.free)
      pending pins
    simp only [State.storedIn, stBytes_length] at steps
    exact steps
  · have faults := issue_fault (f := .st g) h.ready (doSt_sync h place) h.ready.quiet h.ready.free
    refine (inBlock_up h.ready.up).trans ?_
    rw [sealed, faults]
    rfl

theorem storedBytesAndNoOthers : Says.StoredBytesAndNoOthers := fun _ _ bs wf =>
  ⟨Memory.wf_putBytes _ bs wf, fun _ => Memory.get_putBytes_in, fun _ => Memory.get_putBytes_out bs⟩

theorem storeElsewhereIsSent : Says.StoreElsewhereIsSent := by
  intro s r g rt n p h place away stores
  have length := stBytes_length (s.room r).stew rt n
  obtain ⟨lo, hi⟩ := widthBytes_bounds h.width
  have sent := sendWrites_one (s := s) (r := r) (p := p) (bs := stBytes (s.room r).stew rt n) (w := .store) (pc := (s.room r).stew.pc)
    (List.ne_nil_of_length_pos (by rw [length]; exact lo)) (by rw [length]; exact Nat.le_trans hi (by decide))
  have run := doSt_sent h place away stores
  rw [sent] at run
  exact inBlock_stepped_kept (f := .st g) h.ready run h.ready.quiet h.ready.free rfl rfl

/-- Settles O12: each part from what `ld` and `st` do at the place that the address names. -/
theorem loadsAndStores : Obligations.LoadsAndStores :=
  ⟨loadFromOwnRoom, loadFromElsewhere, storeToOwnRoom, storedBytesAndNoOthers, storeElsewhereIsSent⟩

end Sys2Proof.Machine
end

section
/-! Attention over a page list (07_parlour.md, R154-R161, R164, R166, R173). -/

namespace Sys2Proof.Machine

/-! ## Counters -/

/-- A field that is counted up stops at its largest value. -/
theorem fld_satFld_same (s : State) {k lo w : Nat} (n : Nat) (h : lo + w ≤ 32) :
    (s.satFld k lo w n).fld k lo w = min (2 ^ w - 1) (s.fld k lo w + n) := by
  have fits : min (2 ^ w - 1) (s.fld k lo w + n) < 2 ^ w :=
    Nat.lt_of_le_of_lt (Nat.min_le_left _ _) (Nat.sub_one_lt (Nat.ne_of_gt (Nat.two_pow_pos w)))
  rw [State.satFld, fld_setFld_same s _ h, satAdd, Nat.mod_eq_of_lt fits]

/-- A field that is counted up leaves every other register alone. -/
theorem reg_satFld_ne (s : State) {k j lo w : Nat} (n : Nat) (h : j ≠ k) : (s.satFld k lo w n).reg j = s.reg j :=
  reg_setFld_ne s _ h

/-- A counter of 64 bits leaves every register alone that is neither of its words. -/
theorem reg_count64_ne (s : State) {k j : Nat} (n : Nat) (low : j ≠ k) (high : j ≠ k + 4) : (s.count64 k n).reg j = s.reg j :=
  (State.reg_setReg_ne _ _ high).trans (State.reg_setReg_ne _ _ low)

/-- A register of 64 bits whose words read as before reads as before. -/
theorem reg64_congr {a b : State} {k : Nat} (low : a.reg k = b.reg k) (high : a.reg (k + 4) = b.reg (k + 4)) : a.reg64 k = b.reg64 k := by
  rw [State.reg64, State.reg64, low, high]

/-- A counter of 64 bits wraps. -/
theorem reg64_count64_same (s : State) (k n : Nat) : (s.count64 k n).reg64 k = (s.reg64 k + n) % 2 ^ 64 := by
  have words : k ≠ k + 4 := by omega
  rw [State.count64, State.setReg64, State.reg64, State.reg_setReg_ne _ _ words, State.reg_setReg_same, State.reg_setReg_same,
    BitVec.toNat_ofNat, BitVec.toNat_ofNat]
  omega

/-! ## What the Parlour counts -/

/-- The block after a `pa.attend` whose rows are `rows`, with `below` pages below its floor: PA_KEYS, PA_EMPTY_ROWS, PA_FLOOR_BELOW and
PA_EVENT take what it met (R159, R164). -/
def attendNoted (r : RoomId) (response : Nat) (rows : List AttnRow) (below : Nat) (s : State) : State :=
  let empty := (rows.filter (fun x => x.first)).length
  let flag := response = 1 ∧ 0 < below
  let s1 := (s.count64 (rreg r Reg.paKeys) ((rows.map (fun x => x.keys)).foldl (· + ·) 0)).satFld (rreg r Reg.paEmptyRows) 0 32 empty
  let s2 := if flag then s1.satFld (rreg r Reg.paFloorBelow) 0 32 below else s1
  s2.orReg (rreg r Reg.paEvent) ((if flag then 1 else 0) + (if 0 < empty then 2 else 0) + (if rows.any (fun x => x.bad) then 8 else 0))

section
variable (r : RoomId) (response : Nat) (rows : List AttnRow) (below : Nat) (s : State)

/-- It changes registers alone. -/
theorem attendNoted_frame : (attendNoted r response rows below s).rooms = s.rooms ∧ (attendNoted r response rows below s).dram = s.dram := by
  unfold attendNoted
  dsimp only
  split <;> exact ⟨rfl, rfl⟩

/-- Past PA_FLOOR_BELOW and PA_EVENT, its registers are those of its two counters. -/
theorem attendNoted_reg {k : Nat} (event : k ≠ rreg r Reg.paEvent) (floor : k ≠ rreg r Reg.paFloorBelow) :
    (attendNoted r response rows below s).reg k = ((s.count64 (rreg r Reg.paKeys) ((rows.map (fun x => x.keys)).foldl (· + ·) 0)).satFld
      (rreg r Reg.paEmptyRows) 0 32 (rows.filter (fun x => x.first)).length).reg k := by
  refine (reg_orReg_ne _ _ event).trans ?_
  split
  · exact reg_satFld_ne _ _ floor
  · rfl

theorem attendNoted_keys : (attendNoted r response rows below s).reg64 (rreg r Reg.paKeys) =
    (s.reg64 (rreg r Reg.paKeys) + (rows.map (fun x => x.keys)).foldl (· + ·) 0) % 2 ^ 64 := by
  have high : rreg r Reg.paKeys + 4 = rreg r (Reg.paKeys + 4) := Nat.add_assoc _ _ _
  rw [← reg64_count64_same]
  refine reg64_congr ?_ ?_
  · rw [attendNoted_reg _ _ _ _ _ (rreg_ne (by decide)) (rreg_ne (by decide)), reg_satFld_ne _ _ (rreg_ne (by decide))]
  · rw [high, attendNoted_reg _ _ _ _ _ (rreg_ne (by decide)) (rreg_ne (by decide)), reg_satFld_ne _ _ (rreg_ne (by decide))]

theorem attendNoted_emptyRows : (attendNoted r response rows below s).fld (rreg r Reg.paEmptyRows) 0 32 =
    min (2 ^ 32 - 1) (s.fld (rreg r Reg.paEmptyRows) 0 32 + (rows.filter (fun x => x.first)).length) := by
  have high : rreg r Reg.paKeys + 4 = rreg r (Reg.paKeys + 4) := Nat.add_assoc _ _ _
  have counted : rreg r Reg.paEmptyRows ≠ rreg r Reg.paKeys + 4 := high ▸ rreg_ne (by decide)
  rw [fld_congr (attendNoted_reg r response rows below s (rreg_ne (by decide)) (rreg_ne (by decide))), fld_satFld_same _ _ (by decide),
    fld_congr (reg_count64_ne s _ (rreg_ne (by decide)) counted)]

/-- A page below the floor that is accepted is flagged (R164). -/
theorem attendNoted_floorBelow (accepts : response = 1) (met : 0 < below) :
    (attendNoted r response rows below s).fld (rreg r Reg.paEvent) 0 1 = 1 := by
  refine fld_orReg_bit _ (by decide) ?_
  rw [if_pos ⟨accepts, met⟩]
  split <;> split <;> decide

/-- A row with no live key is flagged (R159). -/
theorem attendNoted_emptyRow (h : 0 < (rows.filter (fun x => x.first)).length) :
    (attendNoted r response rows below s).fld (rreg r Reg.paEvent) 1 1 = 1 := by
  refine fld_orReg_bit _ (by decide) ?_
  rw [if_pos h]
  split <;> split <;> decide
end

/-! ## `pa.attend` -/

theorem attendMeetsItsPages : Says.AttendMeetsItsPages := by
  intro s s1 s2 s3 s4 r u e a q o pl qs pos rows ms below fs fw h prep status list queries positions pages outs scores empty
  have op : e.op = .paAttend u := h.op
  have hq : Reads ((List.range a.q).mapM (fun i => loadOpds r a.qfmt (q.rowAddr i) a.dim)) s1 ((List.range a.q).map qs) :=
    Reads.mapM (fun i hi => queries i (List.mem_range.mp hi))
  have hp : Reads ((List.range (a.q / a.g)).mapM (fun i => loadNat r (addrPlus a.pos (8 * i)) 8)) s1 ((List.range (a.q / a.g)).map pos) :=
    Reads.mapM (fun i hi => positions i (List.mem_range.mp hi))
  have begun : beginPaAttend r u e s1 = .ok () (attendNoted r a.response rows below s4) := by
    refine (Op.bind_of_ok prep).trans ?_
    refine (Op.bind_of_ok list).trans ?_
    refine (Op.bind_of_ok hq).trans ?_
    refine (Op.bind_of_ok hp).trans ?_
    refine (Op.bind_of_ok pages).trans ?_
    refine (Op.bind_of_ok outs).trans ?_
    cases update : a.update <;> rw [update] at scores <;> exact (Op.bind_of_ok scores).trans (endsRecorded status)
  obtain ⟨rooms, dram⟩ := attendNoted_frame r a.response rows below s4
  exact ⟨_, exec_of_issues (row := paAttendRow) (by simp [unitRows]) h (by simpa only [beginUnit, op] using begun), rooms, dram,
    attendNoted_keys .., attendNoted_emptyRows .., attendNoted_floorBelow _ _ _ _ _, attendNoted_emptyRow _ _ _ _ _⟩

/-! ## Pages -/

/-- Whether an index is among those that pass a test. -/
theorem contains_filter_range {n j : Nat} (p : Nat → Bool) (h : j < n) : ((List.range n).filter p).contains j = p j := by
  rw [Bool.eq_iff_iff, List.contains_iff_mem, List.mem_filter, List.mem_range, and_iff_right h]

/-- The tokens of a page are read for its live keys alone. -/
theorem liveTokens_reads {r : RoomId} {list dim n : Nat} {m : MetPage} {v : Bool} {any : Nat → Bool} {tokens : Nat → List Opd} {s : State}
    (h : ∀ j < n, any j = true → Reads (loadToken r list m dim v j) s (tokens j)) :
    Reads ((List.range n).mapM (fun j => if ((List.range n).filter any).contains j then loadToken r list m dim v j else pure [])) s
      ((List.range n).map (fun j => if any j then tokens j else [])) := by
  refine Reads.mapM (fun j hj => ?_)
  have hn := List.mem_range.mp hj
  rw [contains_filter_range any hn]
  split
  next live => exact h j hn live
  next => rfl

theorem attendSkipsDeadPages : Says.AttendSkipsDeadPages := by
  intro s r a theta qs pos rows m keys vals lives any
  refine ⟨fun dead => ?_, fun ⟨j, hj, live⟩ tokens => ?_⟩
  · have noKey : ((List.range 64).filter any).isEmpty = true := by simpa [List.filter_eq_nil_iff] using dead
    exact congrFun (if_pos noKey) s
  · have someKey : ¬ ((List.range 64).filter any).isEmpty = true := by
      simpa [List.filter_eq_nil_iff] using ⟨j, hj, live⟩
    have hk := liveTokens_reads (fun j hj hl => (tokens j hj hl).1)
    have hv := liveTokens_reads (fun j hj hl => (tokens j hj hl).2)
    exact (congrFun (if_neg someKey) s).trans ((Op.bind_of_ok hk).trans (Op.bind_of_ok hv))

/-- Settles O26: the instruction from what the Parlour does when it begins it, and a page from whether it has a live key. -/
theorem parlourAttends : Obligations.ParlourAttends := ⟨attendMeetsItsPages, attendSkipsDeadPages⟩

end Sys2Proof.Machine
end

section
/-! Page lists: `pa.pageset` (07_parlour.md, R167-R170). -/

namespace Sys2Proof.Machine

/-! ## Pinned sinks -/

/-- The note of a list's sink changes what Threshold holds alone. -/
theorem noteSink_frame (r : RoomId) (sink : Bool) (pages : List Nat) (s : State) : let t := noteSink r sink pages s
    t.rooms = s.rooms ∧ t.dram = s.dram ∧ t.jobs = s.jobs ∧ t.regs = s.regs := by
  unfold noteSink
  dsimp only
  split <;> exact ⟨rfl, rfl, rfl, rfl⟩

/-! ## Advance within a page -/

/-- The block after an advance by which no page came or went: its counters and its event are written as they were (R168). -/
def advanceNoted (r : RoomId) (s : State) : State :=
  ((s.satFld (rreg r Reg.paExpired) 0 32 0).satFld (rreg r Reg.paEvictions) 0 32 0).orReg (rreg r Reg.paEvent) 0

theorem advanceNoted_reg_ne {r : RoomId} {k : Nat} (s : State) (event : k ≠ rreg r Reg.paEvent) (evicted : k ≠ rreg r Reg.paEvictions)
    (expired : k ≠ rreg r Reg.paExpired) : (advanceNoted r s).reg k = s.reg k := by
  rw [advanceNoted, reg_orReg_ne _ _ event, reg_satFld_ne _ _ evicted, reg_satFld_ne _ _ expired]

/-- The note of a list's sink does not depend on those registers. -/
theorem noteSink_advanceNoted_thr (r : RoomId) (sink : Bool) (pages : List Nat) (s : State) :
    (noteSink r sink pages (advanceNoted r s)).thr = (noteSink r sink pages s).thr := by
  have larder : roomLarder (advanceNoted r s) r = roomLarder s r := rfl
  unfold noteSink
  rw [larder]
  cases roomLarder s r <;> cases pages <;> rfl

theorem pagesetAdvances : Says.PagesetAdvances := by
  intro s s1 s2 s3 s4 r u e a pl ld o hs x h prep status window within copies holds counted listed answered
  have op : e.op = .paPageset (paPagesetAdvanceRow.prep u) := h.op
  have form : (paPagesetAdvanceRow.prep u).imm.getLsbD 0 = false := getLsbD_withImm (by decide) (by decide) (by decide)
  have noneExpires : (hs.zipIdx.filter (fun x => !([] : List ((Nat × PageHdr) × Nat)).contains x)).map Prod.fst = hs :=
    (congrArg _ (List.filter_eq_self.mpr (fun _ _ => rfl))).trans (List.zipIdx_map_fst 0 hs)
  have noneEvicted : hs.filter (fun x => some x.1 != none) = hs := List.filter_eq_self.mpr (fun _ _ => rfl)
  have begun : pagesetAdvance r (paPagesetAdvanceRow.prep u) e s1 =
      .ok () (noteSink r pl.sink (hs.map Prod.fst) (advanceNoted r s4)) := by
    refine (Op.bind_of_ok prep).trans ?_
    refine (Op.bind_of_ok copies).trans ?_
    simp only [window, within, if_true, if_false, false_and, noneExpires, noneEvicted]
    refine (Op.pure_bind_apply _ _ _).trans ?_
    simp only [holds]
    refine (Op.bind_of_ok counted).trans ?_
    refine (Op.bind_of_ok listed).trans ?_
    refine (Op.bind_of_ok answered).trans ?_
    exact endsRecorded status
  obtain ⟨rooms, dram, jobs, regs⟩ := noteSink_frame r pl.sink (hs.map Prod.fst) (advanceNoted r s4)
  exact ⟨_, exec_of_issues (row := paPagesetAdvanceRow) (by simp [unitRows]) h
      (by simpa only [beginUnit, op, beginPaPageset, form, Bool.false_eq_true, if_false] using begun),
    rooms, dram, jobs, noteSink_advanceNoted_thr .., fun k event evicted expired =>
      (State.reg_eq regs k).trans (advanceNoted_reg_ne s4 event evicted expired)⟩

/-! ## Narrow -/

theorem pagesetNarrows : Says.PagesetNarrows := by
  intro s s1 s2 s3 s4 s5 s6 r u e a pl ld o hb p fs h prep status v ix tag form old hd dst copy narrower magic allowed dim taken headed
    narrowed named answered
  have op : e.op = .paPageset v := h.op
  have narrows : v.imm.getLsbD 0 = true := getLsbD_withImm (by decide) (by decide) (by decide)
  have sound : ¬ (hd.magic ≠ pageMagic ∨ !tagForm hd.tag hd.form ∨ headDim hd.dim ≠ some a.dim) := by simp [magic, allowed, dim]
  have begun : pagesetNarrow r v e s1 = .ok () (freeLater r old (noteSink r pl.sink (pl.pages.set ix p) s6)) := by
    refine (Op.bind_of_ok prep).trans ?_
    refine (Op.bind_of_ok copy).trans ?_
    refine (congrFun (if_neg (Nat.not_le.mpr narrower)) s1).trans ?_
    refine (congrFun (if_neg sound) s1).trans ?_
    refine (Op.bind_of_ok taken).trans ?_
    refine (Op.bind_of_ok headed).trans ?_
    refine (Op.bind_of_ok narrowed).trans ?_
    refine (Op.bind_of_ok named).trans ?_
    refine (Op.bind_of_ok answered).trans ?_
    exact endsRecorded status
  exact exec_of_issues (row := paPagesetNarrowRow) (by simp [unitRows]) h
    (by simpa only [beginUnit, op, beginPaPageset, narrows, if_true] using begun)

/-- Settles O27: an advance within a page and a narrow, from what the Parlour does when it begins the instruction. -/
theorem parlourTurnsPages : Obligations.ParlourTurnsPages := ⟨pagesetAdvances, pagesetNarrows⟩

end Sys2Proof.Machine
end
